-- ==== Sys2Proof/Word.lean ====
section
/-! DEFINITION. The word types of the EZG8-768 (R2, R3, R26): bytes, 32-bit code words, 64-bit registers,
2,048-bit vector registers and 512-bit shape registers. -/

namespace Sys2Proof

abbrev Byte := BitVec 8
/-- A code word, a literal, a lane (R55, R181). -/
abbrev Word32 := BitVec 32
/-- A scalar, G or system register (R82, R113, R142). -/
abbrev Word64 := BitVec 64
/-- A V register (R181). -/
abbrev VReg := BitVec 2048
/-- An H register or tensor record: sixteen 32-bit fields (R138). -/
abbrev HReg := BitVec 512
/-- An accumulator entry (R35, R37). -/
abbrev Acc72 := BitVec 72
/-- A field of a code word that selects a register (R60, R82). -/
abbrev RField := BitVec 6

end Sys2Proof
end

