-- ==== Sys2Proof/Machine/Num.lean ====
section
/-! DEFINITION. Number formats and exact arithmetic (spec 02): values as exact dyadic numbers, decode, round_to with
overflow and flush, the sums of the array, and the integer helpers of R50. -/

namespace Sys2Proof.Machine

/-! ### Integers (R31, R50) -/

/-- Two's complement reading of the low n bits. -/
def signExtend (n : Nat) (x : Nat) : Int :=
  let y := x % 2 ^ n
  if y < 2 ^ (n - 1) then (y : Int) else (y : Int) - 2 ^ n

def satSigned (n : Nat) (x : Int) : Int := max (-(2 ^ (n - 1) : Int)) (min x (2 ^ (n - 1) - 1))

def satUnsigned (n : Nat) (x : Int) : Int := max 0 (min x (2 ^ n - 1))

/-- The low n bits of an integer. -/
def wrapInt (n : Nat) (x : Int) : Nat := (x % (2 ^ n : Int)).toNat

/-- Leading zeros of the low n bits (R50). -/
def clzBits (n x : Nat) : Nat :=
  let y := x % 2 ^ n
  if y = 0 then n else n - 1 - y.log2

/-- Number of one bits among the low n (R50). -/
def popcBits : Nat → Nat → Nat
  | 0, _ => 0
  | n + 1, x => x % 2 + popcBits n (x / 2)

/-! ### Values -/

/-- A value of a format: NaN, an infinity, or (-1)^neg * m * 2^e. Zero keeps its sign. -/
inductive Ext where
  | nan
  | inf (neg : Bool)
  | fin (neg : Bool) (m : Nat) (e : Int)
  deriving DecidableEq, Repr

namespace Ext

def zero (neg : Bool) : Ext := .fin neg 0 0

def ofInt (x : Int) : Ext := .fin (x < 0) x.natAbs 0

/-- The sign; a NaN has none. -/
def sign : Ext → Bool
  | .nan => false
  | .inf n => n
  | .fin n _ _ => n

def isNan : Ext → Bool
  | .nan => true
  | _ => false

def isFinite : Ext → Bool
  | .fin .. => true
  | _ => false

def isZero : Ext → Bool
  | .fin _ 0 _ => true
  | _ => false

def neg : Ext → Ext
  | .nan => .nan
  | .inf n => .inf !n
  | .fin n m e => .fin (!n) m e

def abs : Ext → Ext
  | .nan => .nan
  | .inf _ => .inf false
  | .fin _ m e => .fin false m e

/-- The signed significand of a finite value over 2^e. -/
def signed (n : Bool) (m : Nat) : Int := if n then -(m : Int) else m

/-- The value with exponent e0, no greater than its own: the significand alone. -/
def alignTo (e0 : Int) (n : Bool) (m : Nat) (e : Int) : Int := signed n (m * 2 ^ (e - e0).toNat)

/-- The exact sum of R46. rdn: the mode rounds towards minus infinity. -/
def add (rdn : Bool) : Ext → Ext → Ext
  | .nan, _ => .nan
  | _, .nan => .nan
  | .inf a, .inf b => if a == b then .inf a else .nan
  | .inf a, .fin .. => .inf a
  | .fin .., .inf b => .inf b
  | .fin na ma ea, .fin nb mb eb =>
    if ma = 0 ∧ mb = 0 then .fin (if na == nb then na else rdn) 0 0
    else
      let e0 := min ea eb
      let s := alignTo e0 na ma ea + alignTo e0 nb mb eb
      if s = 0 then .fin rdn 0 0 else .fin (s < 0) s.natAbs e0

def sub (rdn : Bool) (x y : Ext) : Ext := add rdn x y.neg

/-- The exact product of R46. -/
def mul : Ext → Ext → Ext
  | .nan, _ => .nan
  | _, .nan => .nan
  | .inf a, .inf b => .inf (a != b)
  | .inf a, .fin n m _ => if m = 0 then .nan else .inf (a != n)
  | .fin n m _, .inf b => if m = 0 then .nan else .inf (n != b)
  | .fin na ma ea, .fin nb mb eb => .fin (na != nb) (ma * mb) (ea + eb)

/-- The value times 2^k. -/
def scale (k : Int) : Ext → Ext
  | .fin n m e => .fin n m (e + k)
  | x => x

/-- Strict order of values that are not NaN; the zeros are equal. -/
def lt : Ext → Ext → Bool
  | .nan, _ => false
  | _, .nan => false
  | .inf a, .inf b => a && !b
  | .inf a, .fin .. => a
  | .fin .., .inf b => !b
  | .fin na ma ea, .fin nb mb eb =>
    let e0 := min ea eb
    alignTo e0 na ma ea < alignTo e0 nb mb eb

/-- Equality of values; the zeros are equal and a NaN equals nothing (R46). -/
def eq (x y : Ext) : Bool := !x.isNan && !y.isNan && !lt x y && !lt y x

/-- Minimum of R46: any NaN gives NaN, and -0 is below +0. -/
def minimum (x y : Ext) : Ext :=
  if x.isNan || y.isNan then .nan
  else if lt x y then x else if lt y x then y else if x.sign then x else y

def maximum (x y : Ext) : Ext :=
  if x.isNan || y.isNan then .nan
  else if lt x y then y else if lt y x then x else if x.sign then y else x

end Ext

/-! ### Formats (R26 to R28, R35) -/

/-- A floating-point format: exponent bits, fraction bits, bias; e4m3 marks the format without infinities. -/
structure FFmt where
  eb : Nat
  fb : Nat
  bias : Nat
  e4m3 : Bool := false
  deriving DecidableEq, Repr

namespace FFmt

def width (f : FFmt) : Nat := 1 + f.eb + f.fb
/-- Exponent of the smallest normal number. -/
def emin (f : FFmt) : Int := 1 - (f.bias : Int)
/-- Exponent of the largest finite number. -/
def emax (f : FFmt) : Int := if f.e4m3 then 8 else (2 ^ f.eb - 2 : Int) - f.bias
/-- Significand of the largest finite number in units of its last bit. -/
def maxSig (f : FFmt) : Nat := if f.e4m3 then 14 else 2 ^ (f.fb + 1) - 1

/-- The canonical NaN (R29). -/
def nanBits (f : FFmt) : Nat :=
  if f.e4m3 then 0x7F else (2 ^ f.eb - 1) * 2 ^ f.fb + 2 ^ (f.fb - 1)

def infBits (f : FFmt) : Nat := (2 ^ f.eb - 1) * 2 ^ f.fb

/-- Largest finite magnitude as bits. -/
def maxBits (f : FFmt) : Nat := if f.e4m3 then 0x7E else f.infBits - 1

end FFmt

def binary64 : FFmt := { eb := 11, fb := 52, bias := 1023 }
def binary32 : FFmt := { eb := 8, fb := 23, bias := 127 }
def binary16 : FFmt := { eb := 5, fb := 10, bias := 15 }
def bfloat16 : FFmt := { eb := 8, fb := 7, bias := 127 }
def e5m2 : FFmt := { eb := 5, fb := 2, bias := 15 }
def e4m3 : FFmt := { eb := 4, fb := 3, bias := 7, e4m3 := true }
def acc72 : FFmt := { eb := 13, fb := 58, bias := 4095 }

/-- What an element code names (R26). -/
inductive Elem where
  | int (w : Nat) (signed : Bool)
  | float (f : FFmt)
  | dsw8
  | reserved
  deriving DecidableEq, Repr

def elemOf (code : Nat) : Elem :=
  match code with
  | 0x0 => .int 8 true
  | 0x1 => .int 16 true
  | 0x2 => .int 32 true
  | 0x3 => .int 64 true
  | 0x4 => .int 8 false
  | 0x5 => .int 16 false
  | 0x6 => .int 32 false
  | 0x7 => .int 64 false
  | 0x8 => .float e4m3
  | 0x9 => .float e5m2
  | 0xA => .float bfloat16
  | 0xB => .float binary16
  | 0xC => .float binary32
  | 0xD => .float binary64
  | 0xE => .dsw8
  | _ => .reserved

/-- Bytes of an element (R153); 0 for the reserved code. -/
def elemSize (code : Nat) : Nat :=
  match code with
  | 0x0 | 0x4 | 0x8 | 0x9 | 0xE => 1
  | 0x1 | 0x5 | 0xA | 0xB => 2
  | 0x2 | 0x6 | 0xC => 4
  | 0x3 | 0x7 | 0xD => 8
  | _ => 0

/-- The value a bit pattern encodes (R27, R28, R35). -/
def decodeFloat (f : FFmt) (bits : Nat) : Ext :=
  let neg := bits / 2 ^ (f.eb + f.fb) % 2 == 1
  let ex := bits / 2 ^ f.fb % 2 ^ f.eb
  let fr := bits % 2 ^ f.fb
  if f.e4m3 && ex == 15 && fr == 7 then .nan
  else if !f.e4m3 && ex == 2 ^ f.eb - 1 then (if fr = 0 then .inf neg else .nan)
  else if ex = 0 then .fin neg fr (f.emin - f.fb)
  else .fin neg (2 ^ f.fb + fr) ((ex : Int) - f.bias - f.fb)

/-- A pattern of the format is subnormal: exponent field zero, fraction not (R30). -/
def subnormal (f : FFmt) (bits : Nat) : Bool := bits / 2 ^ f.fb % 2 ^ f.eb == 0 && bits % 2 ^ f.fb != 0

/-- decode with FTZI (R30). -/
def decodeFlush (ftzi : Bool) (f : FFmt) (bits : Nat) : Ext :=
  if ftzi && subnormal f bits then .zero (bits / 2 ^ (f.eb + f.fb) % 2 == 1) else decodeFloat f bits

/-! ### Rounding (R42 to R44) -/

/-- The rounding modes (R42). -/
inductive RMode where
  | rne | rtz | rup | rdn | sr
  deriving DecidableEq, Repr

def RMode.ofCode : Nat → RMode
  | 1 => .rtz
  | 2 => .rup
  | 3 => .rdn
  | 4 => .sr
  | _ => .rne

/-- A magnitude of m * 2^-sh rounded to an integer; neg is the sign the mode sees, z the slice of SR. -/
def roundMag (mode : RMode) (neg : Bool) (m sh z : Nat) : Nat :=
  let q := m / 2 ^ sh
  let r := m % 2 ^ sh
  match mode with
  | .rne => if 2 * r > 2 ^ sh || (2 * r == 2 ^ sh && q % 2 == 1) then q + 1 else q
  | .rtz => q
  | .rup => if r != 0 && !neg then q + 1 else q
  | .rdn => if r != 0 && neg then q + 1 else q
  | .sr => if sh ≥ 8 then (m + z * 2 ^ (sh - 8)) / 2 ^ sh else (m + z / 2 ^ (8 - sh)) / 2 ^ sh

/-- The result of an overflow (R43). -/
def overflowBits (f : FFmt) (mode : RMode) (neg : Bool) : Nat :=
  if f.e4m3 then f.maxBits
  else match mode with
    | .rne | .sr => f.infBits
    | .rtz => f.maxBits
    | .rup => if neg then f.maxBits else f.infBits
    | .rdn => if neg then f.infBits else f.maxBits

/-- round_to for a floating-point destination (R50): rounding, overflow, then flush by ftzo. -/
def roundFloat (f : FFmt) (mode : RMode) (z : Nat) (ftzo : Bool) (x : Ext) : Nat :=
  let signBit (n : Bool) : Nat := if n then 2 ^ (f.eb + f.fb) else 0
  match x with
  | .nan => f.nanBits
  | .inf n => signBit n + (if f.e4m3 then f.maxBits else f.infBits)
  | .fin n m e =>
    if m = 0 then signBit n
    else
      let top : Int := m.log2 + e
      let q : Int := max top f.emin - f.fb
      let r := if q ≤ e then m * 2 ^ (e - q).toNat else roundMag mode n m (q - e).toNat z
      if f.emax - f.fb < q || r > f.maxSig * 2 ^ (f.emax - f.fb - q).toNat then signBit n + overflowBits f mode n
      else
        let body := if r < 2 ^ f.fb then r else (q + f.fb + f.bias).toNat * 2 ^ f.fb + (r - 2 ^ f.fb)
        if ftzo && r < 2 ^ f.fb then signBit n else signBit n + body

/-- round_to for an integer destination: rounded to an integer, then saturated; NaN gives 0 (R43). -/
def roundInt (w : Nat) (signed : Bool) (mode : RMode) (z : Nat) (x : Ext) : Nat :=
  let sat (v : Int) : Nat := wrapInt w (if signed then satSigned w v else satUnsigned w v)
  match x with
  | .nan => 0
  | .inf n => sat (if n then -(2 ^ w : Int) else 2 ^ w)
  | .fin n m e =>
    let r := if 0 ≤ e then m * 2 ^ e.toNat else roundMag mode n m (-e).toNat z
    sat (Ext.signed n r)

/-- round_to for an element code; the codes that no conversion writes give 0. -/
def roundElem (code : Nat) (mode : RMode) (z : Nat) (ftzo : Bool) (x : Ext) : Nat :=
  match elemOf code with
  | .int w s => roundInt w s mode z x
  | .float f => roundFloat f mode z ftzo x
  | _ => 0

/-- Value of a DSW8 byte without scale, times 64: an integer in [-128, 128] (R33, R34). -/
def dsw8Int (w : Nat) : Int :=
  let term (s c : Nat) : Int := if c = 7 then 0 else (if s = 1 then -1 else 1) * 2 ^ (6 - c)
  term (w / 128 % 2) (w / 16 % 8) + term (w / 8 % 2) (w % 8)

/-- decode for an element code (R50). -/
def decodeElem (ftzi : Bool) (code bits : Nat) : Ext :=
  match elemOf code with
  | .int w s => Ext.ofInt (if s then signExtend w bits else (bits % 2 ^ w : Nat))
  | .float f => decodeFlush ftzi f (bits % 2 ^ f.width)
  | .dsw8 => (Ext.ofInt (dsw8Int (bits % 256))).scale (-6)
  | .reserved => .nan

/-- An E8M0 scale (R32). -/
def e8m0 (b : Nat) : Ext := if b % 256 = 255 then .nan else .fin false 1 ((b % 256 : Nat) - 127)

/-! ### Sums (R39, R40, R221) -/

/-- The exact sum of a list after a first value, as one sum: NaN or both infinities give NaN. -/
def exactSum (x : Ext) (ps : List Ext) : Ext := ps.foldl (Ext.add false) x

def rne32 (x : Ext) : Word32 := BitVec.ofNat 32 (roundFloat binary32 .rne 0 false x)
def val32 (w : Word32) : Ext := decodeFloat binary32 w.toNat
def rne72 (x : Ext) : Acc72 := BitVec.ofNat 72 (roundFloat acc72 .rne 0 false x)
def val72 (a : Acc72) : Ext := decodeFloat acc72 a.toNat

/-! ### The lattice types (R51) -/

/-- IEEE 754 totalOrder of binary64 patterns as an integer key; NaN is refused before. -/
def orderKey64 (x : Word64) : Int := if x.getLsbD 63 then -((x.toNat % 2 ^ 63 : Nat) : Int) - 1 else x.toNat

def isNan64 (x : Word64) : Bool := (decodeFloat binary64 x.toNat).isNan

/-- MAXPAIR: key [63:32] signed, payload unsigned. -/
def pairKey (x : Word64) : Int := x.toInt

/-- Lane j of a cell of 64-bit counts. -/
def cellLane (c : BitVec 512) (j : Nat) : Word64 := c.extractLsb' (64 * j) 64

/-- A cell from eight counts, lane 0 first. -/
def cellOfLanes (f : Nat → Word64) : BitVec 512 :=
  f 7 ++ f 6 ++ f 5 ++ f 4 ++ f 3 ++ f 2 ++ f 1 ++ f 0

/-- join of one 64-bit cell of types 0 to 5. -/
def join64 (type : Nat) (a b : Word64) : Word64 :=
  match type with
  | 0 => if a.toNat ≤ b.toNat then b else a
  | 1 => if a.toNat ≤ b.toNat then a else b
  | 2 => a ||| b
  | 3 => if orderKey64 a ≤ orderKey64 b then b else a
  | 4 => if a.toNat ≤ b.toNat then b else a
  | _ => if pairKey a ≤ pairKey b then b else a

/-- leq of one 64-bit cell of types 0 to 5. -/
def leq64 (type : Nat) (a b : Word64) : Bool :=
  match type with
  | 0 => a.toNat ≤ b.toNat
  | 1 => b.toNat ≤ a.toNat
  | 2 => (a &&& ~~~b) == 0
  | 3 => orderKey64 a ≤ orderKey64 b
  | 4 => a.toNat ≤ b.toNat
  | _ => pairKey a ≤ pairKey b

/-- join on cells of any type, held in 512 bits (64-bit cells in the low lane) (R51). -/
def joinCell (type : Nat) (a b : BitVec 512) : BitVec 512 :=
  if type = 6 then cellOfLanes fun j => join64 0 (cellLane a j) (cellLane b j)
  else (join64 type (cellLane a 0) (cellLane b 0)).setWidth 512

/-- leq on cells (R51). -/
def leqCell (type : Nat) (a b : BitVec 512) : Bool :=
  if type = 6 then (List.range 8).all fun j => leq64 0 (cellLane a j) (cellLane b j)
  else leq64 type (cellLane a 0) (cellLane b 0)

/-- The 64-bit value a cell presents to a threshold (R51). -/
def cellValue (type : Nat) (a : BitVec 512) : Word64 :=
  if type = 6 then ((List.range 8).map (cellLane a)).foldl (· + ·) 0 else cellLane a 0

end Sys2Proof.Machine
end

