-- ==== Sys2Proof/Config.lean ====
section
/-! DEFINITION. What the spec leaves to the part or to the surroundings: free values, which have no body, so that no
proof can see what they are (log entry 9), and the fixed figures of the module (R17, R19). -/

namespace Sys2Proof.Config

/-- The power estimate of an energy sample, in the unit of R400; the n-th sample the device takes. FREE VALUE (log
entry 9): the spec says the unit estimates, not what the estimate is. -/
opaque energyEstimate : Nat → BitVec 32

/-- Die pairs of the package (R12). -/
def diePairs : Nat := 8
/-- In-service tiles of a die (R15, R16). -/
def tilesPerDie : Nat := 64
/-- Seats of a tile (R17). -/
def seatsPerTile : Nat := 4
/-- Pads of a tile (R154). -/
def padsPerTile : Nat := 128
/-- Bytes of a pad (R154). -/
def padBytes : Nat := 4096
/-- Sequencers of a die pair (R15). -/
def seqsPerDie : Nat := 32
/-- Landing buffer entries of a tile (R159). -/
def landingEntries : Nat := 64
/-- Operand-queue slots of a tile (R204). -/
def queueSlots : Nat := 32
/-- Command entries of a tile (R228). -/
def commandEntries : Nat := 256
/-- Bundles a seat's queue holds (R97). -/
def queueBundles : Nat := 32
/-- The normal limit of a seat's run-ahead in issue cycles (R98). -/
def runAhead : Nat := 32
/-- The limit of the run-ahead while a pre-emption is pending (R98). -/
def drainRunAhead : Nat := 16
/-- The size of the device's virtual space (R318). -/
def virtualSize : Nat := 2 ^ 57
/-- Positions of the slot wheel (R19). -/
def wheelPositions : Nat := 512
/-- Sectors a side log holds (R247). -/
def sideLogSectors : Nat := 256
/-- Deferred messages a release queue holds (R280). -/
def releaseQueue : Nat := 16

end Sys2Proof.Config
end

