-- ==== Sys2Proof/Syntax.lean ====
section
/-! DEFINITION. The steps of the EZG8-768 as syntax: one constructor for each row of the operation table. The first
group are the operations a bundle encodes, with the fields of their slot word (R59, R60); the second group are the
steps of the device's other agents, with the choice of the environment as operand. -/

namespace Sys2Proof

/-- The eight slots of a bundle (R54). -/
inductive Slot where
  | ctl | uni | adr | vec | vls | mat | exp | xfr
  deriving DecidableEq, Repr

/-- Slot numbers 0 to 7 (R54). -/
def Slot.num : Slot → Nat
  | .ctl => 0 | .uni => 1 | .adr => 2 | .vec => 3 | .vls => 4 | .mat => 5 | .exp => 6 | .xfr => 7

def Slot.ofNum : Nat → Slot
  | 0 => .ctl | 1 => .uni | 2 => .adr | 3 => .vec | 4 => .vls | 5 => .mat | 6 => .exp | _ => .xfr

/-- The O bit, the A bit and the predicate field of a tile operation (R59, R60). -/
structure Tag where
  o : BitVec 1
  r : BitVec 1
  p : BitVec 4
  deriving DecidableEq, Repr

/-- Why an execution is squashed and reissued (R188, R380). -/
inductive ReplayWhy where
  /-- the shadow latches flagged the execution -/
  | timing
  /-- for an active element of the result, the bits that the vector unit formed and those that its skink formed -/
  | skink (unit' other : Nat)
  deriving DecidableEq, Repr

/-- Why the scheduler or another unit stops a gang (R96, R107, R351, R377, R386). -/
inductive StopWhy where
  | preempt | thermal | fence | monitor | cancel
  /-- the task wrote a discarded page that is not revived (R330) -/
  | kill
  deriving DecidableEq, Repr

/-- A flit of the host port: the fields of its header and its payload (R404, R405); pad holds the bytes that follow
the payload in the flit, which must be zero. -/
structure Flit where
  kind : BitVec 8
  zero : BitVec 8
  tag : BitVec 16
  status : BitVec 8
  space : BitVec 8
  len : BitVec 16
  addr : BitVec 64
  data : List Byte
  pad : List Byte
  deriving DecidableEq, Repr

/-- The memory processor's answer for one virtual page (R325, R326). -/
structure PageAnswer where
  va : Nat
  pa : Nat
  size : Nat
  r : Bool
  w : Bool
  et : Bool
  disc : Bool
  deriving DecidableEq, Repr

/-- A link of the package or the pod (R13, R309, R409). -/
inductive Link where
  /-- the mesh link between two die pairs -/
  | mesh (a b : Nat)
  /-- the link between a hub and a die pair -/
  | hub (h d : Nat)
  /-- a peer port of hub 1 -/
  | peer (p : Nat)
  deriving DecidableEq, Repr

/-- An ordered-class message as a peer port brings it (R414). -/
structure PeerMsg where
  stamp : Nat
  dev : Nat
  seq : Nat
  seat : Nat
  addr : Nat
  sig : Option (BitVec 6)
  data : List Byte
  poison : Bool
  /-- the watermark that the flit carries -/
  mark : Nat := 0
  deriving DecidableEq, Repr

/-- A peer's request for the acknowledgement of a pod-scope release: the port it came through, its device, its seat (R279, R410). -/
structure PeerAsk where
  port : Nat
  dev : Nat
  seat : Nat
  deriving DecidableEq, Repr

/-- What reaches a collective from a rank of another device (R257, R260, R261). -/
inductive PeerPart where
  /-- the next bytes of the rank's part -/
  | data (bytes : List Byte) (poison : Bool)
  /-- the rank takes payload -/
  | ready
  /-- what was sent to the rank is performed -/
  | performed
  /-- the rank's command disagrees with this one -/
  | mismatch
  /-- the rank's receive capacity is exceeded -/
  | full
  /-- what was sent to the rank is refused by the access table of the port it reached (R335) -/
  | refused
  deriving DecidableEq, Repr

/-- An upset in a tile's scratchpad: bits of a 64-bit word of a seat's pads, of a vertical parity row, or of a word of a physical
pad that no seat holds, at an offset in it (R177). -/
inductive Upset where
  | word (seat addr : Nat) (bits : BitVec 64)
  | stray (pad off : Nat) (bits : BitVec 64)
  | parity (group bank col : Nat) (bits : BitVec 64)
  deriving DecidableEq, Repr

/-- One step of the device: an operation of a bundle or an event. -/
inductive Instr where
  -- every slot (R80)
  | nop (o : BitVec 1)
  -- CTL, at the sequencer (R118 to R130)
  | br (cc : BitVec 4) (ga gb : RField) (disp : BitVec 7) (lit : Option Word32)
  | brv (cc : BitVec 4) (gb : RField) (disp : BitVec 7) (lit : Option Word32)
  | jmp (disp : BitVec 7) (lit : Option Word32)
  | jmpReg (ga : RField)
  | call (disp : BitVec 7) (lit : Option Word32)
  | callReg (ga : RField)
  | ret
  | loop (n : BitVec 6)
  | lbrk (k : BitVec 3)
  | yield
  | skpz
  | skpe
  | halt
  | trap (code : BitVec 7)
  | hndl (cause : RField) (disp : BitVec 7) (lit : Option Word32)
  | hndlRemove (cause : RField)
  | reth
  | fmtw (d a : RField)
  -- CTL, synchronisation (R273 to R283)
  | bari (d a : RField) (imm : BitVec 7) (lit : Option Word32)
  | bara (d a : RField) (imm : BitVec 7) (lit : Option Word32)
  | barw (d : RField) (re : BitVec 1)
  | semi (d a : RField) (imm : BitVec 7) (lit : Option Word32)
  | sems (d a : RField) (imm : BitVec 7) (lit : Option Word32)
  | semw (d a : RField) (imm : BitVec 7)
  | wpw (d a : RField)
  | fenceAcq (scope : BitVec 3)
  | fenceRel (scope : BitVec 3)
  | fenceFull (scope : BitVec 3)
  | fsc
  | sysr (d : RField) (num : BitVec 6)
  | sysw (a : RField) (num : BitVec 6)
  | brk (code : BitVec 7)
  -- UNI (R133 to R141)
  | uniAdd (o : BitVec 1) (d a b : RField)
  | uniSub (o : BitVec 1) (d a b : RField)
  | uniAnd (o : BitVec 1) (d a b : RField)
  | uniOr (o : BitVec 1) (d a b : RField)
  | uniXor (o : BitVec 1) (d a b : RField)
  | uniShl (o : BitVec 1) (d a b : RField)
  | uniShr (o : BitVec 1) (d a b : RField)
  | uniSra (o : BitVec 1) (d a b : RField)
  | uniMul (o : BitVec 1) (d a b : RField)
  | uniMulh (o : BitVec 1) (d a b : RField) (m : BitVec 1)
  | uniMin (o : BitVec 1) (d a b : RField)
  | uniMax (o : BitVec 1) (d a b : RField)
  | minu (o : BitVec 1) (d a b : RField)
  | maxu (o : BitVec 1) (d a b : RField)
  | uniAddi (o : BitVec 1) (d a : RField) (imm : BitVec 7) (lit : Option Word32)
  | uniLi (o : BitVec 1) (d : RField) (imm : BitVec 7) (lit : Option Word32)
  | uniLiHi (o : BitVec 1) (d : RField) (imm : BitVec 7) (lit : Option Word32)
  | ldp (o : BitVec 1) (d : RField) (imm : BitVec 7)
  | vote (o : BitVec 1) (d a f : RField)
  | gidx (o : BitVec 1) (d : RField) (imm : BitVec 7)
  | hld (o : BitVec 1) (d : RField) (imm : BitVec 7)
  | hget (o : BitVec 1) (d a b : RField) (m : BitVec 1)
  | hset (o : BitVec 1) (d a b : RField)
  | hcpy (o : BitVec 1) (d a : RField)
  | hbind (o : BitVec 1) (d a : RField)
  | hval (o : BitVec 1) (d a : RField)
  | uniClz (o : BitVec 1) (d a : RField)
  | uniSel (o : BitVec 1) (d a b : RField)
  -- ADR (R146 to R153)
  | adrAdd (t : Tag) (d a b : RField)
  | adrSub (t : Tag) (d a b : RField)
  | adrAnd (t : Tag) (d a b : RField)
  | adrOr (t : Tag) (d a b : RField)
  | adrXor (t : Tag) (d a b : RField)
  | adrShl (t : Tag) (d a b : RField)
  | adrShr (t : Tag) (d a b : RField)
  | adrSra (t : Tag) (d a b : RField)
  | adrMul (t : Tag) (d a b : RField)
  | adrMulh (t : Tag) (d a b : RField) (m : BitVec 1)
  | adrMin (t : Tag) (d a b : RField) (m : BitVec 1)
  | adrMax (t : Tag) (d a b : RField) (m : BitVec 1)
  | adrAddi (t : Tag) (d a : RField) (imm : BitVec 7) (lit : Option Word32)
  | adrLi (t : Tag) (d : RField) (imm : BitVec 7) (lit : Option Word32)
  | adrLiHi (t : Tag) (d : RField) (imm : BitVec 7) (lit : Option Word32)
  | cmp (t : Tag) (c n : BitVec 3) (a b : RField) (m : BitVec 1)
  | plog (t : Tag) (f n : BitVec 3) (a b : RField)
  | adrSel (t : Tag) (d a b : RField)
  | adrClz (t : Tag) (d a : RField) (m : BitVec 1)
  | popc (t : Tag) (d a : RField) (m : BitVec 1)
  | tadr (t : Tag) (h : BitVec 4) (d s : RField) (c : BitVec 3)
  -- ADR, scratchpad (R161, R166, R169, R170)
  | ld (t : Tag) (rt base : RField) (step : BitVec 5) (sz : BitVec 2) (lit : Option Word32)
  | st (t : Tag) (rt base : RField) (step : BitVec 5) (sz : BitVec 2) (lit : Option Word32)
  | ldr (t : Tag) (rt base : RField) (step : BitVec 5) (sz : BitVec 2) (lit : Word32)
  | str (t : Tag) (rt base : RField) (step : BitVec 5) (sz : BitVec 2) (lit : Option Word32)
  | amo (t : Tag) (rt base : RField) (f : BitVec 4) (z : BitVec 1) (lit : Option Word32)
  | amor (t : Tag) (rt base : RField) (sc : BitVec 1) (f : BitVec 4) (z : BitVec 1) (lit : Word32)
  | ownEng (t : Tag) (a : RField) (cnt : BitVec 6)
  | ownThr (t : Tag) (a : RField) (cnt : BitVec 6)
  | wpr (t : Tag) (d : RField) (ch : BitVec 7)
  -- ADR, lattice (R310 to R315)
  | ljoin (t : Tag) (rt base : RField) (step : BitVec 5) (lit : Option Word32)
  | ljoinSc (t : Tag) (rt base : RField) (step : BitVec 5) (lit : Option Word32)
  | lstm (t : Tag) (rt base : RField) (step : BitVec 5) (lit : Option Word32)
  | linc (t : Tag) (rt base : RField) (step : BitVec 5) (lit : Option Word32)
  | lld (t : Tag) (rt base : RField) (step : BitVec 5) (lit : Word32)
  | lwait (t : Tag) (rt base : RField) (step : BitVec 5) (lit : Word32)
  -- VEC (R190 to R198)
  | vadd (t : Tag) (d a b : RField) (m : BitVec 1)
  | vsub (t : Tag) (d a b : RField) (m : BitVec 1)
  | vmul (t : Tag) (d a b : RField) (m : BitVec 1)
  | vfma (t : Tag) (d a b : RField) (m : BitVec 1)
  | vfms (t : Tag) (d a b : RField) (m : BitVec 1)
  | vmin (t : Tag) (d a b : RField)
  | vmax (t : Tag) (d a b : RField)
  | vabs (t : Tag) (d a : RField) (m : BitVec 1)
  | vneg (t : Tag) (d a : RField) (m : BitVec 1)
  | vand (t : Tag) (d a b : RField)
  | vor (t : Tag) (d a b : RField)
  | vxor (t : Tag) (d a b : RField)
  | vnot (t : Tag) (d a : RField)
  | vshl (t : Tag) (d a b : RField) (m : BitVec 1)
  | vshr (t : Tag) (d a b : RField) (m : BitVec 1)
  | vsra (t : Tag) (d a b : RField) (m : BitVec 1)
  | vsel (t : Tag) (d a b : RField)
  | vcvt (t : Tag) (d a : RField) (lit : Word32)
  | vred (t : Tag) (d a b : RField)
  | vscan (t : Tag) (d a b : RField)
  | vperm (t : Tag) (d a b : RField) (m : BitVec 1)
  | vbcst (t : Tag) (d a : RField)
  | vbcstLane (t : Tag) (d a b : RField)
  | viota (t : Tag) (d a : RField) (m : BitVec 1)
  | vrcp (t : Tag) (d a : RField)
  | vrsq (t : Tag) (d a : RField)
  | vexp2 (t : Tag) (d a : RField)
  | vlog2 (t : Tag) (d a : RField)
  | vmov (t : Tag) (d a : RField)
  | mspush (t : Tag) (c : BitVec 3) (h : BitVec 1) (a b : RField)
  | mspushScalar (t : Tag) (a : RField)
  | msinv (t : Tag)
  | mspop (t : Tag)
  | msand (t : Tag) (c : BitVec 3) (h : BitVec 1) (a b : RField)
  | msandScalar (t : Tag) (a : RField)
  | vpopc (t : Tag) (d : RField)
  | vpopcLanes (t : Tag) (d a : RField)
  | vact (t : Tag) (d a b : RField)
  -- VLS (R171 to R175, R199)
  | vld (t : Tag) (rt base : RField) (step : BitVec 5) (sz : BitVec 2) (lit : Option Word32)
  | vst (t : Tag) (rt base : RField) (step : BitVec 5) (sz : BitVec 2) (lit : Option Word32)
  | vlds (t : Tag) (rt base : RField) (step : BitVec 5) (sz : BitVec 2) (lit : Word32)
  | vsts (t : Tag) (rt base : RField) (step : BitVec 5) (sz : BitVec 2) (lit : Word32)
  | vgth (t : Tag) (d a b : RField) (m : BitVec 1)
  | vsct (t : Tag) (d a b : RField) (m : BitVec 1)
  | vldr (t : Tag) (rt base : RField) (step : BitVec 5) (sz : BitVec 2) (lit : Word32)
  | vstr (t : Tag) (rt base : RField) (step : BitVec 5) (sz : BitVec 2) (lit : Option Word32)
  | vxs (t : Tag) (d a b : RField)
  | vsx (t : Tag) (d a b : RField)
  | vldx (t : Tag) (rt base : RField) (step : BitVec 5) (lit : Option Word32)
  | vtrp (t : Tag) (d a b : RField) (m : BitVec 1)
  -- MAT (R211 to R224)
  | mpush (t : Tag) (a b : RField) (kind : BitVec 2) (la lb : BitVec 1) (lit : Option Word32)
  | mshift (t : Tag) (bank : BitVec 2) (a b : RField) (be hb sv bv : BitVec 1) (lit : Option Word32)
  | macc (t : Tag) (bank : BitVec 2) (a b : RField) (ha hb av bv : BitVec 1) (lit : Option Word32)
  | macs (t : Tag) (bank : BitVec 2) (a b : RField) (ha hb av bv : BitVec 1) (lit : Option Word32)
  | mdrain (t : Tag) (bank : BitVec 2) (a : RField) (dv : BitVec 1) (lit : Option Word32)
  | mclr (t : Tag) (bank : BitVec 2)
  | mbmap (t : Tag) (a : RField) (h : BitVec 1)
  | mchk (t : Tag) (bank : BitVec 2)
  | mfix (t : Tag) (bank : BitVec 2) (a b : RField)
  | mstat (t : Tag) (bank : BitVec 2) (a b : RField)
  -- EXP (R219, R220)
  | xadd (t : Tag) (a : RField) (imm : BitVec 7)
  | xlds (t : Tag) (base : RField) (step : BitVec 5) (lit : Option Word32)
  | xclr (o r : BitVec 1)
  -- XFR (R239 to R267)
  | cpyi (t : Tag) (h : BitVec 4) (d s : RField) (c : BitVec 3) (lit : Option Word32)
  | cpyo (t : Tag) (h : BitVec 4) (d s : RField) (c : BitVec 3) (lit : Option Word32)
  | cpys (t : Tag) (h : BitVec 4) (d s : RField) (c : BitVec 3) (lit : Option Word32)
  | cpyx (t : Tag) (h : BitVec 4) (d s : RField) (c : BitVec 3) (lit : Option Word32)
  | cpyr (t : Tag) (h : BitVec 4) (d s : RField) (c : BitVec 3) (lit : Option Word32)
  | cpyl (t : Tag) (h : BitVec 4) (d s : RField) (c : BitVec 3) (lit : Option Word32)
  | cpyk (t : Tag) (d s : RField) (c : BitVec 3)
  | rrot (t : Tag) (h : BitVec 4) (d s : RField) (c : BitVec 3) (lit : Option Word32)
  | mcst (t : Tag) (h : BitVec 4) (d s : RField) (c : BitVec 3) (lit : Option Word32)
  | route (t : Tag) (h : BitVec 4) (d s : RField) (c : BitVec 3) (lit : Option Word32)
  | a2av (t : Tag) (h : BitVec 4) (d s : RField) (c : BitVec 3) (lit : Option Word32)
  | ared (t : Tag) (h : BitVec 4) (d s : RField) (c : BitVec 3) (lit : Option Word32)
  | agth (t : Tag) (h : BitVec 4) (d s : RField) (c : BitVec 3) (lit : Option Word32)
  | sendo (t : Tag) (h : BitVec 4) (d s : RField) (c : BitVec 3) (lit : Option Word32)
  | rngs (t : Tag) (s : RField)
  -- events: the stream, its executions and their timed effects; k names a seat by its master id (R333), g a gang
  | bundleSend (g : Nat)
  | bundleExecution (k : Nat)
  | repeatExecution (k : Nat)
  | timingReplay (k : Nat) (why : ReplayWhy)
  | resultLanding (k : Nat)
  | beatAccumulation (k : Nat)
  | fmtWriteEffect (k : Nat)
  | fiAccFlip (k : Nat)
  | scaleEdgeJoin (k : Nat)
  | gangWaitCompletion (g : Nat)
  | arriveOnRetire (k : Nat)
  -- events: stops, traps, saves
  | monitor (k : Nat)
  | preemptionRequest (g : Nat) (why : StopWhy)
  | forcedHalt (g : Nat)
  | memberHalt (k : Nat)
  | gangCompletion (g : Nat)
  | trapReport (g : Nat)
  | handlerEntry (g : Nat)
  | asyncCauseDelivery (k : Nat)
  | save (g : Nat)
  | resumption (g : Nat)
  -- events: messages; i is the place of the message among those in flight
  | remoteMessageArrival (i : Nat)
  | remoteDataArrival (i : Nat)
  | remoteRefusalReturn (i : Nat)
  | remoteSignalArrival (i : Nat)
  | signalOverflowReport (i : Nat)
  /-- also: the places of the other requests that have arrived by then -/
  | multicastGroupRead (i : Nat) (also : List Nat := [])
  /-- lost: cells of the die pair's replica, by region and index, that cannot be rebuilt -/
  | axolotlRebuild (tile : Nat) (lost : List (Nat × Nat))
  /-- upset: what has changed in the tile's scratchpad since -/
  | scrub (tile : Nat) (upset : List Upset := [])
  | generatorWord (k : Nat)
  -- events: commands of seat k, channel c
  | commandStart (k c : Nat)
  | copySectorTranslation (k c : Nat)
  | translationInstall (die : Nat) (va : Nat) (ans : Option PageAnswer)
  | sideLogReplay (tile : Nat)
  /-- peer: a peer device's word on the channel's SENDO, which has left for it: written, or refused by its port (R265, R335) -/
  | copyCompletion (k c : Nat) (peer : Option Bool := none)
  | copyDeadlock (k : Nat)
  | cpykRetire (k : Nat)
  | routeOutputWrite (k c : Nat)
  /-- rank's count: taken from the rank's own table when it stands on this device, else the given value; port: the peer port through
  which it comes then -/
  | a2avCountArrival (k c rank : Nat) (peer : BitVec 32) (port : Nat := 0)
  | a2avSegmentArrival (k c rank : Nat) (peer : PeerPart) (port : Nat := 0)
  | aredContribution (k c rank : Nat) (peer : PeerPart) (port : Nat := 0)
  | agthBlockArrival (k c rank : Nat) (peer : PeerPart) (port : Nat := 0)
  | rrotPadArrival (k c : Nat)
  -- events: the ordered class (R414 to R416); input 0 is the device's own injection, 1 to 12 the peer ports
  | sendoDelivery
  | orderedForward (input : Nat) (msg : PeerMsg)
  | beacon (input : Nat) (mark : Nat)
  | orderStall
  -- events: lattice (R306 to R316)
  | latticeOpArrival (i : Nat)
  | lldDeposit (i : Nat)
  | lwaitTimeout (i : Nat)
  | exchangeRound (r : Nat)
  | exchangeReceive (i : Nat)
  -- events: sequential consistency and releases
  | scStamp (k : Nat)
  | scPerform (k : Nat)
  | heartbeat
  | releasePerformed (k : Nat)
  /-- asks: a peer asks this device to acknowledge its release -/
  | peerReleaseAck (k : Nat) (time : Nat) (asks : Option PeerAsk := none)
  -- events: translation
  | leaseRenewal (die : Nat)
  | unmap (va : Nat)
  | discardDecision (va : Nat) (revive : Bool)
  -- events: host port and scheduler
  | hostDoorbell (f : Flit)
  | hostWrite (f : Flit)
  | hostRead (f : Flit)
  | registerWrite (master : Nat) (pa : Nat) (val : Word64)
  | schedulerScan (q : Nat)
  | checkpoint
  | dispatch (q : Nat)
  | clusterStart (g : Nat) (cluster : Nat)
  /-- bad: records, by JSEQ, whose copy in hub 0 is not intact (R359) -/
  | schedulerTakeover (bad : List Nat := [])
  | linkRetry
  /-- child: the peer port through which a device that synchronises with this one asks for its chorus time -/
  | chorusSync (offset : Int) (child : Option Nat := none)
  -- events: margin, spares, power
  | marginWindow (tile : Nat)
  | marginRecord (tile : Nat)
  | hbmChannelSpare (stack chan : Nat)
  | laneSpare (l : Link)
  | tileLost (tile : Nat)
  | currentBalance (die pair : Nat) (diff : Int)
  | powerThrottle (milliwatts : Nat)
  | thermalThrottle (die : Nat) (celsius : Nat)
  | throttleNoticeDelivery (k : Nat)
  | emergencySave
  | hardTrip (hub0 : Bool)
  /-- failed: die pairs whose links or stacks fail training; bad: tiles that fail their self-test (R402) -/
  | thermalResume (failed : List Nat := []) (bad : List Nat := [])
  | coolantFlowLow
  | energySample (k : Nat)
  /-- failed: die pairs whose links or stacks fail training; bad: tiles that fail their self-test; committed: the schedulers find a
  committed journal (R402) -/
  | moduleReset (failed : List Nat) (bad : List Nat := []) (committed : Bool := false)
  | bundleArrival (k : Nat)
  | linkFault (l : Link)
  | linkRepair (l : Link)
  /-- bad: the sectors that the home controller finds it cannot correct (R389); none: the channel fails, and it can read no
  sector -/
  | hbmChannelFailure (stack chan : Nat) (bad : Option (List Nat) := none)
  | spareChannelSwitch (stack chan : Nat)
  | retrainEnd (l : Link)
  deriving DecidableEq, Repr

end Sys2Proof
end

