-- ==== Sys2Proof/WellFormed.lean ====
section
/-! DEFINITION. Which operations the opcode map admits: the limits of every operand field that are checked at decode
(R60, R79, R82 to R85, R115 and each entry). An operation outside them raises ILLEGAL_FIELD. -/

namespace Sys2Proof

/-- A scalar source of a tile slot: S0 to S31, G0 to G7, I0 to I5, DIEID, COREID (R82, R143). -/
def RField.srcT (f : RField) : Bool := f.toNat ≤ 47
/-- A destination register, or a V or P register field (R82, R83). -/
def RField.reg (f : RField) : Bool := f.toNat ≤ 31
/-- A source of the UNI slot and of the branches: G0 to G31, I0 to I5 (R82, R83, R115). -/
def RField.srcU (f : RField) : Bool := f.toNat ≤ 31 || (40 ≤ f.toNat && f.toNat ≤ 45)
/-- An H or field index, a plain number from 0 to 15 (R139). -/
def RField.below16 (f : RField) : Bool := f.toNat ≤ 15
/-- The first register of a pair of S registers (R233). -/
def RField.pair (f : RField) : Bool := 1 ≤ f.toNat && f.toNat ≤ 30

/-- The target of a branch or handler: disp7, or an absolute bundle number in a literal with disp7 zero (R119). -/
def targetOk (disp : BitVec 7) (lit : Option Word32) : Bool :=
  match lit with
  | none => true
  | some l => disp == 0 && l.extractLsb' 24 8 == 0

/-- An immediate: imm7, or a literal with imm7 zero (R134, R147). -/
def immOk (imm : BitVec 7) (lit : Option Word32) : Bool := lit.isNone || imm == 0

/-- A counter value: literal, register or imm7, the unused ones zero (R275). -/
def valueOk (a : RField) (imm : BitVec 7) (lit : Option Word32) : Bool :=
  a.srcT && (lit.isNone || (a == 0 && imm == 0)) && (a == 0 || imm == 0)

/-- A count from a register or a nonzero imm7, exactly one of them (R276, R277). -/
def countOk (a : RField) (imm : BitVec 7) : Bool :=
  a.srcT && ((a != 0 && imm == 0) || (a == 0 && imm != 0))

/-- The signal word of SEMS and BARA (R274). -/
def signalOk (lit : Option Word32) : Bool :=
  match lit with
  | none => true
  | some l =>
    l.extractLsb' 28 4 == 0 && l.extractLsb' 0 13 == 0 && (l.extractLsb' 24 3).toNat ≤ 4 &&
    (l.getLsbD 27 || l.extractLsb' 24 3 == 0) &&
    (l.getLsbD 13 || (l.extractLsb' 20 4 == 0 && l.extractLsb' 14 6 == 0))

/-- The copy control word (R234); sub3 is whether SUB 1 and 2 are allowed (CPYR, R242). -/
def controlOk (sub3 : Bool) (lit : Option Word32) : Bool :=
  match lit with
  | none => true
  | some l =>
    l.extractLsb' 0 6 == 0 &&
    (l.getLsbD 31 || (!l.getLsbD 30 && l.extractLsb' 24 6 == 0 && l.extractLsb' 20 4 == 0 && l.extractLsb' 14 6 == 0)) &&
    (l.getLsbD 30 || (l.extractLsb' 20 4 == 0 && l.extractLsb' 14 6 == 0)) &&
    (l.getLsbD 13 || l.extractLsb' 9 4 == 0) &&
    (if sub3 then (l.extractLsb' 6 3).toNat ≤ 2 else l.extractLsb' 6 3 == 0)

/-- A landing distance in bits [31:26] of a literal is not zero (R169). -/
def landingOk (lit : Word32) : Bool := lit.extractLsb' 26 6 != 0

/-- Element codes VCVT refuses at execution with FORMAT (R192). -/
def cvtFormat (code : Nat) : Bool := code == 0xF || code == 0x3 || code == 0x7 || code == 0xD || code == 0xE

/-- Parts of a V register that 64 elements of a code can take: 32 div the width (R192). -/
def cvtParts (code : Nat) : Nat :=
  if code == 0x0 || code == 0x4 || code == 0x8 || code == 0x9 then 4
  else if code == 0x1 || code == 0x5 || code == 0xA || code == 0xB then 2 else 1

/-- The literal of VCVT (R192). A part is not checked against a code that raises FORMAT. -/
def cvtOk (l : Word32) : Bool :=
  let src := (l.extractLsb' 0 4).toNat
  let dst := (l.extractLsb' 4 4).toNat
  let rms := (l.extractLsb' 8 3).toNat
  l.extractLsb' 15 17 == 0 && rms != 5 && rms != 6 &&
  (cvtFormat src || (l.extractLsb' 11 2).toNat < cvtParts src) &&
  (cvtFormat dst || (l.extractLsb' 13 2).toNat < cvtParts dst)

/-- BSTEP, the upper half of a streaming literal (R209). -/
def bstepZero (lit : Option Word32) : Bool :=
  match lit with
  | none => true
  | some l => l.extractLsb' 16 16 == 0

/-- An edge source of MACC: hold, V register or S register (R213). -/
def edgeOk (f : RField) (hold v : BitVec 1) : Bool :=
  if hold == 1 then f == 0 && v == 0 else if v == 1 then f.reg else f.srcT

/-- An edge of MPUSH: unused fields zero, V registers for KIND 3 (R211). -/
def pushOk (f : RField) (load : BitVec 1) (kind : BitVec 2) : Bool :=
  if load == 0 then f == 0 else if kind == 3 then f.reg else f.srcT

/-- The operands of an operation lie within the limits checked at decode. An event has no operand field. -/
def Instr.wf : Instr → Bool
  | .nop _ => true
  | .br cc ga gb disp lit =>
    cc.toNat ≤ 6 && ga.srcU && gb.srcU && (cc != 6 || (ga == 0 && gb == 0)) && targetOk disp lit
  | .brv cc gb disp lit => cc.toNat ≤ 6 && gb.srcU && (cc != 6 || gb == 0) && targetOk disp lit
  | .jmp disp lit | .call disp lit => targetOk disp lit
  | .jmpReg ga | .callReg ga => ga.srcU && ga != 0
  | .ret | .yield | .skpz | .skpe | .halt | .reth | .fsc => true
  | .loop _ => true
  | .lbrk k => 1 ≤ k.toNat && k.toNat ≤ 6
  | .trap _ | .brk _ => true
  | .hndl c disp lit =>
    1 ≤ c.toNat && c.toNat ≤ 0x23 && c.toNat != 0x1E && targetOk disp lit && (lit.isSome || disp != 0)
  | .hndlRemove c => 1 ≤ c.toNat && c.toNat ≤ 0x23 && c.toNat != 0x1E
  | .fmtw d a => d.reg && a.srcT
  | .bari d a imm lit => d.below16 && valueOk a imm lit
  | .semi _ a imm lit => valueOk a imm lit
  | .bara d a imm lit => d.below16 && countOk a imm && signalOk lit
  | .sems _ a imm lit => countOk a imm && signalOk lit
  | .barw d _ => d.below16
  | .semw _ a imm => countOk a imm
  | .wpw d a => d.toNat ≤ 7 && a.srcT
  | .fenceAcq s | .fenceRel s | .fenceFull s => s.toNat ≤ 4
  | .sysr d _ => d.reg
  | .sysw a _ => a.srcT
  | .uniAdd _ d a b | .uniSub _ d a b | .uniAnd _ d a b | .uniOr _ d a b | .uniXor _ d a b | .uniShl _ d a b
  | .uniShr _ d a b | .uniSra _ d a b | .uniMul _ d a b | .uniMin _ d a b | .uniMax _ d a b | .minu _ d a b
  | .maxu _ d a b | .uniSel _ d a b => d.reg && a.srcU && b.srcU
  | .uniMulh _ d a b _ => d.reg && a.srcU && b.srcU
  | .uniAddi _ d a imm lit => d.reg && a.srcU && immOk imm lit
  | .uniLi _ d imm lit | .uniLiHi _ d imm lit => d.reg && immOk imm lit
  | .ldp _ d imm => d.reg && imm.toNat ≤ 63
  | .vote _ d a f => d.reg && a.srcU && f.toNat ≤ 4
  | .gidx _ d imm => d.reg && imm.toNat ≤ 7
  | .hld _ d imm => d.below16 && imm.toNat ≤ 63
  | .hget _ d a b _ => d.reg && a.below16 && b.below16
  | .hset _ d a b => d.below16 && a.srcU && b.below16
  | .hcpy _ d a => d.below16 && a.below16
  | .hbind _ d a => d.below16 && a.srcU
  | .hval _ d a | .uniClz _ d a => d.reg && a.srcU
  | .adrAdd _ d a b | .adrSub _ d a b | .adrAnd _ d a b | .adrOr _ d a b | .adrXor _ d a b | .adrShl _ d a b
  | .adrShr _ d a b | .adrSra _ d a b | .adrMul _ d a b | .adrSel _ d a b => d.reg && a.srcT && b.srcT
  | .adrMulh _ d a b _ | .adrMin _ d a b _ | .adrMax _ d a b _ => d.reg && a.srcT && b.srcT
  | .adrAddi _ d a imm lit => d.reg && a.srcT && immOk imm lit
  | .adrLi _ d imm lit | .adrLiHi _ d imm lit => d.reg && immOk imm lit
  | .cmp _ c _ a b _ => c.toNat ≤ 5 && a.srcT && b.srcT
  | .plog _ _ _ a b => a.toNat ≤ 7 && b.toNat ≤ 7
  | .adrClz _ d a _ | .popc _ d a _ => d.reg && a.srcT
  | .tadr _ _ d s c => d.reg && s.srcT && c.toNat ≤ 3
  | .ld _ rt base _ _ _ | .st _ rt base _ _ _ | .str _ rt base _ _ _ => rt.reg && base.srcT
  | .ldr _ rt base _ _ lit => rt.reg && base.srcT && landingOk lit
  | .amo _ rt base f _ _ => rt.reg && base.srcT && f.toNat ≤ 9 && (f != 7 || rt != 31)
  | .amor _ rt base _ f _ lit => rt.reg && base.srcT && f.toNat ≤ 9 && (f != 7 || rt != 31) && landingOk lit
  | .ownEng _ a _ | .ownThr _ a _ => a.srcT
  | .wpr _ d ch => d.reg && ch.toNat ≤ 7
  | .ljoin _ rt base _ _ | .ljoinSc _ rt base _ _ | .lstm _ rt base _ _ | .linc _ rt base _ _ => rt.reg && base.srcT
  | .lld _ rt base _ lit => rt.reg && rt != 0 && base.srcT && lit.extractLsb' 26 6 == 0
  | .lwait _ rt base _ _ => rt.pair && base.srcT
  | .vadd _ d a b _ | .vsub _ d a b _ | .vmul _ d a b _ | .vfma _ d a b _ | .vfms _ d a b _ | .vperm _ d a b _ =>
    d.reg && a.reg && b.reg
  | .vmin _ d a b | .vmax _ d a b | .vand _ d a b | .vor _ d a b | .vxor _ d a b | .vsel _ d a b =>
    d.reg && a.reg && b.reg
  | .vabs _ d a _ | .vneg _ d a _ => d.reg && a.reg
  | .vnot _ d a | .vrcp _ d a | .vrsq _ d a | .vexp2 _ d a | .vlog2 _ d a | .vmov _ d a => d.reg && a.reg
  | .vshl _ d a b m | .vshr _ d a b m | .vsra _ d a b m => d.reg && a.reg && (if m == 1 then b.srcT else b.reg)
  | .vcvt _ d a lit => d.reg && a.reg && cvtOk lit
  | .vred _ d a b => d.reg && a.reg && b.toNat ≤ 5
  | .vscan _ d a b => d.reg && a.reg && b.toNat ≤ 2
  | .vact _ d a b => d.reg && a.reg && b.toNat ≤ 2
  | .vbcst _ d a => d.reg && a.srcT
  | .vbcstLane _ d a _ => d.reg && a.reg
  | .viota _ d a _ => d.reg && a.srcT
  | .mspush _ c _ a b | .msand _ c _ a b => c.toNat ≤ 5 && a.reg && b.reg
  | .mspushScalar _ a | .msandScalar _ a => a.srcT
  | .msinv _ | .mspop _ => true
  | .vpopc _ d => d.reg
  | .vpopcLanes _ d a => d.reg && a.reg
  | .vld _ rt base _ sz _ | .vst _ rt base _ sz _ | .vstr _ rt base _ sz _ => rt.reg && base.srcT && sz != 3
  | .vlds _ rt base _ sz _ | .vsts _ rt base _ sz _ => rt.reg && base.srcT && sz != 3
  | .vldr _ rt base _ sz lit => rt.reg && base.srcT && sz != 3 && landingOk lit
  | .vgth _ d a b _ | .vsct _ d a b _ => d.reg && a.srcT && b.reg
  | .vxs _ d a b => d.reg && a.reg && b.srcT
  | .vsx _ d a b => d.reg && a.srcT && b.srcT
  | .vldx _ rt base _ _ => rt.reg && base.pair
  | .vtrp _ d a b _ => d.reg && a.srcT && b.srcT
  | .mpush _ a b kind la lb lit =>
    (la == 1 || lb == 1) && pushOk a la kind && pushOk b lb kind && (kind != 3 || lit.isNone)
  | .mshift _ bank a b be hb sv bv lit =>
    a.srcT && edgeOk b hb bv &&
    (be == 1 || (bank == 0 && hb == 0 && bv == 0 && b == 0 && bstepZero lit)) && (sv == 0 || sv == 1)
  | .macc _ _ a b ha hb av bv _ => edgeOk a ha av && edgeOk b hb bv
  | .macs _ _ a b ha hb av bv _ => edgeOk a ha av && (ha == 1 || av == 1 || a.pair) && edgeOk b hb bv
  | .mdrain _ _ a dv lit => (if dv == 1 then a.reg else a.srcT) && bstepZero lit
  | .mclr _ _ | .mchk _ _ => true
  | .mbmap _ a h => if h == 1 then a.below16 else a.srcT
  | .mfix _ _ a b => a.srcT && b.srcT
  | .mstat _ _ a b => a.reg && b.toNat ≤ 3
  | .xadd _ a _ => a.srcT
  | .xlds _ base _ _ => base.srcT
  | .xclr _ _ => true
  | .cpyi _ _ d s _ lit | .cpyo _ _ d s _ lit | .cpys _ _ d s _ lit | .cpyx _ _ d s _ lit | .cpyl _ _ d s _ lit
  | .mcst _ _ d s _ lit | .route _ _ d s _ lit | .a2av _ _ d s _ lit | .ared _ _ d s _ lit | .agth _ _ d s _ lit
  | .sendo _ _ d s _ lit => d.reg && s.pair && controlOk false lit
  | .cpyr _ _ d s _ lit => d.reg && s.pair && controlOk true lit
  | .cpyk _ d s _ => d.reg && s.srcT
  | .rrot _ h d s _ lit => h.toNat ≤ 1 && d.reg && s.pair && controlOk false lit
  | .rngs _ s => s.srcT
  | .bundleSend _ | .bundleExecution _ | .repeatExecution _ | .timingReplay _ _ | .resultLanding _
  | .beatAccumulation _ | .fmtWriteEffect _ | .fiAccFlip _ | .scaleEdgeJoin _ | .gangWaitCompletion _
  | .arriveOnRetire _ | .monitor _ | .preemptionRequest _ _ | .forcedHalt _ | .memberHalt _ | .gangCompletion _
  | .trapReport _ | .handlerEntry _ | .asyncCauseDelivery _ | .save _ | .resumption _ | .remoteMessageArrival _
  | .remoteDataArrival _ | .remoteRefusalReturn _ | .remoteSignalArrival _ | .signalOverflowReport _
  | .multicastGroupRead _ _ | .axolotlRebuild _ _ | .scrub _ _ | .generatorWord _ | .commandStart _ _
  | .copySectorTranslation _ _ | .translationInstall _ _ _ | .sideLogReplay _ | .copyCompletion _ _ _
  | .copyDeadlock _ | .cpykRetire _ | .routeOutputWrite _ _ | .a2avCountArrival _ _ _ _ _
  | .a2avSegmentArrival _ _ _ _ _ | .aredContribution _ _ _ _ _ | .agthBlockArrival _ _ _ _ _ | .rrotPadArrival _ _
  | .sendoDelivery | .orderedForward _ _ | .beacon _ _ | .orderStall | .latticeOpArrival _ | .lldDeposit _
  | .lwaitTimeout _ | .exchangeRound _ | .exchangeReceive _ | .scStamp _ | .scPerform _ | .heartbeat
  | .releasePerformed _ | .peerReleaseAck _ _ _ | .leaseRenewal _ | .unmap _ | .discardDecision _ _
  | .hostDoorbell _ | .hostWrite _ | .hostRead _ | .registerWrite _ _ _ | .schedulerScan _ | .checkpoint
  | .dispatch _ | .clusterStart _ _ | .schedulerTakeover _ | .linkRetry | .chorusSync _ _ | .marginWindow _
  | .marginRecord _ | .hbmChannelSpare _ _ | .laneSpare _ | .tileLost _ | .currentBalance _ _ _
  | .powerThrottle _ | .thermalThrottle _ _ | .throttleNoticeDelivery _ | .emergencySave | .hardTrip _
  | .thermalResume _ _ | .coolantFlowLow | .energySample _ | .moduleReset _ _ _ | .bundleArrival _ | .linkFault _
  | .linkRepair _ | .hbmChannelFailure _ _ _ | .spareChannelSwitch _ _ | .retrainEnd _ => true

end Sys2Proof
end

