-- ==== Sys2Proof/Decode.lean ====
section
/-! DEFINITION. Reading a slot word (R59, R60, R81): decode slot word literal answers the operation, or the fate that
the opcode map gives the word; and the encoder, written from the same families. A word is refused with ILLEGAL_FIELD
when a field is outside its limits or a bit that its entry gives no use is not zero (R79): the candidate read from the
used fields must encode to the word again. -/

namespace Sys2Proof

/-- The fate of a slot word that is no operation (R77). -/
inductive DecodeFault where
  /-- an unassigned opcode of the slot: ILLEGAL_OP -/
  | illegalOp
  /-- a reserved value or a bit without use: ILLEGAL_FIELD -/
  | illegalField
  deriving DecidableEq, Repr

namespace Pack

/-- [31] X, [30] O, [29] A, [28:23] op before an operand field of 23 bits (R59). -/
def head (x o r : BitVec 1) (op : BitVec 6) (f : BitVec 23) : Word32 := x ++ o ++ r ++ op ++ f
/-- Three-register family (R60). -/
def f3R (d a b : RField) (m : BitVec 1) (p : BitVec 4) : BitVec 23 := d ++ a ++ b ++ m ++ p
/-- Register-immediate family (R60). -/
def fRI (d a : RField) (imm : BitVec 7) (p : BitVec 4) : BitVec 23 := d ++ a ++ imm ++ p
/-- Memory-with-step family (R60). -/
def fMS (t base : RField) (step : BitVec 5) (sz : BitVec 2) (p : BitVec 4) : BitVec 23 := t ++ base ++ step ++ sz ++ p
/-- Control family (R60). -/
def fC (cc : BitVec 4) (ga gb : RField) (disp : BitVec 7) : BitVec 23 := cc ++ ga ++ gb ++ disp
/-- Engine-command family (R60). -/
def fEC (h : BitVec 4) (da sa : RField) (ch : BitVec 3) (p : BitVec 4) : BitVec 23 := h ++ da ++ sa ++ ch ++ p
/-- Matrix-beat family (R60). -/
def fMB (bank : BitVec 2) (a b : RField) (flags : BitVec 5) (p : BitVec 4) : BitVec 23 := bank ++ a ++ b ++ flags ++ p

/-- The X bit of an operation with an optional literal. -/
def xOf (lit : Option Word32) : BitVec 1 := if lit.isSome then 1 else 0

end Pack

open Pack

/-- The slot an operation belongs to; NOP belongs to every slot and events to none (R54, R80). -/
def Instr.slot : Instr → Option Slot
  | .nop _ => none
  | .br .. | .brv .. | .jmp .. | .jmpReg .. | .call .. | .callReg .. | .ret | .loop .. | .lbrk .. | .yield | .skpz
  | .skpe | .halt | .trap .. | .hndl .. | .hndlRemove .. | .reth | .fmtw .. | .bari .. | .bara .. | .barw .. | .semi ..
  | .sems .. | .semw .. | .wpw .. | .fenceAcq .. | .fenceRel .. | .fenceFull .. | .fsc | .sysr .. | .sysw ..
  | .brk .. => some .ctl
  | .uniAdd .. | .uniSub .. | .uniAnd .. | .uniOr .. | .uniXor .. | .uniShl .. | .uniShr .. | .uniSra .. | .uniMul ..
  | .uniMulh .. | .uniMin .. | .uniMax .. | .minu .. | .maxu .. | .uniAddi .. | .uniLi .. | .uniLiHi .. | .ldp ..
  | .vote .. | .gidx .. | .hld .. | .hget .. | .hset .. | .hcpy .. | .hbind .. | .hval .. | .uniClz .. | .uniSel .. =>
    some .uni
  | .adrAdd .. | .adrSub .. | .adrAnd .. | .adrOr .. | .adrXor .. | .adrShl .. | .adrShr .. | .adrSra .. | .adrMul ..
  | .adrMulh .. | .adrMin .. | .adrMax .. | .adrAddi .. | .adrLi .. | .adrLiHi .. | .cmp .. | .plog .. | .adrSel ..
  | .adrClz .. | .popc .. | .tadr .. | .ld .. | .st .. | .ldr .. | .str .. | .amo .. | .amor .. | .ownEng .. | .ownThr ..
  | .wpr .. | .ljoin .. | .ljoinSc .. | .lstm .. | .linc .. | .lld .. | .lwait .. => some .adr
  | .vadd .. | .vsub .. | .vmul .. | .vfma .. | .vfms .. | .vmin .. | .vmax .. | .vabs .. | .vneg .. | .vand .. | .vor ..
  | .vxor .. | .vnot .. | .vshl .. | .vshr .. | .vsra .. | .vsel .. | .vcvt .. | .vred .. | .vscan .. | .vperm ..
  | .vbcst .. | .vbcstLane .. | .viota .. | .vrcp .. | .vrsq .. | .vexp2 .. | .vlog2 .. | .vmov .. | .mspush ..
  | .mspushScalar .. | .msinv .. | .mspop .. | .msand .. | .msandScalar .. | .vpopc .. | .vpopcLanes .. | .vact .. =>
    some .vec
  | .vld .. | .vst .. | .vlds .. | .vsts .. | .vgth .. | .vsct .. | .vldr .. | .vstr .. | .vxs .. | .vsx .. | .vldx ..
  | .vtrp .. => some .vls
  | .mpush .. | .mshift .. | .macc .. | .macs .. | .mdrain .. | .mclr .. | .mbmap .. | .mchk .. | .mfix .. | .mstat .. =>
    some .mat
  | .xadd .. | .xlds .. | .xclr .. => some .exp
  | .cpyi .. | .cpyo .. | .cpys .. | .cpyx .. | .cpyr .. | .cpyl .. | .cpyk .. | .rrot .. | .mcst .. | .route ..
  | .a2av .. | .ared .. | .agth .. | .sendo .. | .rngs .. => some .xfr
  | _ => none

/-- The literal word that follows the slot word (R55). -/
def Instr.literal : Instr → Option Word32
  | .br _ _ _ _ l | .brv _ _ _ l | .jmp _ l | .call _ l | .hndl _ _ l => l
  | .bari _ _ _ l | .bara _ _ _ l | .semi _ _ _ l | .sems _ _ _ l => l
  | .uniAddi _ _ _ _ l | .uniLi _ _ _ l | .uniLiHi _ _ _ l | .adrAddi _ _ _ _ l | .adrLi _ _ _ l | .adrLiHi _ _ _ l => l
  | .ld _ _ _ _ _ l | .st _ _ _ _ _ l | .str _ _ _ _ _ l | .amo _ _ _ _ _ l => l
  | .ldr _ _ _ _ _ l | .amor _ _ _ _ _ _ l => some l
  | .ljoin _ _ _ _ l | .ljoinSc _ _ _ _ l | .lstm _ _ _ _ l | .linc _ _ _ _ l => l
  | .lld _ _ _ _ l | .lwait _ _ _ _ l => some l
  | .vcvt _ _ _ l => some l
  | .vld _ _ _ _ _ l | .vst _ _ _ _ _ l | .vstr _ _ _ _ _ l | .vldx _ _ _ _ l => l
  | .vlds _ _ _ _ _ l | .vsts _ _ _ _ _ l | .vldr _ _ _ _ _ l => some l
  | .mpush _ _ _ _ _ _ l | .mshift _ _ _ _ _ _ _ _ l | .macc _ _ _ _ _ _ _ _ l | .macs _ _ _ _ _ _ _ _ l
  | .mdrain _ _ _ _ l | .xlds _ _ _ l => l
  | .cpyi _ _ _ _ _ l | .cpyo _ _ _ _ _ l | .cpys _ _ _ _ _ l | .cpyx _ _ _ _ _ l | .cpyr _ _ _ _ _ l
  | .cpyl _ _ _ _ _ l | .rrot _ _ _ _ _ l | .mcst _ _ _ _ _ l | .route _ _ _ _ _ l | .a2av _ _ _ _ _ l
  | .ared _ _ _ _ _ l | .agth _ _ _ _ _ l | .sendo _ _ _ _ _ l => l
  | _ => none

/-- A CTL operation: O = 1, A = 0 (R59, R115). -/
def encCtl (x : BitVec 1) (op : BitVec 6) (f : BitVec 23) : Word32 := head x 1 0 op f
/-- A UNI operation in the three-register form (R133). -/
def encUni (o : BitVec 1) (op : BitVec 6) (d a b : RField) (m : BitVec 1) : Word32 := head 0 o 0 op (f3R d a b m 0)
/-- A UNI operation in the register-immediate form (R134). -/
def encUniI (x o : BitVec 1) (op : BitVec 6) (d a : RField) (imm : BitVec 7) : Word32 := head x o 0 op (fRI d a imm 0)
/-- A tile operation in the three-register form (R146). -/
def enc3R (x : BitVec 1) (t : Tag) (op : BitVec 6) (d a b : RField) (m : BitVec 1) : Word32 :=
  head x t.o t.r op (f3R d a b m t.p)
/-- A tile operation in the register-immediate form (R147). -/
def encRI (x : BitVec 1) (t : Tag) (op : BitVec 6) (d a : RField) (imm : BitVec 7) : Word32 :=
  head x t.o t.r op (fRI d a imm t.p)
/-- A memory-with-step operation (R169). -/
def encMS (x : BitVec 1) (t : Tag) (op : BitVec 6) (rt base : RField) (step : BitVec 5) (sz : BitVec 2) : Word32 :=
  head x t.o t.r op (fMS rt base step sz t.p)
/-- An engine command (R233). -/
def encEC (x : BitVec 1) (t : Tag) (op : BitVec 6) (h : BitVec 4) (d s : RField) (c : BitVec 3) : Word32 :=
  head x t.o t.r op (fEC h d s c t.p)
/-- A matrix operation (R209). -/
def encMB (x : BitVec 1) (t : Tag) (op : BitVec 6) (bank : BitVec 2) (a b : RField) (flags : BitVec 5) : Word32 :=
  head x t.o t.r op (fMB bank a b flags t.p)

/-- The slot word of an operation (R81 and each entry's encoding); an event has none. -/
def Instr.word : Instr → Option Word32
  | .nop o => some (head 0 o 0 0 0)
  | .br cc ga gb disp lit => some (encCtl (xOf lit) 0x01 (fC cc ga gb disp))
  | .brv cc gb disp lit => some (encCtl (xOf lit) 0x02 (fC cc 0 gb disp))
  | .jmp disp lit => some (encCtl (xOf lit) 0x03 (fC 0 0 0 disp))
  | .jmpReg ga => some (encCtl 0 0x03 (fC 0 ga 0 0))
  | .call disp lit => some (encCtl (xOf lit) 0x04 (fC 0 0 0 disp))
  | .callReg ga => some (encCtl 0 0x04 (fC 0 ga 0 0))
  | .ret => some (encCtl 0 0x05 0)
  | .loop n => some (encCtl 0 0x06 (fC 0 0 0 ((0 : BitVec 1) ++ n)))
  | .lbrk k => some (encCtl 0 0x07 (fC 0 0 0 ((0 : BitVec 4) ++ k)))
  | .yield => some (encCtl 0 0x08 0)
  | .skpz => some (encCtl 0 0x09 0)
  | .skpe => some (encCtl 0 0x0A 0)
  | .halt => some (encCtl 0 0x0B 0)
  | .trap code => some (encCtl 0 0x0C (fRI 0 0 code 0))
  | .hndl c disp lit => some (encCtl (xOf lit) 0x0D (fC 0 c 0 disp))
  | .hndlRemove c => some (encCtl 0 0x0D (fC 0 c 0 0))
  | .reth => some (encCtl 0 0x0E 0)
  | .fmtw d a => some (encCtl 0 0x0F (fRI d a 0 0))
  | .bari d a imm lit => some (encCtl (xOf lit) 0x10 (fRI d a imm 0))
  | .bara d a imm lit => some (encCtl (xOf lit) 0x11 (fRI d a imm 0))
  | .barw d re => some (encCtl 0 0x12 (fRI d 0 ((0 : BitVec 6) ++ re) 0))
  | .semi d a imm lit => some (encCtl (xOf lit) 0x13 (fRI d a imm 0))
  | .sems d a imm lit => some (encCtl (xOf lit) 0x14 (fRI d a imm 0))
  | .semw d a imm => some (encCtl 0 0x15 (fRI d a imm 0))
  | .wpw d a => some (encCtl 0 0x16 (fRI d a 0 0))
  | .fenceAcq s => some (encCtl 0 0x17 (fRI 0 0 ((0b0001 : BitVec 4) ++ s) 0))
  | .fenceRel s => some (encCtl 0 0x17 (fRI 0 0 ((0b0010 : BitVec 4) ++ s) 0))
  | .fenceFull s => some (encCtl 0 0x17 (fRI 0 0 ((0b0011 : BitVec 4) ++ s) 0))
  | .fsc => some (encCtl 0 0x18 0)
  | .sysr d num => some (encCtl 0 0x19 (fRI d 0 ((0 : BitVec 1) ++ num) 0))
  | .sysw a num => some (encCtl 0 0x1A (fRI 0 a ((0 : BitVec 1) ++ num) 0))
  | .brk code => some (encCtl 0 0x1B (fRI 0 0 code 0))
  | .uniAdd o d a b => some (encUni o 0x01 d a b 0)
  | .uniSub o d a b => some (encUni o 0x02 d a b 0)
  | .uniAnd o d a b => some (encUni o 0x03 d a b 0)
  | .uniOr o d a b => some (encUni o 0x04 d a b 0)
  | .uniXor o d a b => some (encUni o 0x05 d a b 0)
  | .uniShl o d a b => some (encUni o 0x06 d a b 0)
  | .uniShr o d a b => some (encUni o 0x07 d a b 0)
  | .uniSra o d a b => some (encUni o 0x08 d a b 0)
  | .uniMul o d a b => some (encUni o 0x09 d a b 0)
  | .uniMulh o d a b m => some (encUni o 0x0A d a b m)
  | .uniMin o d a b => some (encUni o 0x0B d a b 0)
  | .uniMax o d a b => some (encUni o 0x0C d a b 0)
  | .minu o d a b => some (encUni o 0x0D d a b 0)
  | .maxu o d a b => some (encUni o 0x0E d a b 0)
  | .uniAddi o d a imm lit => some (encUniI (xOf lit) o 0x0F d a imm)
  | .uniLi o d imm lit => some (encUniI (xOf lit) o 0x10 d 0 imm)
  | .uniLiHi o d imm lit => some (encUniI (xOf lit) o 0x10 d 1 imm)
  | .ldp o d imm => some (encUniI 0 o 0x11 d 0 imm)
  | .vote o d a f => some (encUni o 0x12 d a f 0)
  | .gidx o d imm => some (encUniI 0 o 0x13 d 0 imm)
  | .hld o d imm => some (encUniI 0 o 0x14 d 0 imm)
  | .hget o d a b m => some (encUni o 0x15 d a b m)
  | .hset o d a b => some (encUni o 0x16 d a b 0)
  | .hcpy o d a => some (encUni o 0x17 d a 0 0)
  | .hbind o d a => some (encUni o 0x18 d a 0 0)
  | .hval o d a => some (encUni o 0x19 d a 0 0)
  | .uniClz o d a => some (encUni o 0x1A d a 0 0)
  | .uniSel o d a b => some (encUni o 0x1B d a b 0)
  | .adrAdd t d a b => some (enc3R 0 t 0x01 d a b 0)
  | .adrSub t d a b => some (enc3R 0 t 0x02 d a b 0)
  | .adrAnd t d a b => some (enc3R 0 t 0x03 d a b 0)
  | .adrOr t d a b => some (enc3R 0 t 0x04 d a b 0)
  | .adrXor t d a b => some (enc3R 0 t 0x05 d a b 0)
  | .adrShl t d a b => some (enc3R 0 t 0x06 d a b 0)
  | .adrShr t d a b => some (enc3R 0 t 0x07 d a b 0)
  | .adrSra t d a b => some (enc3R 0 t 0x08 d a b 0)
  | .adrMul t d a b => some (enc3R 0 t 0x09 d a b 0)
  | .adrMulh t d a b m => some (enc3R 0 t 0x0A d a b m)
  | .adrMin t d a b m => some (enc3R 0 t 0x0B d a b m)
  | .adrMax t d a b m => some (enc3R 0 t 0x0C d a b m)
  | .adrAddi t d a imm lit => some (encRI (xOf lit) t 0x0D d a imm)
  | .adrLi t d imm lit => some (encRI (xOf lit) t 0x0E d 0 imm)
  | .adrLiHi t d imm lit => some (encRI (xOf lit) t 0x0E d 1 imm)
  | .cmp t c n a b m => some (enc3R 0 t 0x0F (c ++ n) a b m)
  | .plog t f n a b => some (enc3R 0 t 0x10 (f ++ n) a b 0)
  | .adrSel t d a b => some (enc3R 0 t 0x11 d a b 0)
  | .adrClz t d a m => some (enc3R 0 t 0x12 d a 0 m)
  | .popc t d a m => some (enc3R 0 t 0x13 d a 0 m)
  | .tadr t h d s c => some (encEC 0 t 0x14 h d s c)
  | .ld t rt base step sz lit => some (encMS (xOf lit) t 0x15 rt base step sz)
  | .st t rt base step sz lit => some (encMS (xOf lit) t 0x16 rt base step sz)
  | .ldr t rt base step sz _ => some (encMS 1 t 0x17 rt base step sz)
  | .str t rt base step sz lit => some (encMS (xOf lit) t 0x18 rt base step sz)
  | .amo t rt base f z lit => some (encMS (xOf lit) t 0x19 rt base ((0 : BitVec 1) ++ f) ((1 : BitVec 1) ++ z))
  | .amor t rt base sc f z _ => some (encMS 1 t 0x1A rt base (sc ++ f) ((1 : BitVec 1) ++ z))
  | .ownEng t a cnt => some (encRI 0 t 0x1B 0 a ((0 : BitVec 1) ++ cnt))
  | .ownThr t a cnt => some (encRI 0 t 0x1B 0 a ((1 : BitVec 1) ++ cnt))
  | .wpr t d ch => some (encRI 0 t 0x1C d 0 ch)
  | .ljoin t rt base step lit => some (encMS (xOf lit) t 0x1D rt base step 3)
  | .ljoinSc t rt base step lit => some (encMS (xOf lit) t 0x1D rt base step 2)
  | .lstm t rt base step lit => some (encMS (xOf lit) t 0x1E rt base step 3)
  | .linc t rt base step lit => some (encMS (xOf lit) t 0x1F rt base step 3)
  | .lld t rt base step _ => some (encMS 1 t 0x20 rt base step 3)
  | .lwait t rt base step _ => some (encMS 1 t 0x21 rt base step 3)
  | .vadd t d a b m => some (enc3R 0 t 0x01 d a b m)
  | .vsub t d a b m => some (enc3R 0 t 0x02 d a b m)
  | .vmul t d a b m => some (enc3R 0 t 0x03 d a b m)
  | .vfma t d a b m => some (enc3R 0 t 0x04 d a b m)
  | .vfms t d a b m => some (enc3R 0 t 0x05 d a b m)
  | .vmin t d a b => some (enc3R 0 t 0x06 d a b 0)
  | .vmax t d a b => some (enc3R 0 t 0x07 d a b 0)
  | .vabs t d a m => some (enc3R 0 t 0x08 d a 0 m)
  | .vneg t d a m => some (enc3R 0 t 0x09 d a 0 m)
  | .vand t d a b => some (enc3R 0 t 0x0A d a b 0)
  | .vor t d a b => some (enc3R 0 t 0x0B d a b 0)
  | .vxor t d a b => some (enc3R 0 t 0x0C d a b 0)
  | .vnot t d a => some (enc3R 0 t 0x0D d a 0 0)
  | .vshl t d a b m => some (enc3R 0 t 0x0E d a b m)
  | .vshr t d a b m => some (enc3R 0 t 0x0F d a b m)
  | .vsra t d a b m => some (enc3R 0 t 0x10 d a b m)
  | .vsel t d a b => some (enc3R 0 t 0x11 d a b 0)
  | .vcvt t d a _ => some (enc3R 1 t 0x12 d a 0 0)
  | .vred t d a b => some (enc3R 0 t 0x13 d a b 0)
  | .vscan t d a b => some (enc3R 0 t 0x14 d a b 0)
  | .vperm t d a b m => some (enc3R 0 t 0x15 d a b m)
  | .vbcst t d a => some (enc3R 0 t 0x16 d a 0 0)
  | .vbcstLane t d a b => some (enc3R 0 t 0x16 d a b 1)
  | .viota t d a m => some (enc3R 0 t 0x17 d a 0 m)
  | .vrcp t d a => some (enc3R 0 t 0x18 d a 0 0)
  | .vrsq t d a => some (enc3R 0 t 0x19 d a 0 0)
  | .vexp2 t d a => some (enc3R 0 t 0x1A d a 0 0)
  | .vlog2 t d a => some (enc3R 0 t 0x1B d a 0 0)
  | .vmov t d a => some (enc3R 0 t 0x1C d a 0 0)
  | .mspush t c h a b => some (enc3R 0 t 0x1D (c ++ h ++ (0 : BitVec 2)) a b 0)
  | .mspushScalar t a => some (enc3R 0 t 0x1D 0 a 0 1)
  | .msinv t => some (enc3R 0 t 0x1E 0 0 0 0)
  | .mspop t => some (enc3R 0 t 0x1F 0 0 0 0)
  | .msand t c h a b => some (enc3R 0 t 0x20 (c ++ h ++ (0 : BitVec 2)) a b 0)
  | .msandScalar t a => some (enc3R 0 t 0x20 0 a 0 1)
  | .vpopc t d => some (enc3R 0 t 0x21 d 0 0 0)
  | .vpopcLanes t d a => some (enc3R 0 t 0x21 d a 0 1)
  | .vact t d a b => some (enc3R 0 t 0x22 d a b 0)
  | .vld t rt base step sz lit => some (encMS (xOf lit) t 0x01 rt base step sz)
  | .vst t rt base step sz lit => some (encMS (xOf lit) t 0x02 rt base step sz)
  | .vlds t rt base step sz _ => some (encMS 1 t 0x03 rt base step sz)
  | .vsts t rt base step sz _ => some (encMS 1 t 0x04 rt base step sz)
  | .vgth t d a b m => some (enc3R 0 t 0x05 d a b m)
  | .vsct t d a b m => some (enc3R 0 t 0x06 d a b m)
  | .vldr t rt base step sz _ => some (encMS 1 t 0x07 rt base step sz)
  | .vstr t rt base step sz lit => some (encMS (xOf lit) t 0x08 rt base step sz)
  | .vxs t d a b => some (enc3R 0 t 0x09 d a b 0)
  | .vsx t d a b => some (enc3R 0 t 0x0A d a b 0)
  | .vldx t rt base step lit => some (encMS (xOf lit) t 0x0B rt base step 1)
  | .vtrp t d a b m => some (enc3R 0 t 0x0C d a b m)
  | .mpush t a b kind la lb lit => some (encMB (xOf lit) t 0x01 0 a b (kind ++ la ++ lb ++ (0 : BitVec 1)))
  | .mshift t bank a b be hb sv bv lit => some (encMB (xOf lit) t 0x02 bank a b (be ++ hb ++ sv ++ bv ++ (0 : BitVec 1)))
  | .macc t bank a b ha hb av bv lit => some (encMB (xOf lit) t 0x03 bank a b (ha ++ hb ++ av ++ bv ++ (0 : BitVec 1)))
  | .macs t bank a b ha hb av bv lit => some (encMB (xOf lit) t 0x04 bank a b (ha ++ hb ++ av ++ bv ++ (0 : BitVec 1)))
  | .mdrain t bank a dv lit => some (encMB (xOf lit) t 0x05 bank a 0 (dv ++ (0 : BitVec 4)))
  | .mclr t bank => some (encMB 0 t 0x06 bank 0 0 0)
  | .mbmap t a h => some (encMB 0 t 0x07 0 a 0 (h ++ (0 : BitVec 4)))
  | .mchk t bank => some (encMB 0 t 0x08 bank 0 0 0)
  | .mfix t bank a b => some (encMB 0 t 0x09 bank a b 0)
  | .mstat t bank a b => some (encMB 0 t 0x0A bank a b 0)
  | .xadd t a imm => some (encRI 0 t 0x01 0 a imm)
  | .xlds t base step lit => some (encMS (xOf lit) t 0x02 0 base step 1)
  | .xclr o r => some (head 0 o r 0x03 0)
  | .cpyi t h d s c lit => some (encEC (xOf lit) t 0x01 h d s c)
  | .cpyo t h d s c lit => some (encEC (xOf lit) t 0x02 h d s c)
  | .cpys t h d s c lit => some (encEC (xOf lit) t 0x03 h d s c)
  | .cpyx t h d s c lit => some (encEC (xOf lit) t 0x04 h d s c)
  | .cpyr t h d s c lit => some (encEC (xOf lit) t 0x05 h d s c)
  | .cpyl t h d s c lit => some (encEC (xOf lit) t 0x06 h d s c)
  | .cpyk t d s c => some (encEC 0 t 0x07 0 d s c)
  | .rrot t h d s c lit => some (encEC (xOf lit) t 0x08 h d s c)
  | .mcst t h d s c lit => some (encEC (xOf lit) t 0x09 h d s c)
  | .route t h d s c lit => some (encEC (xOf lit) t 0x0A h d s c)
  | .a2av t h d s c lit => some (encEC (xOf lit) t 0x0B h d s c)
  | .ared t h d s c lit => some (encEC (xOf lit) t 0x0C h d s c)
  | .agth t h d s c lit => some (encEC (xOf lit) t 0x0D h d s c)
  | .sendo t h d s c lit => some (encEC (xOf lit) t 0x0E h d s c)
  | .rngs t s => some (encEC 0 t 0x0F 0 0 s 0)
  | _ => none

/-- The fields of a slot word, each family's names (R59, R60). -/
structure Fields where
  w : Word32
  lit : Option Word32

namespace Fields
variable (f : Fields)
def o : BitVec 1 := f.w.extractLsb' 30 1
def r : BitVec 1 := f.w.extractLsb' 29 1
def op : Nat := (f.w.extractLsb' 23 6).toNat
def p : BitVec 4 := f.w.extractLsb' 0 4
def t : Tag := { o := f.o, r := f.r, p := f.p }
def d : RField := f.w.extractLsb' 17 6
def a : RField := f.w.extractLsb' 11 6
def b : RField := f.w.extractLsb' 5 6
def m : BitVec 1 := f.w.extractLsb' 4 1
def imm : BitVec 7 := f.w.extractLsb' 4 7
def step : BitVec 5 := f.w.extractLsb' 6 5
def sz : BitVec 2 := f.w.extractLsb' 4 2
def cc : BitVec 4 := f.w.extractLsb' 19 4
def ga : RField := f.w.extractLsb' 13 6
def gb : RField := f.w.extractLsb' 7 6
def disp : BitVec 7 := f.w.extractLsb' 0 7
def h : BitVec 4 := f.w.extractLsb' 19 4
def ch : BitVec 3 := f.w.extractLsb' 4 3
def bank : BitVec 2 := f.w.extractLsb' 21 2
def ma : RField := f.w.extractLsb' 15 6
def mb : RField := f.w.extractLsb' 9 6
def fl (i : Nat) : BitVec 1 := f.w.extractLsb' i 1
def dHi : BitVec 3 := f.w.extractLsb' 20 3
def dLo : BitVec 3 := f.w.extractLsb' 17 3
def dH : BitVec 1 := f.w.extractLsb' 19 1
/-- The literal word of a form that requires X = 1; where X = 0 the candidate's X bit differs from the word's. -/
def l : Word32 := f.lit.getD 0
end Fields

/-- The CTL operation that opcode and used fields name (R81). -/
def readCtl (f : Fields) : Option Instr :=
  match f.op with
  | 0x00 => some (.nop f.o)
  | 0x01 => some (.br f.cc f.ga f.gb f.disp f.lit)
  | 0x02 => some (.brv f.cc f.gb f.disp f.lit)
  | 0x03 => some (if f.ga = 0 then .jmp f.disp f.lit else .jmpReg f.ga)
  | 0x04 => some (if f.ga = 0 then .call f.disp f.lit else .callReg f.ga)
  | 0x05 => some .ret
  | 0x06 => some (.loop (f.w.extractLsb' 0 6))
  | 0x07 => some (.lbrk (f.w.extractLsb' 0 3))
  | 0x08 => some .yield
  | 0x09 => some .skpz
  | 0x0A => some .skpe
  | 0x0B => some .halt
  | 0x0C => some (.trap f.imm)
  | 0x0D => some (if f.lit.isNone && f.disp == 0 then .hndlRemove f.ga else .hndl f.ga f.disp f.lit)
  | 0x0E => some .reth
  | 0x0F => some (.fmtw f.d f.a)
  | 0x10 => some (.bari f.d f.a f.imm f.lit)
  | 0x11 => some (.bara f.d f.a f.imm f.lit)
  | 0x12 => some (.barw f.d f.m)
  | 0x13 => some (.semi f.d f.a f.imm f.lit)
  | 0x14 => some (.sems f.d f.a f.imm f.lit)
  | 0x15 => some (.semw f.d f.a f.imm)
  | 0x16 => some (.wpw f.d f.a)
  | 0x17 =>
    some (match (f.w.extractLsb' 7 2).toNat with
      | 1 => .fenceAcq f.ch
      | 2 => .fenceRel f.ch
      | _ => .fenceFull f.ch)
  | 0x18 => some .fsc
  | 0x19 => some (.sysr f.d (f.w.extractLsb' 4 6))
  | 0x1A => some (.sysw f.a (f.w.extractLsb' 4 6))
  | 0x1B => some (.brk f.imm)
  | _ => none

/-- The UNI operation that opcode and used fields name (R81). -/
def readUni (f : Fields) : Option Instr :=
  match f.op with
  | 0x00 => some (.nop f.o)
  | 0x01 => some (.uniAdd f.o f.d f.a f.b)
  | 0x02 => some (.uniSub f.o f.d f.a f.b)
  | 0x03 => some (.uniAnd f.o f.d f.a f.b)
  | 0x04 => some (.uniOr f.o f.d f.a f.b)
  | 0x05 => some (.uniXor f.o f.d f.a f.b)
  | 0x06 => some (.uniShl f.o f.d f.a f.b)
  | 0x07 => some (.uniShr f.o f.d f.a f.b)
  | 0x08 => some (.uniSra f.o f.d f.a f.b)
  | 0x09 => some (.uniMul f.o f.d f.a f.b)
  | 0x0A => some (.uniMulh f.o f.d f.a f.b f.m)
  | 0x0B => some (.uniMin f.o f.d f.a f.b)
  | 0x0C => some (.uniMax f.o f.d f.a f.b)
  | 0x0D => some (.minu f.o f.d f.a f.b)
  | 0x0E => some (.maxu f.o f.d f.a f.b)
  | 0x0F => some (.uniAddi f.o f.d f.a f.imm f.lit)
  | 0x10 => some (if f.a = 1 then .uniLiHi f.o f.d f.imm f.lit else .uniLi f.o f.d f.imm f.lit)
  | 0x11 => some (.ldp f.o f.d f.imm)
  | 0x12 => some (.vote f.o f.d f.a f.b)
  | 0x13 => some (.gidx f.o f.d f.imm)
  | 0x14 => some (.hld f.o f.d f.imm)
  | 0x15 => some (.hget f.o f.d f.a f.b f.m)
  | 0x16 => some (.hset f.o f.d f.a f.b)
  | 0x17 => some (.hcpy f.o f.d f.a)
  | 0x18 => some (.hbind f.o f.d f.a)
  | 0x19 => some (.hval f.o f.d f.a)
  | 0x1A => some (.uniClz f.o f.d f.a)
  | 0x1B => some (.uniSel f.o f.d f.a f.b)
  | _ => none

/-- The ADR operation that opcode and used fields name (R81). -/
def readAdr (f : Fields) : Option Instr :=
  match f.op with
  | 0x00 => some (.nop f.o)
  | 0x01 => some (.adrAdd f.t f.d f.a f.b)
  | 0x02 => some (.adrSub f.t f.d f.a f.b)
  | 0x03 => some (.adrAnd f.t f.d f.a f.b)
  | 0x04 => some (.adrOr f.t f.d f.a f.b)
  | 0x05 => some (.adrXor f.t f.d f.a f.b)
  | 0x06 => some (.adrShl f.t f.d f.a f.b)
  | 0x07 => some (.adrShr f.t f.d f.a f.b)
  | 0x08 => some (.adrSra f.t f.d f.a f.b)
  | 0x09 => some (.adrMul f.t f.d f.a f.b)
  | 0x0A => some (.adrMulh f.t f.d f.a f.b f.m)
  | 0x0B => some (.adrMin f.t f.d f.a f.b f.m)
  | 0x0C => some (.adrMax f.t f.d f.a f.b f.m)
  | 0x0D => some (.adrAddi f.t f.d f.a f.imm f.lit)
  | 0x0E => some (if f.a = 1 then .adrLiHi f.t f.d f.imm f.lit else .adrLi f.t f.d f.imm f.lit)
  | 0x0F => some (.cmp f.t f.dHi f.dLo f.a f.b f.m)
  | 0x10 => some (.plog f.t f.dHi f.dLo f.a f.b)
  | 0x11 => some (.adrSel f.t f.d f.a f.b)
  | 0x12 => some (.adrClz f.t f.d f.a f.m)
  | 0x13 => some (.popc f.t f.d f.a f.m)
  | 0x14 => some (.tadr f.t f.h f.ga f.gb f.ch)
  | 0x15 => some (.ld f.t f.d f.a f.step f.sz f.lit)
  | 0x16 => some (.st f.t f.d f.a f.step f.sz f.lit)
  | 0x17 => some (.ldr f.t f.d f.a f.step f.sz f.l)
  | 0x18 => some (.str f.t f.d f.a f.step f.sz f.lit)
  | 0x19 => some (.amo f.t f.d f.a (f.w.extractLsb' 6 4) f.m f.lit)
  | 0x1A => some (.amor f.t f.d f.a (f.fl 10) (f.w.extractLsb' 6 4) f.m f.l)
  | 0x1B =>
    some (if f.fl 10 = 0 then .ownEng f.t f.a (f.w.extractLsb' 4 6) else .ownThr f.t f.a (f.w.extractLsb' 4 6))
  | 0x1C => some (.wpr f.t f.d f.imm)
  | 0x1D => some (if f.sz = 2 then .ljoinSc f.t f.d f.a f.step f.lit else .ljoin f.t f.d f.a f.step f.lit)
  | 0x1E => some (.lstm f.t f.d f.a f.step f.lit)
  | 0x1F => some (.linc f.t f.d f.a f.step f.lit)
  | 0x20 => some (.lld f.t f.d f.a f.step f.l)
  | 0x21 => some (.lwait f.t f.d f.a f.step f.l)
  | _ => none

/-- The VEC operation that opcode and used fields name (R81). -/
def readVec (f : Fields) : Option Instr :=
  match f.op with
  | 0x00 => some (.nop f.o)
  | 0x01 => some (.vadd f.t f.d f.a f.b f.m)
  | 0x02 => some (.vsub f.t f.d f.a f.b f.m)
  | 0x03 => some (.vmul f.t f.d f.a f.b f.m)
  | 0x04 => some (.vfma f.t f.d f.a f.b f.m)
  | 0x05 => some (.vfms f.t f.d f.a f.b f.m)
  | 0x06 => some (.vmin f.t f.d f.a f.b)
  | 0x07 => some (.vmax f.t f.d f.a f.b)
  | 0x08 => some (.vabs f.t f.d f.a f.m)
  | 0x09 => some (.vneg f.t f.d f.a f.m)
  | 0x0A => some (.vand f.t f.d f.a f.b)
  | 0x0B => some (.vor f.t f.d f.a f.b)
  | 0x0C => some (.vxor f.t f.d f.a f.b)
  | 0x0D => some (.vnot f.t f.d f.a)
  | 0x0E => some (.vshl f.t f.d f.a f.b f.m)
  | 0x0F => some (.vshr f.t f.d f.a f.b f.m)
  | 0x10 => some (.vsra f.t f.d f.a f.b f.m)
  | 0x11 => some (.vsel f.t f.d f.a f.b)
  | 0x12 => some (.vcvt f.t f.d f.a f.l)
  | 0x13 => some (.vred f.t f.d f.a f.b)
  | 0x14 => some (.vscan f.t f.d f.a f.b)
  | 0x15 => some (.vperm f.t f.d f.a f.b f.m)
  | 0x16 => some (if f.m = 0 then .vbcst f.t f.d f.a else .vbcstLane f.t f.d f.a f.b)
  | 0x17 => some (.viota f.t f.d f.a f.m)
  | 0x18 => some (.vrcp f.t f.d f.a)
  | 0x19 => some (.vrsq f.t f.d f.a)
  | 0x1A => some (.vexp2 f.t f.d f.a)
  | 0x1B => some (.vlog2 f.t f.d f.a)
  | 0x1C => some (.vmov f.t f.d f.a)
  | 0x1D => some (if f.m = 0 then .mspush f.t f.dHi f.dH f.a f.b else .mspushScalar f.t f.a)
  | 0x1E => some (.msinv f.t)
  | 0x1F => some (.mspop f.t)
  | 0x20 => some (if f.m = 0 then .msand f.t f.dHi f.dH f.a f.b else .msandScalar f.t f.a)
  | 0x21 => some (if f.m = 0 then .vpopc f.t f.d else .vpopcLanes f.t f.d f.a)
  | 0x22 => some (.vact f.t f.d f.a f.b)
  | _ => none

/-- The VLS operation that opcode and used fields name (R81). -/
def readVls (f : Fields) : Option Instr :=
  match f.op with
  | 0x00 => some (.nop f.o)
  | 0x01 => some (.vld f.t f.d f.a f.step f.sz f.lit)
  | 0x02 => some (.vst f.t f.d f.a f.step f.sz f.lit)
  | 0x03 => some (.vlds f.t f.d f.a f.step f.sz f.l)
  | 0x04 => some (.vsts f.t f.d f.a f.step f.sz f.l)
  | 0x05 => some (.vgth f.t f.d f.a f.b f.m)
  | 0x06 => some (.vsct f.t f.d f.a f.b f.m)
  | 0x07 => some (.vldr f.t f.d f.a f.step f.sz f.l)
  | 0x08 => some (.vstr f.t f.d f.a f.step f.sz f.lit)
  | 0x09 => some (.vxs f.t f.d f.a f.b)
  | 0x0A => some (.vsx f.t f.d f.a f.b)
  | 0x0B => some (.vldx f.t f.d f.a f.step f.lit)
  | 0x0C => some (.vtrp f.t f.d f.a f.b f.m)
  | _ => none

/-- The MAT operation that opcode and used fields name (R81). -/
def readMat (f : Fields) : Option Instr :=
  match f.op with
  | 0x00 => some (.nop f.o)
  | 0x01 => some (.mpush f.t f.ma f.mb (f.w.extractLsb' 7 2) (f.fl 6) (f.fl 5) f.lit)
  | 0x02 => some (.mshift f.t f.bank f.ma f.mb (f.fl 8) (f.fl 7) (f.fl 6) (f.fl 5) f.lit)
  | 0x03 => some (.macc f.t f.bank f.ma f.mb (f.fl 8) (f.fl 7) (f.fl 6) (f.fl 5) f.lit)
  | 0x04 => some (.macs f.t f.bank f.ma f.mb (f.fl 8) (f.fl 7) (f.fl 6) (f.fl 5) f.lit)
  | 0x05 => some (.mdrain f.t f.bank f.ma (f.fl 8) f.lit)
  | 0x06 => some (.mclr f.t f.bank)
  | 0x07 => some (.mbmap f.t f.ma (f.fl 8))
  | 0x08 => some (.mchk f.t f.bank)
  | 0x09 => some (.mfix f.t f.bank f.ma f.mb)
  | 0x0A => some (.mstat f.t f.bank f.ma f.mb)
  | _ => none

/-- The EXP operation that opcode and used fields name (R81). -/
def readExp (f : Fields) : Option Instr :=
  match f.op with
  | 0x00 => some (.nop f.o)
  | 0x01 => some (.xadd f.t f.a f.imm)
  | 0x02 => some (.xlds f.t f.a f.step f.lit)
  | 0x03 => some (.xclr f.o f.r)
  | _ => none

/-- The XFR operation that opcode and used fields name (R81). -/
def readXfr (f : Fields) : Option Instr :=
  match f.op with
  | 0x00 => some (.nop f.o)
  | 0x01 => some (.cpyi f.t f.h f.ga f.gb f.ch f.lit)
  | 0x02 => some (.cpyo f.t f.h f.ga f.gb f.ch f.lit)
  | 0x03 => some (.cpys f.t f.h f.ga f.gb f.ch f.lit)
  | 0x04 => some (.cpyx f.t f.h f.ga f.gb f.ch f.lit)
  | 0x05 => some (.cpyr f.t f.h f.ga f.gb f.ch f.lit)
  | 0x06 => some (.cpyl f.t f.h f.ga f.gb f.ch f.lit)
  | 0x07 => some (.cpyk f.t f.ga f.gb f.ch)
  | 0x08 => some (.rrot f.t f.h f.ga f.gb f.ch f.lit)
  | 0x09 => some (.mcst f.t f.h f.ga f.gb f.ch f.lit)
  | 0x0A => some (.route f.t f.h f.ga f.gb f.ch f.lit)
  | 0x0B => some (.a2av f.t f.h f.ga f.gb f.ch f.lit)
  | 0x0C => some (.ared f.t f.h f.ga f.gb f.ch f.lit)
  | 0x0D => some (.agth f.t f.h f.ga f.gb f.ch f.lit)
  | 0x0E => some (.sendo f.t f.h f.ga f.gb f.ch f.lit)
  | 0x0F => some (.rngs f.t f.gb)
  | _ => none

/-- The candidate operation of a slot's word (R81). -/
def readSlot (sl : Slot) (f : Fields) : Option Instr :=
  match sl with
  | .ctl => readCtl f
  | .uni => readUni f
  | .adr => readAdr f
  | .vec => readVec f
  | .vls => readVls f
  | .mat => readMat f
  | .exp => readExp f
  | .xfr => readXfr f

/-- The operation of slot sl that word w and the literal word l give. l is read only when w's X bit is 1 (R55, R59);
an unassigned opcode is ILLEGAL_OP, checked before every field (R88, R89). -/
def decode (sl : Slot) (w l : Word32) : Except DecodeFault Instr :=
  match readSlot sl { w := w, lit := if w.getLsbD 31 then some l else none } with
  | none => .error .illegalOp
  | some i => if i.wf && i.word == some w then .ok i else .error .illegalField

/-- The words of an operation as the stream carries them: slot word, then the literal if it has one (R55). -/
def encode (i : Instr) : List Word32 :=
  match i.word with
  | none => []
  | some w => w :: i.literal.toList

/-- The operation a tile slot word of 32 bits stands for when nothing says which slot it came from: the slots in the
order CTL, VEC, ADR, UNI, VLS, MAT, XFR, EXP, and the first that reads an operation (log entry 7, DESIGN CHOICE: R78
says a slot word can only be read once its slot is known). -/
def decodeAnySlot (w l : Word32) : Option (Slot × Instr) :=
  [Slot.ctl, .vec, .adr, .uni, .vls, .mat, .xfr, .exp].findSome? fun sl =>
    match decode sl w l with
    | .ok i => some (sl, i)
    | .error _ => none

/-- The operation whose first word is w and whose further words are zero. -/
def decodeTableWord (_nbits w : Nat) : Option Instr :=
  (decodeAnySlot (BitVec.ofNat 32 w) (BitVec.ofNat 32 (w / 2 ^ 32))).map (·.2)

end Sys2Proof
end

