-- ==== Sys2Proof/Machine/State.lean ====
section
/-! DEFINITION. The state of the device as plain data (INVENTORY.md lists each element with its rule). A seat's and a
gang's state exist once dispatch formed them; at reset there is none. -/

namespace Sys2Proof.Machine

/-- Why the step stops. -/
inductive Fault where
  /-- power is gone from the whole module (R378); raised by step only. Safe: the spec gives the part no step then. -/
  | unpowered
  deriving DecidableEq, Repr

/-- Why an operation has no meaning in this state. -/
inductive Refusal where
  /-- the instruction's meaning is not written; raised by exec. Safe. -/
  | notModelled (mnemonic : String)
  /-- an operation of a bundle is given to exec while no execution is open (the step never does so). Safe. -/
  | noExecution
  deriving DecidableEq, Repr

/-! ### Traps -/

/-- A trap as its raising rule gives it: cause code (R366), address field, and the producer of an
UNDERSIZED_STALL (R69, R367). -/
structure TrapInfo where
  cause : Nat
  addr : Word64
  ppc : Nat := 0
  pslot : Nat := 0
  deriving DecidableEq, Repr

/-- TRAPCAUSE and TRAPFRAME0 to TRAPFRAME3 (R367). -/
structure Frame where
  cause : Word64
  f0 : Word64
  f1 : Word64
  f2 : Word64
  f3 : Word64
  deriving DecidableEq, Repr

/-! ### A seat -/

/-- The standing operation of a slot with its step accumulator (R62, R373). -/
structure Standing where
  word : Word32
  lit : Word32
  bar : BitVec 4
  acc : BitVec 32
  deriving DecidableEq, Repr

/-- The arithmetic class of a beat's bank mode (R202). -/
inductive BankMode where
  | unset | float | int | intScaled
  deriving DecidableEq, Repr

/-- A beat between issue and accumulation (R205, R220): its operands as read at issue. -/
structure Beat where
  bank : Nat
  sparse : Bool
  atype : BitVec 4
  btype : BitVec 4
  mode : BankMode
  h : Nat
  /-- dense A edge, or sparse A values and indices -/
  a : BitVec 1280
  /-- dense or sparse B edge -/
  b : BitVec 2048
  scaled : Bool
  /-- A scales in bytes 0 to 63, B scales in bytes 64 to 127 (R219) -/
  scales : BitVec 1024
  /-- exponent an XADD applied (R220) -/
  xadd : Int
  cke : Bool
  /-- the slot word, for the port record (R373) -/
  word : Word32
  deriving DecidableEq, Repr

/-- The outcome of MCHK (R222): class, reason, failing rows and columns, residues. -/
structure CheckResult where
  cls : Nat
  why : Nat
  rows : Word64
  cols : Word64
  kr : Vector Word32 64
  kc : Vector Word32 64
  deriving DecidableEq, Repr

/-- What lands when a latency expires (R68). -/
inductive Land where
  | sReg (d : Nat) (v : Word64)
  | pReg (d : Nat) (v : Bool)
  /-- the bits of the mask take the value's bits -/
  | vReg (d : Nat) (v mask : VReg)
  | aEdge (v : BitVec 1024)
  | bEdge (v : BitVec 1024)
  /-- a remote read awaits its data: the entry of the landing buffer or of the operand queue (R159, R204) -/
  | remote (entry : Nat)
  | scale (block : Nat) (v : BitVec 1024)
  | beat (b : Beat)
  | clearBank (bank : Nat)
  | check (bank : Nat) (r : CheckResult)
  /-- MDRAIN to scratchpad (R217) -/
  | pad (addr : Nat) (bytes : List Byte)
  /-- arrive on retire (R59) -/
  | arrive (bar : Nat)
  deriving DecidableEq, Repr

/-- A landing: the issue cycle it takes effect in, its producer's slot and bundle, and the effect. -/
structure Landing where
  due : Nat
  slot : Nat
  pc : Nat
  issued : Nat
  eff : Land
  deriving DecidableEq, Repr

/-- A remote read on its way: what its data will do when it lands, and the data once it has arrived (R165). -/
structure RemoteEntry where
  id : Nat
  /-- landing-buffer entries taken (R159); an operand-queue read takes none -/
  cost : Nat
  dst : Land
  arrived : Bool
  /-- the old value of an SC atomic, which ends its hold (R297) -/
  sc : Bool
  deriving DecidableEq, Repr

/-- S, P, V, mask stack, FMT and the random-bit queue (R142, R181, R182, R184, R187, R267). -/
structure Regs where
  s : Vector Word64 32
  p : BitVec 8
  v : Vector VReg 32
  mask : Vector Word64 8
  depth : Nat
  fmt : Word64
  /-- pending FMT writes, oldest first, with the executions left (R186) -/
  fmtPend : List (Word64 × Nat)
  rbq : List (BitVec 512)
  seed : Word64
  genN : Word64
  deriving DecidableEq, Repr

/-- One accumulator bank (R207, R225). -/
structure Bank where
  /-- entries that are not zero, by 64 * physical row + column, in rising order -/
  entries : List (Nat × Acc72)
  h : Nat
  /-- mode and row width fixed by the first beat issued since MCLR was issued (R207) -/
  issMode : BankMode
  issRw : Nat
  mode : BankMode
  rw : Nat
  sat : Bool
  cls : Nat
  why : Nat
  /-- FROW and FCOL: 0xFF where none fails; 0 before the first MCHK (R225) -/
  frow : Nat
  fcol : Nat
  /-- failing rows and columns of the last MCHK (R224) -/
  rows : Word64
  cols : Word64
  ndrn : Nat
  fix : Bool
  ovr : Bool
  cc : Vector Word32 64
  rc : Vector Word32 64
  mc : Vector Word32 64
  mr : Vector Word32 64
  dc : Vector Word32 64
  dr : Vector Word32 64
  kc : Vector Word32 64
  kr : Vector Word32 64
  /-- a beat since MCLR ran with CKE = 0 (R222) -/
  unck : Bool
  /-- a non-finite element, scale or entry entered a beat or drain since MCLR (R222) -/
  nonFinite : Bool
  deriving DecidableEq, Repr

/-- Edges, bitmap, scale queue and banks (R203, R206). -/
structure Mat where
  a : BitVec 1024
  b : BitVec 1024
  sa : BitVec 1280
  sb : BitVec 2048
  bitmap : BitVec 512
  /-- a bitmap loaded by MBMAP that governs from the next bundle (R215) -/
  bitmapNext : Option (BitVec 512)
  /-- scale edges held, oldest first, with their K block (R219) -/
  scales : List (Nat × BitVec 1024)
  /-- XLDS edges issued since the last XCLR, the block of the next -/
  nextBlock : Nat
  kpos : Nat
  banks : List Bank
  deriving DecidableEq, Repr

/-- The owner state of a pad (R160); returning carries the serial number that the seat's commands issued before the hand-back
lie below, and the commands of other seats that touched the pad then, by seat and serial number. -/
inductive Owner where
  | thread | engine | returning (below : Nat) (others : List (Nat × Nat))
  deriving DecidableEq, Repr

/-- A seat's pads (R154, R155, R160, R179). -/
structure Pads where
  count : Nat
  /-- pad map: the physical pad of each pad -/
  phys : List Nat
  /-- bytes that are not zero, by seat-relative address, rising -/
  bytes : List Host.Cell
  owner : List Owner
  /-- poisoned granules, by address div 64, rising -/
  poison : List Nat
  /-- words that an upset has changed, by address, rising, with the bits that differ from what was written (R177): the
  parity bits are those of the words as written -/
  upset : List (Nat × BitVec 64)
  deriving DecidableEq, Repr

/-- A semaphore or barrier counter set (R270, R271). -/
structure Barrier where
  x : Word32
  n : Word32
  b : Word32
  deriving DecidableEq, Repr

/-- The body of a message (R169 to R171, R272, R276). -/
inductive MsgBody where
  /-- STR, VSTR: bytes with the lanes that are active -/
  | store (addr : Nat) (bytes : List (Nat × Byte))
  /-- LDR: bytes to read -/
  | load (addr size entry : Nat)
  /-- VLDR: the addresses of the active lanes -/
  | vload (addr : Nat) (offs : List Nat) (size entry : Nat)
  | amo (addr size f : Nat) (v cmp : Word64) (entry : Nat) (sc : Bool)
  /-- MPUSH from a cluster source: 128 bytes; multicast requests join a group (R205) -/
  | edge (addr entry : Nat) (multicast : Bool)
  | sem (idx : Nat) (k : Word32)
  | bar (idx : Nat) (k : Word32)
  /-- LJOIN, LSTM, LINC by opcode 0x1D to 0x1F: lattice address and operand (R313) -/
  | lattice (op : Nat) (va : Nat) (v : Word64)
  /-- LLD, LWAIT: the number of the wait (R314, R315) -/
  | watch (wait : Nat)
  deriving DecidableEq, Repr

/-- A message of a seat: where it goes and the operation it came from. -/
structure Msg where
  serial : Nat
  src : Nat
  dst : Nat
  pc : Nat
  slot : Nat
  /-- the cluster or virtual address as the operation formed it, for a trap frame -/
  ea : Word64
  /-- barrier of an arrive-on-retire that the message's performance completes -/
  arr : Option Nat
  /-- the stamp of a sequentially consistent operation (R297) -/
  stamp : Option Nat
  body : MsgBody
  /-- slot word and literal of the operation (R373) -/
  word : Word32 := 0
  lit : Word32 := 0
  /-- issue cycle of the operation, which orders it among the seat's commands -/
  cycle : Nat := 0
  /-- register operands that the body does not carry: S[t] of an STR, the pad address and the threshold of a watch (R373) -/
  op0 : Word64 := 0
  op1 : Word64 := 0
  deriving DecidableEq, Repr

/-- A remote access of a seat to its own slot (R156) that is not performed yet: place, length, whether it writes, whether it
is an operand stream, and its issue cycle. -/
structure OwnAccess where
  addr : Nat
  len : Nat
  write : Bool
  edge : Bool
  cycle : Nat
  deriving DecidableEq, Repr

/-- A release issued and not yet performed (R279, R280). -/
structure Release where
  scope : Nat
  /-- messages with serial numbers below this, and commands issued before this cycle, must be performed first -/
  below : Nat
  cycle : Nat
  deriving DecidableEq, Repr

/-- What waits in the release queue, in issue order (R280). -/
inductive Deferred where
  | msg (m : Msg)
  | release (r : Release)
  deriving DecidableEq, Repr

/-- Counters, releases and sequential consistency (R269 to R283, R295 to R299). -/
structure Sync where
  sems : List Word32
  bars : List Barrier
  relq : List Deferred
  /-- an acquire holds the next bundle until earlier reads have arrived (R281) -/
  acq : Bool
  /-- wheel positions: number, stride, first (R296) -/
  wheelCnt : Nat
  wheelStride : Nat
  wheelFirst : Nat
  /-- stamps that the SC operations of the bundle at the head still need, and those they have (R297) -/
  scNeed : Nat
  scStamps : List Nat
  /-- chorus time at which the release before the SC operation was performed -/
  scReady : Option Nat
  /-- the first heartbeat since the seat has been drained (R283, R299) -/
  fscDrain : Option Nat
  /-- remote accesses to the seat's own slot, in program order, until they are performed (R156, R286) -/
  own : List OwnAccess
  deriving DecidableEq, Repr

/-- The kinds of command of the XFR slot that take an entry (R239, R253). -/
inductive CmdOp where
  | cpyi | cpyo | cpys | cpyx | cpyr | cpyl | rrot | mcst | route | a2av | ared | agth | sendo
  deriving DecidableEq, Repr

/-- A copy or engine command from issue to its end (R227, R228, R248, R254). -/
structure Cmd where
  /-- the issue cycle of its bundle, which orders a seat's commands (R164, R227) -/
  serial : Nat
  op : CmdOp
  ch : Nat
  start : Nat
  len : Nat
  done : Nat
  ctl : Word32
  snap : HReg
  /-- G for a copy, source cluster address for CPYS, first operand of an engine command -/
  g : Nat
  /-- P for a copy, destination cluster address for CPYS, second operand -/
  p : Nat
  pc : Nat
  started : Bool
  /-- barrier bytes charged and not yet discharged (R244) -/
  owed : Nat
  fault : Option (Nat × Nat)
  /-- bytes that were parked and were dropped when the command ended in a fault: undelivered (R248, R249) -/
  lost : Nat
  /-- ranges of the seat's own pads that the scoreboard records: address and length (R163) -/
  reads : List (Nat × Nat)
  writes : List (Nat × Nat)
  /-- the seat's own rank, and the rank table as 64-bit entries (R256) -/
  rank : Nat
  ranks : List Nat
  /-- A2AV: the receive counts by rank, as they came (R260) -/
  counts : List Nat
  /-- A2AV: ranks whose count has come; RROT: 0 once the pad has landed; SENDO: 0 once the message has left for a peer -/
  heard : List Nat
  /-- bytes landed of each rank's part (R254, R266) -/
  got : List Nat
  /-- RROT, ARED, AGTH: what is sent, read at the start (R261, R264); CPYI, CPYX: bytes read and not written yet, for want of the
  rest of their 8-byte unit of the pad (R288) -/
  buf : List Byte
  /-- POS, the bytes sent into that position, and PHASE of R266 -/
  pos : Nat
  sub : Nat
  phase : Nat
  /-- A2AV: ranks whose receive capacity the counts exceed, and ranks of other devices that take payload (R260) -/
  dead : List Nat
  ready : List Nat
  /-- the place among the seat's collectives of one rank table and channel (R257) -/
  nth : Nat
  /-- SENDO: the stamp of the SC form, and the sequence number once injected (R265) -/
  stamp : Option Nat
  sent : Option Nat
  /-- cut at its write pointer to free its entry for a draining seat (R110) -/
  cut : Bool
  /-- it holds its entries (R228, R254, R293) -/
  entry : Bool
  /-- CPYX: the bytes of the value line and of the index line that the command has read last (R240, R288); A2AV: those of the line
  of its send area (R260, R288) -/
  vals : List (Nat × Byte)
  idxs : List (Nat × Byte)
  /-- a rank that disagrees met the command while its seat was saved: it ends at the resumption (R257) -/
  odd : Bool := false
  deriving DecidableEq, Repr

/-- An LLD or LWAIT from issue until its semaphore is signalled (R314, R315). -/
structure Wait where
  id : Nat
  slot : Nat
  pc : Nat
  /-- issue cycle -/
  cycle : Nat
  va : Nat
  /-- deposit address, semaphore -/
  pad : Nat
  sem : Nat
  lld : Bool
  thr : Word64
  /-- chorus time of the timeout; 0 for none -/
  deadline : Nat
  lto : Bool
  /-- bytes of the deposit -/
  size : Nat
  /-- barrier of an arrive-on-retire -/
  arr : Option Nat
  /-- the watch is registered at the lattice unit -/
  watching : Bool
  /-- the deposit, once read, until the pads can take it -/
  deposit : Option (List Byte)
  deriving DecidableEq, Repr

/-- Issue count and write pointer of a channel (R231). -/
structure Chan where
  issued : Word64
  w : Word64
  deriving DecidableEq, Repr

/-- The copy state of a seat (R227 to R231). -/
structure Copy where
  quota : Nat
  chans : Vector Chan 8
  cmds : List Cmd
  /-- CPYKs under way: channel, start count, S destination, issue cycle (R249) -/
  kills : List (Nat × Nat × Nat × Nat)
  waits : List Wait
  /-- collectives issued so far, by rank-table address (RROT: 2^57) and channel (R257) -/
  colls : List ((Nat × Nat) × Nat)
  /-- collectives that ended in a fault and that CPYK has retired: a rank that meets one later disagrees or agrees with it (R257) -/
  past : List Cmd
  deriving DecidableEq, Repr

/-- System registers of a seat (R113, R367, R383, R389, R399, R400). -/
structure Sys where
  chk : Bool
  monlimit : Word32
  monCount : Nat
  frame : Frame
  hndlbase : Word64
  substcnt : Word32
  fiAcc : Word64
  fiLatch : Word64
  /-- a pending accumulator flip: the FI_ACC value and the issue cycle it comes about in -/
  fiPend : Option (Word64 × Nat)
  ensample : Word64
  /-- chorus time of the last energy sample -/
  sampled : Option Nat
  thrstat : Word64
  /-- asynchronous causes not yet reported, in order of arrival, as frames: the seat has latched the first four, and the others
  wait in their channels and units (R365) -/
  latched : List Frame
  deriving DecidableEq, Repr

/-- A loop level at the sequencer (R102). -/
structure LoopLevel where
  index : Nat
  limit : Nat
  entry : Nat
  kind : Nat
  trips : Nat
  first : Nat
  last : Nat
  deriving DecidableEq, Repr

/-- One execution as the sequencer sends it: the bundle and its repeat, its words and the mirrors of that moment
(R97, R99, R432). -/
structure Item where
  serial : Nat
  pc : Nat
  rep : Nat
  hdr : Word32
  /-- slot number, word, literal, in slot order -/
  words : List (Nat × Word32 × Word32)
  first : Bool
  last : Bool
  /-- sticky state clears after this execution (R64) -/
  clear : Bool
  /-- a boundary stands after this execution (R70) -/
  boundary : Bool
  blocking : Bool
  /-- delay state of the bundle (R367, R368) -/
  taken : Bool
  remain : Nat
  target : Nat
  g : Vector Word64 8
  h : Vector HReg 16
  loops : List LoopLevel
  /-- registers of the mirrors with a result on its way: register, bundle of the producer -/
  pendG : List (Nat × Nat)
  pendH : List (Nat × Nat)
  /-- sent at handler level -/
  handler : Bool
  /-- the second delay bundle of a RETH: what was set aside returns after it (R130, R371) -/
  reth : Bool
  deriving DecidableEq, Repr

/-- What stands in a seat's bundle queue (R97, R107, R364). -/
inductive QItem where
  | exec (x : Item)
  /-- a bundle passed over with a zero count ended an iteration or a branch, which clears sticky state, or a RETH (R58,
  R64, R371) -/
  | note (clear boundary reth : Bool)
  | haltMark
  | trapMark
  deriving DecidableEq, Repr

/-- Where a seat stands (R94, R107, R363). -/
inductive SeatRun where
  | run | trapped | marked
  deriving DecidableEq, Repr

/-- An entry of a seat's extent table (R322); kind: 0 eager, 1 lazy, 2 lattice. Entries beyond the end of the list are zero. -/
structure Extent where
  base : Nat
  len : Nat
  kind : Nat
  r : Bool
  w : Bool
  et : Bool
  pbase : Nat
  lease : Nat
  /-- the entry is valid -/
  v : Bool := true
  deriving DecidableEq, Repr

/-- What handler entry sets aside of a member (R369). -/
structure SeatAside where
  standing : Vector Standing 8
  skipDepth : Nat
  skipLevel : Nat
  residue : List QItem
  go : Bool
  prepared : Bool
  deriving DecidableEq, Repr

/-- What GANGCFG says of a seat's gang (R114). -/
structure GangCfg where
  c : Nat
  d : Nat
  dieMask : BitVec 8
  seqDie : Nat
  seqNum : Nat
  deriving DecidableEq, Repr

/-- A member seat (R25, R114). -/
structure Seat where
  id : Nat
  gang : Nat
  e : Nat
  m : Nat
  prio : Nat
  cfg : GangCfg
  regs : Regs
  standing : Vector Standing 8
  skipDepth : Nat
  skipLevel : Nat
  cycle : Nat
  landings : List Landing
  remotes : List RemoteEntry
  mat : Mat
  pads : Pads
  sync : Sync
  copy : Copy
  sys : Sys
  transit : List QItem
  queue : List QItem
  /-- the execution under way, or the last one -/
  cur : Option Item
  run : SeatRun
  started : Bool
  /-- the gang-wide wait of the item at the head is complete (R100) -/
  go : Bool
  /-- the execution under way has been replayed already (R188, R383) -/
  replayed : Bool
  /-- a skink disagreed once in the execution under way (R188) -/
  skinked : Bool
  /-- a trap of kind S raised by the open execution, with its slot: taken when the execution ends (R363) -/
  after : Option (TrapInfo × Nat)
  asideState : Option SeatAside
  /-- the steps of R62 and R63 have been made for the execution at the head of the queue -/
  prepared : Bool
  /-- messages of the open execution, sent when it commits -/
  outbox : List Msg
  /-- the open execution holds a YIELD (R124), or one waits for the end of an SC operation's hold (R297) -/
  yields : Bool
  /-- the bundle at the head was held: the slot, and why: 1 for a command entry (R228, R229), 2 for a hold that passes
  issue cycles (R159, R204), 0 for another -/
  held : Option (Nat × Nat)
  extents : List Extent
  /-- messages to peer devices not yet acknowledged (R279) -/
  unacked : Nat
  /-- an operation that forbids a rerun has been issued (R391) -/
  tied : Bool
  /-- the save slab's place (R373) -/
  slab : Nat
  deriving DecidableEq, Repr

/-! ### A gang and its sequencer -/

/-- A result on its way at the sequencer (R116). -/
inductive SeqLand where
  | gReg (d : Nat) (v : Word64)
  | hReg (d : Nat) (v : HReg)
  | hField (d f : Nat) (v : Word32)
  | vote (v : Word64)
  deriving DecidableEq, Repr

structure SeqLanding where
  due : Nat
  slot : Nat
  pc : Nat
  eff : SeqLand
  deriving DecidableEq, Repr

/-- A branch or return whose delay bundles are under way (R112, R119, R130). -/
structure Delay where
  remain : Nat
  taken : Bool
  target : Nat
  branch : Nat
  /-- the two delay bundles of a RETH -/
  reth : Bool
  deriving DecidableEq, Repr

/-- What the CTL operation of the execution under way does to the stream once the execution is sent. -/
inductive Flow where
  | seq
  /-- LBRK, or a LOOP passed over: control goes to a bundle; sticky state clears for LBRK -/
  | goto (pc : Nat) (clear : Bool)
  /-- BR, BRV, JMP, CALL, RET, RETH: two delay bundles follow -/
  | branch (d : Delay)
  | halt
  | trap (cause code : Nat)
  /-- an LBRK of more levels than stand: LOOP_DEPTH once the bundle's other slots have executed (R123) -/
  | depth
  deriving DecidableEq, Repr

/-- Why and how far a gang is stopped (R93, R107, R109, R364). -/
inductive GangStop where
  | run
  /-- its DISPATCH is journaled and its resources are allotted; its sequencer is not started (R352, R358); a stop that has been
  requested already halts it at bundle 0 (R397) -/
  | allotted (why : Option StopWhy)
  /-- a stop is requested; at the next boundary, or at once when forced, the halt marker goes out -/
  | asked (why : StopWhy) (at' : Nat)
  | haltSent (why : StopWhy)
  /-- a trap's marker is out; the request it overtook, which is held, and whether HALT had been executed -/
  | trapSent (why : Option StopWhy) (ended : Bool)
  /-- HALT was executed and its marker sent -/
  | ended
  /-- no handler takes the gang's cause: it is saved and fails (R372) -/
  | failed (cause : Nat)
  /-- the gang ends at once: STATUS and CAUSE of its record (R354, R377) -/
  | done (status cause : Nat)
  deriving DecidableEq, Repr

/-- What handler entry sets aside at the sequencer (R369). -/
structure SeqAside where
  pc : Nat
  rep : Nat
  loops : List LoopLevel
  delay : Option Delay
  standing : Vector Standing 8
  edge : Bool
  /-- HALT had been executed -/
  ended : Bool
  /-- a TRAP or BRK that an earlier trap overtook -/
  pend : Option Frame
  deriving DecidableEq, Repr

/-- The kernel record as dispatch read it (R345, R347). -/
structure Kernel where
  codeVa : Nat
  codeWords : Nat
  mapVa : Nat
  bundles : Nat
  /-- the loop table, read at dispatch; the image stays unchanged while the launch is admitted (R101, R343) -/
  loopTab : List (BitVec 128)
  descVa : Nat
  descSlots : Nat
  restartable : Bool
  deriving DecidableEq, Repr

/-- A gang at its sequencer (R18, R25, R90). -/
structure Gang where
  id : Nat
  launch : Nat
  prio : Nat
  c : Nat
  d : Nat
  dies : List Nat
  seqDie : Nat
  seqNum : Nat
  members : List Nat
  kernel : Kernel
  params : List Word64
  tensors : List HReg
  g : Vector Word64 32
  h : Vector HReg 16
  vote : Word64
  pc : Nat
  rep : Nat
  reps : Nat
  cycle : Nat
  landings : List SeqLanding
  standing : Vector Standing 8
  /-- the loop stack, innermost level first -/
  loops : List LoopLevel
  delay : Option Delay
  /-- header of the bundle under way -/
  hdr : Word32
  words : List (Nat × Word32 × Word32)
  /-- the place in the code of the bundle at the position, where the stream came to it in sequence, and that of the
  bundle after the one under way; none where the bundle map is to be read (R56) -/
  off : Option Nat
  next : Option Nat
  /-- the bundle under way has been fetched for the execution that comes next -/
  fresh : Bool
  flow : Flow
  handlers : List (Nat × Nat)
  level : Bool
  asideState : Option SeqAside
  stop : GangStop
  /-- the position is a boundary (R70, R107) -/
  edge : Bool
  /-- a read of device memory waits for its page: the address, and the frame of the trap should the page not be mapped (R56,
  R141) -/
  held : Option (Nat × Frame)
  /-- a blocking bundle has been sent and has not completed (R100) -/
  waiting : Bool
  /-- a VOTE in the waiting bundle: destination, register, operation (R137) -/
  votePend : Option (Nat × RField × Nat)
  serial : Nat
  forced : Bool
  /-- the sequencer's own trap of this stop (R364, R367) -/
  seqTrap : Option Frame
  lead : Option Nat
  saveCount : Nat
  order : Nat
  /-- chorus time at which the sequencer starts, at dispatch or at resumption (R396) -/
  startAt : Nat
  /-- the stop under way is a forced halt: the save records an extended position (R109) -/
  ext : Bool
  deriving DecidableEq, Repr

/-! ### The execution in progress -/

/-- The execution under way: which seat or sequencer, which slot comes next, and the state its reads see (R8, log
entry 4). -/
inductive Cursor where
  | seat (k : Nat) (slot : Nat) (base : Seat)
  | seqr (g : Nat) (slot : Nat) (base : Gang)
  deriving DecidableEq, Repr

/-- A parked sector of a side log (R247): where it came from, the bytes present; for a CPYR, the elements to combine,
each with its size, operation and element code (R242). -/
structure Parked where
  seat : Nat
  cmd : Nat
  va : Nat
  bytes : List (Nat × Byte)
  poison : Bool
  combine : Option (Nat × Nat × Nat)
  /-- DISCARD_WRITE has been raised for it (R247, R330) -/
  raised : Bool
  /-- the master it is written as (R333) -/
  master : Nat
  deriving DecidableEq, Repr

/-- An in-service tile, by die * 64 + die-local number (R16). -/
structure Tile where
  id : Nat
  /-- the seat that holds the issue slot (R94) -/
  holder : Option Nat
  /-- the number of the seat that gave it up last (R94); 3 where none has (log entry 26) -/
  last : Nat
  /-- REPLAYCNT (R382) -/
  skink : Word32
  timing : Word32
  sideLog : List Parked
  /-- bundle executions and timing replays, injected ones aside, in the margin window (R384); executions since the
  last record (R385) -/
  window : Nat
  late : Nat
  execs : Nat
  /-- the cluster's eft holds this position (R16, R386) -/
  eft : Bool
  /-- a fence is decided and the tile's gangs are being saved (R386) -/
  fencing : Bool
  /-- the row the scrubber visits next (R177) -/
  scrubRow : Nat
  /-- bits of the vertical parity rows that an upset has changed, by group, bank and word column (R177) -/
  parErr : List ((Nat × Nat × Nat) × BitVec 64)
  /-- words that an upset has changed in pads that no seat holds, by physical pad and byte offset in it, with the bits (R177) -/
  stray : List ((Nat × Nat) × BitVec 64)
  /-- the margin controller's TRIM, FREQ and WIN (R384) -/
  trim : Int
  freq : Nat
  win : Nat
  /-- timing and skink replays and rebuilds since the last record (R385) -/
  repl : Nat
  sknk : Nat
  ecc : Nat
  deriving DecidableEq, Repr

/-! ### What is on its way between units -/

/-- Remote data on its way back (R165, R205). -/
structure Reply where
  seat : Nat
  entry : Nat
  dst : Land
  deriving DecidableEq, Repr

/-- A refusal or an overflow on its way back to the seat that raises it (R162, R276). -/
structure Report where
  seat : Nat
  overflow : Bool
  cause : Nat
  addr : Word64
  pc : Nat
  slot : Nat
  /-- the landing entry that the refusal frees -/
  entry : Option Nat
  deriving DecidableEq, Repr

/-- A message of the ordered class (R414): key, destination device and participant (TAG, DIDX, MIDX of its rank entry,
R256), the 64 bytes, their place and poison, the semaphore to signal, and the seat and command it came from. -/
structure OrdMsg where
  stamp : Nat
  dev : Nat
  seq : Nat
  dest : Nat
  seat : Nat
  addr : Nat
  data : List Byte
  poison : Bool
  sig : Option Nat
  src : Option (Nat × Nat)
  /-- the master it acts under: its channel, or the peer port of its arrival (R333) -/
  master : Nat
  deriving DecidableEq, Repr

/-- An input of the chorus switch (R414 to R416): queue in key order, watermark, the chorus time of its last advance,
whether its link is up. -/
structure SwitchInput where
  queue : List OrdMsg
  mark : Nat
  advanced : Nat
  up : Bool
  deriving DecidableEq, Repr

/-- What leaves through the peer ports (R410). -/
inductive PeerSend where
  /-- an ordered-class message, with the port's watermark (R414) -/
  | ordered (port : Nat) (m : OrdMsg) (mark : Nat)
  | beacon (port mark : Nat)
  /-- a collective's bulk traffic to a rank of another device: rank entry, opcode, channel, and what it brings (R260, R261) -/
  | bulk (port rank op ch : Nat) (part : PeerPart)
  /-- this device's word on a SENDO that a peer sent it, by its device and sequence number: written, or refused (R265, R335) -/
  | word (port dev seq : Nat) (written : Bool)
  /-- a pod-scope release of a seat, to be acknowledged (R279) -/
  | release (port seat : Nat)
  /-- the acknowledgement of a peer's, with this device's chorus time (R279, R298) -/
  | released (port dev seat time : Nat)
  /-- a synchronisation flit with this device's chorus time (R410, R412) -/
  | sync (port time : Nat)
  deriving DecidableEq, Repr

/-! ### Translation, access tables, lattice -/

/-- A page of the memory processor, or an entry of a translation cache (R325, R326, R329). -/
structure Mapping where
  va : Nat
  pa : Nat
  size : Nat
  r : Bool
  w : Bool
  et : Bool
  disc : Bool
  /-- an unmap is pending (R329) -/
  pend : Bool
  lease : Nat
  deriving DecidableEq, Repr

/-- A target with an access table (R334). -/
inductive Target where
  /-- home controller: die pair, local stack, logical channel -/
  | home (die stack chan : Nat)
  | port (die tile : Nat)
  | lattice (die : Nat)
  /-- a system register block that has no target of its own among these, by its base address (R321) -/
  | block (base : Nat)
  deriving DecidableEq, Repr

/-- A written entry of access tables: one target, or every home controller. -/
structure AccessRow where
  target : Option Target
  master : Nat
  w : Bool
  r : Bool
  deriving DecidableEq, Repr

/-- An allotted lattice region (R302, R303); owner: the launch of a private region. -/
structure Region where
  num : Nat
  name : Nat
  type : Nat
  cells : Nat
  base : Nat
  graph : Nat
  inst : Nat
  owner : Option Nat
  deriving DecidableEq, Repr

/-- A cell of a replica whose value is not the bottom of its type (R306). -/
structure LatCell where
  die : Nat
  region : Nat
  idx : Nat
  val : BitVec 512
  deriving DecidableEq, Repr

/-- A cell on its way from one replica to another (R308). -/
structure Exchange where
  src : Nat
  dst : Nat
  region : Nat
  idx : Nat
  val : BitVec 512
  deriving DecidableEq, Repr

/-! ### The scheduler -/

/-- QCFG, QRING, QCOMP and DBL of a queue, its PKB bit, and the scheduler's account of it (R338 to R341, R355). -/
structure Queue where
  q : Nat
  cfg : Word64
  ring : Word64
  comp : Word64
  seq : Word32
  tail : BitVec 16
  thaw : Bool
  kicked : Bool
  /-- the scheduler has cleared the PKB bit and not yet read DBL (R341) -/
  reading : Bool
  lseq : Word32
  adm : BitVec 16
  frozen : Bool
  /-- completion records written -/
  written : Nat
  deriving DecidableEq, Repr

/-- Where an admitted launch stands. -/
inductive LaunchAt where
  | waiting
  /-- DISPATCH is journaled, STARTED is not -/
  | dispatched (gang : Nat)
  | running (gang : Nat)
  | saved (gang : Nat)
  /-- it has completed during a take-over; its end is held (R361) -/
  | ended
  deriving DecidableEq, Repr

/-- An admitted launch (R339). -/
structure Launch where
  num : Nat
  q : Nat
  entry : Nat
  cookie : Word64
  patch : Nat
  graph : Nat
  inst : Nat
  node : Nat
  aff : Nat
  at' : LaunchAt
  /-- the collective tag and restartability of its node, once dispatched (R256, R391) -/
  tag : Nat
  restartable : Bool
  deriving DecidableEq, Repr

/-- A completion to be recorded (R354). -/
structure Completion where
  q : Nat
  entry : Nat
  cookie : Word64
  time : Nat
  cause : Nat
  forced : Bool
  status : Nat
  deriving DecidableEq, Repr

/-- A completion during a take-over, held for the standby, and the launch that has completed; none where the record names an
entry that was not admitted (R341, R361). -/
structure Held where
  record : Completion
  launch : Option Launch
  deriving DecidableEq, Repr

/-- A journal record (R358). -/
structure JournalRec where
  jseq : Nat
  arg : Nat
  seq : Nat
  entry : Nat
  queue : Nat
  status : Nat
  type : Nat
  deriving DecidableEq, Repr

/-- A saved gang: what its slabs hold (R373), as the records they were written from (log entry 11). -/
structure SavedGang where
  /-- the queue of its launch -/
  q : Nat
  gang : Gang
  seats : List Seat
  /-- kept for the host to read, never resumed (R372) -/
  failed : Bool
  deriving DecidableEq, Repr

/-- What the scheduler is told and no register holds. -/
inductive Notice where
  /-- an exchange refused by the access table of a replica: unit, partner, chorus time (R335) -/
  | refused (unit partner time : Nat)
  /-- a bus error: master and physical address (R335) -/
  | busError (master pa : Nat)
  /-- a throttle notice of a seat: its THRSTAT (R399) -/
  | throttle (seat : Nat) (thrstat : Word64)
  /-- an input of the chorus switch whose watermark stands still while messages wait on it: input, chorus time (R416) -/
  | stall (input time : Nat)
  deriving DecidableEq, Repr

/-- A snapshot of the queues: the address that ARG of its CHECKPOINT names, and the JSEQ of that record (R359). -/
structure Snapshot where
  arg : Nat
  jseq : Nat
  queues : List Queue
  launches : List Launch
  tokens : List (Nat × Nat × Nat)
  finished : List (Nat × Nat × Nat)
  ended : List (Nat × Nat × Nat)
  deriving DecidableEq, Repr

/-- What a page that was unmapped held, until a new mapping takes it: bytes that are not zero and poisoned sectors, by virtual
address, and by virtual address div 64 (R329, R332). -/
structure Away where
  va : Nat
  len : Nat
  bytes : List Host.Cell
  poison : List Nat
  deriving DecidableEq, Repr

/-! ### Hubs, margin, power, links -/

/-- A DMA window (R408). -/
structure Window where
  hbase : Word64
  wlen : Word64
  woff : Word64
  deriving DecidableEq, Repr

/-- A record of the margin tables with its log ring (R385). -/
structure MarginRec where
  /-- die * 72 + cluster * 9 + slot -/
  num : Nat
  exec : Word64
  repl : Word32
  sknk : Word32
  drift : Int
  trim : Int
  ceil : Int
  freq : Nat
  win : Nat
  eccn : Nat
  subst : Bool
  fenced : Bool
  /-- the log ring, latest first, at most 1,024 -/
  log : List Int
  deriving DecidableEq, Repr

/-- A spare channel of a stack in use: copying, or switched (R388). -/
structure SpareUse where
  stack : Nat
  chan : Nat
  switched : Bool
  deriving DecidableEq, Repr

/-- The state of a link that differs from a sound one (R309, R388). -/
structure LinkState where
  link : Link
  down : Bool
  spared : Nat
  half : Bool
  /-- a retrain is under way, and the chorus time of its end -/
  retraining : Bool
  back : Nat
  deriving DecidableEq, Repr

/-- The clock stretch of a stacked pair (R395): its heavier cluster, steps of 2.5 per cent, the chorus time since when
the difference has been above 10 per cent, and that of the last step. -/
structure Stretch where
  die : Nat
  pair : Nat
  upper : Bool
  steps : Nat
  since : Option Nat
  stepped : Nat
  deriving DecidableEq, Repr

/-- The housekeeping core's account of power and heat (R398, R401). -/
structure Power where
  /-- throttle level L of each die pair -/
  level : Vector Nat 8
  /-- of the eight die pairs and the two hubs -/
  celsius : Vector Nat 10
  /-- chorus time of the last rise -/
  rose : Option Nat
  /-- chorus time since when the power has been below 3,400 W -/
  lowSince : Option Nat
  stretch : List Stretch
  /-- gangs are being saved for heat, and stay saved until every die is below 95 degrees -/
  hot : Bool
  deriving DecidableEq, Repr

/-- The device (INVENTORY.md, State). -/
structure State where
  booted : Bool
  portOpen : Bool
  moduleOn : Bool
  powered : Bool
  chorus : Nat
  /-- DIEPRES (R21, R342) -/
  diepres : BitVec 8
  /-- device memory and host memory, bytes that are not zero by physical address and by host address, rising (R318, R408) -/
  hbm : List Host.Cell
  hostMem : List Host.Cell
  /-- poisoned HBM sectors by physical address div 64, rising (R331) -/
  hbmPoison : List Nat
  spares : List SpareUse
  /-- the memory processor's page table, and the translation caches, most recently used first -/
  pages : List Mapping
  caches : Vector (List Mapping) 8
  /-- contents of unmapped pages on their way to a new place, oldest first (R332) -/
  away : List Away
  /-- translations that the host-side agent holds, each with its lease (R332) -/
  hostMaps : List Mapping
  access : List AccessRow
  lxPeriod : Vector Word64 8
  lxRound : Vector (Vector Word64 8) 8
  phase : Vector Word64 8
  regions : List Region
  cells : List LatCell
  /-- change marks: die, round, region, cell (R308) -/
  marks : List (Nat × Nat × Nat × Nat)
  cellPoison : List (Nat × Nat × Nat)
  exchange : List Exchange
  gangs : List Gang
  seats : List Seat
  /-- tiles whose record differs from the one at module reset, by rising number -/
  tiles : List Tile
  msgs : List Msg
  replies : List Reply
  reports : List Report
  /-- the chorus switch: input 0 is the device's own injection, 1 to 12 the peer ports -/
  inputs : Vector SwitchInput 13
  ordSeq : Word32
  floor : Nat
  /-- chorus time of the last ordered flit or beacon of each peer port (R414) -/
  portSent : Vector Nat 12
  peerOut : List PeerSend
  podid : Word64
  chparent : Word64
  chstat : Word64
  rmap : Vector (BitVec 4096) 12
  wins : Vector Window 16
  queues : List Queue
  launches : List Launch
  /-- the queue served last, by priority (R351) -/
  served : Vector Nat 8
  /-- nodes completed OK, nodes completed with any status, and error tokens held, by graph, instance and node (R302, R349,
  R355) -/
  finished : List (Nat × Nat × Nat)
  ended : List (Nat × Nat × Nat)
  tokens : List (Nat × Nat × Nat)
  /-- instances, by graph and number, whose graph binary has been checked, and the outcome (R348) -/
  checked : List ((Nat × Nat) × Bool)
  saved : List SavedGang
  /-- saved gangs that have been resumed, until they end or are saved again: their slabs keep the save (R359, R373) -/
  resumed : List SavedGang
  /-- launches as they were admitted, with the JSEQ of the DOORBELL record, while the journal holds that record (R358, R360) -/
  admitted : List (Nat × Launch)
  /-- the journal's copies in hub 0, in HBM, and in boot flash for what was written while the die pairs had no power (R358,
  R378) -/
  journal : List JournalRec
  mirror : List JournalRec
  flash : List JournalRec
  jseq : Nat
  /-- the latest snapshots, oldest first, at most two (R359) -/
  snapshots : List Snapshot
  /-- the active scheduler runs; false from its trap to the end of the take-over (R360) -/
  schedUp : Bool
  held : List Held
  /-- completions that are journaled and not yet written to their ring, oldest first (R354, R362) -/
  unwritten : List Completion
  /-- what the scheduler has been told, oldest first -/
  notices : List Notice
  /-- flits sent to the host, oldest first -/
  hostOut : List Flit
  margin : List MarginRec
  links : List LinkState
  power : Power
  cursor : Option Cursor
  /-- which agent moves next and when (log entry 3) -/
  agenda : List (Nat × Instr)
  /-- where the round of the seats' executions stands (log entry 3) -/
  round : Nat
  /-- index of the next free value (log entry 9) -/
  free : Nat
  serial : Nat
  deriving DecidableEq, Repr

/-! ### Module reset (R6, R402) -/

def SwitchInput.reset : SwitchInput := { queue := [], mark := 0, advanced := 0, up := true }

def Power.reset : Power :=
  { level := Vector.replicate 8 0, celsius := Vector.replicate 10 0, rose := none, lowSince := none, stretch := []
    hot := false }

/-- The exchange schedule at reset (R307). -/
def lxRoundReset : Vector Word64 8 :=
  #v[0x67452301, 0x28054761032, 0x50032107654, 0xFFFFFFFF, 0xFFFFFFFF, 0xFFFFFFFF, 0xFFFFFFFF, 0xFFFFFFFF]

/-- The device at the end of module reset, before the housekeeping core brings it up (R402). Registers for which the
spec gives no reset value are zero (log entry 2). -/
def State.reset : State where
  booted := false
  portOpen := false
  moduleOn := true
  powered := true
  chorus := 0
  diepres := 0
  hbm := []
  hostMem := []
  hbmPoison := []
  spares := []
  pages := []
  caches := Vector.replicate 8 []
  away := []
  hostMaps := []
  access := []
  lxPeriod := Vector.replicate 8 0x307D0
  lxRound := Vector.replicate 8 lxRoundReset
  phase := Vector.replicate 8 0x76543210
  regions := []
  cells := []
  marks := []
  cellPoison := []
  exchange := []
  gangs := []
  seats := []
  tiles := []
  msgs := []
  replies := []
  reports := []
  inputs := Vector.replicate 13 SwitchInput.reset
  ordSeq := 0
  floor := 0
  portSent := Vector.replicate 12 0
  peerOut := []
  podid := 0
  chparent := 0x10
  chstat := 0
  rmap := Vector.replicate 12 0
  wins := Vector.replicate 16 { hbase := 0, wlen := 0, woff := 0 }
  queues := []
  launches := []
  served := Vector.replicate 8 127
  finished := []
  ended := []
  tokens := []
  checked := []
  saved := []
  resumed := []
  admitted := []
  journal := []
  mirror := []
  flash := []
  jseq := 0
  snapshots := []
  schedUp := false
  held := []
  unwritten := []
  notices := []
  hostOut := []
  margin := []
  links := []
  power := Power.reset
  cursor := none
  agenda := []
  round := 0
  free := 0
  serial := 0

end Sys2Proof.Machine
end

