-- ==== Sys2Proof/Machine/Ops.lean ====
section
/-! DEFINITION. The named operations over memory, registers and landings, the common frame of an operation that
executes in a seat or at a sequencer, and taking a trap. -/

namespace Sys2Proof.Machine

/-! ### Memory as a canonical list of cells -/

namespace Mem

/-- The byte at an address; an unlisted address reads zero (pads R158; device memory log entry 1). -/
def byte : List Host.Cell → Nat → Byte
  | [], _ => 0
  | (k, b) :: r, a => if k = a then b else byte r a

/-- Write one byte and keep the list rising and free of zeros. -/
def put : List Host.Cell → Nat → Byte → List Host.Cell
  | [], a, v => if v = 0 then [] else [(a, v)]
  | (k, b) :: r, a, v =>
    if a < k then (if v = 0 then (k, b) :: r else (a, v) :: (k, b) :: r)
    else if a = k then (if v = 0 then r else (a, v) :: r)
    else (k, b) :: put r a v

/-- Addresses rise from lo on and no byte is zero. -/
def wfFrom : Nat → List Host.Cell → Bool
  | _, [] => true
  | lo, (k, b) :: r => decide (lo ≤ k) && (b != 0) && wfFrom (k + 1) r

/-- The canonical form. -/
def wf (m : List Host.Cell) : Bool := wfFrom 0 m

/-- n bytes from an address, lowest first. -/
def bytes (m : List Host.Cell) (a n : Nat) : List Byte := (List.range n).map fun i => byte m (a + i)

/-- Bytes from an address on. -/
def putAll : List Host.Cell → Nat → List Byte → List Host.Cell
  | m, _, [] => m
  | m, a, b :: r => putAll (put m a b) (a + 1) r

end Mem

/-- Little-endian value of bytes (R3). -/
def leNat : List Byte → Nat
  | [] => 0
  | b :: r => b.toNat + 256 * leNat r

/-- n little-endian bytes of a value (R3). -/
def leBytes : Nat → Nat → List Byte
  | 0, _ => []
  | n + 1, v => BitVec.ofNat 8 v :: leBytes n (v / 256)

/-- A set of numbers as a rising list. -/
def insertNat (a : Nat) : List Nat → List Nat
  | [] => [a]
  | k :: r => if a < k then a :: k :: r else if a = k then k :: r else k :: insertNat a r

/-! ### Seats and gangs of the state -/

def State.seat? (s : State) (k : Nat) : Option Seat := s.seats.find? (·.id == k)

/-- The seat takes the place of the one with its number. -/
def State.putSeat (s : State) (x : Seat) : State :=
  { s with seats := s.seats.map fun y => if y.id == x.id then x else y }

/-- A seat's change, where the seat exists. -/
def State.setSeat (s : State) (k : Nat) (f : Seat → Seat) : State :=
  match s.seat? k with
  | some x => s.putSeat (f x)
  | none => s

def State.gang? (s : State) (g : Nat) : Option Gang := s.gangs.find? (·.id == g)

def State.putGang (s : State) (x : Gang) : State :=
  { s with gangs := s.gangs.map fun y => if y.id == x.id then x else y }

/-- A tile's record as module reset leaves it, at nominal trim and clock (R247, R382, R384; log entry 2). -/
def Tile.fresh (i : Nat) : Tile :=
  { id := i, holder := none, last := 3, skink := 0, timing := 0, sideLog := [], window := 0, late := 0, execs := 0
    eft := false
    fencing := false, scrubRow := 0, parErr := [], stray := [], trim := 0, freq := 2500, win := 0, repl := 0, sknk := 0, ecc := 0 }

def State.tile (s : State) (i : Nat) : Tile := (s.tiles.find? (·.id == i)).getD (Tile.fresh i)

def insertTile (t : Tile) : List Tile → List Tile
  | [] => [t]
  | x :: r => if t.id < x.id then t :: x :: r else if t.id = x.id then t :: r else x :: insertTile t r

def State.putTile (s : State) (t : Tile) : State := { s with tiles := insertTile t s.tiles }

/-- Die pair, tile and seat number of a master id (R333). -/
def Seat.die (x : Seat) : Nat := x.id / 256
def Seat.tile (x : Seat) : Nat := x.id / 4 % 64
def Seat.num (x : Seat) : Nat := x.id % 4
/-- Cluster and slot of the seat's tile (R16). -/
def Seat.cluster (x : Seat) : Nat := x.tile / 8
def Seat.slotNo (x : Seat) : Nat := x.tile % 8

/-! ### Suppression, loop indices (R65, R103, R104) -/

/-- Work index of a loop level as the member sees it (R103). -/
def Seat.levelIndex (x : Seat) (l : LoopLevel) : Nat :=
  match l.kind with
  | 1 => l.index * x.cfg.c + x.m
  | 2 => l.index * x.cfg.d + x.e
  | _ => l.index

/-- The loop levels of the execution under way. -/
def Seat.levels (x : Seat) : List LoopLevel :=
  match x.cur with
  | some it => it.loops
  | none => []

/-- Ik; zero for a level that is not active (R102, R143). Level 0 is outermost. -/
def Seat.loopIndex (x : Seat) (k : Nat) : Nat :=
  match x.levels.reverse[k]? with
  | some l => x.levelIndex l
  | none => 0

def Seat.skipping (x : Seat) : Bool := x.skipLevel != 0

/-- A spatial level hands this member no work in this round (R104). -/
def Seat.discarding (x : Seat) : Bool := x.levels.any fun l => l.kind != 0 && l.trips ≤ x.levelIndex l

/-- Effects are suppressed (R65, R104). -/
def Seat.suppressed (x : Seat) : Bool := x.skipping || x.discarding

/-- The top of the mask stack, MT (R182). -/
def Seat.mt (x : Seat) : Word64 := x.regs.mask.getD (x.regs.depth - 1) 0

/-! ### Landings (R68, R69) -/

/-- Landings stand in the order they take effect in: by cycle, then by slot, then by issue: of two results of one slot that
land in one register in one cycle the one issued later is kept (R68; DESIGN CHOICE, log entry 26). -/
def insertLanding (l : Landing) : List Landing → List Landing
  | [] => [l]
  | h :: r => if l.due < h.due ∨ (l.due = h.due ∧ l.slot < h.slot) then l :: h :: r else h :: insertLanding l r

/-- The effect comes lat issue cycles after the open execution's cycle. -/
def Seat.land (x : Seat) (slot lat : Nat) (eff : Land) : Seat :=
  let l : Landing :=
    { due := x.cycle + lat, slot := slot, pc := (x.cur.map (·.pc)).getD 0, issued := x.cycle, eff := eff }
  { x with landings := insertLanding l x.landings }

/-- A scalar result; a write to S0 is discarded (R142). -/
def Seat.landS (x : Seat) (slot lat d : Nat) (v : Word64) : Seat :=
  if d = 0 then x else x.land slot lat (.sReg d v)

/-- A predicate result; a write to P0 is discarded (R142). -/
def Seat.landP (x : Seat) (slot d : Nat) (v : Bool) : Seat :=
  if d = 0 then x else x.land slot 1 (.pReg d v)

/-- The bits of V[d] under the mask (R181, R200). -/
def Seat.landV (x : Seat) (slot lat d : Nat) (v mask : VReg) : Seat := x.land slot lat (.vReg d v mask)

/-- What a landing writes, through the entry of a remote read. -/
def Seat.target (x : Seat) (l : Landing) : Land :=
  match l.eff with
  | .remote e =>
    match x.remotes.find? (·.id == e) with
    | some r => r.dst
    | none => .remote e
  | eff => eff

/-- With CHKCTL.EN = 1, a read that a result on its way concerns raises UNDERSIZED_STALL and names the producer: of several,
the one whose result lands first (R69; DESIGN CHOICE, log entry 26). -/
def Seat.checkLanded (x : Seat) (hit : Land → Bool) : Except TrapInfo Unit :=
  if x.sys.chk then
    match x.landings.find? fun l => hit (x.target l) with
    | some l => .error { cause := 0x05, addr := 0, ppc := l.pc, pslot := l.slot }
    | none => .ok ()
  else .ok ()

/-- The same for a mirror of a G or H register; the producer stands in the UNI slot (R116, R140). -/
def Seat.checkMirror (x : Seat) (pend : List (Nat × Nat)) (n : Nat) : Except TrapInfo Unit :=
  if x.sys.chk then
    match pend.find? (·.1 == n) with
    | some p => .error { cause := 0x05, addr := 0, ppc := p.2, pslot := 1 }
    | none => .ok ()
  else .ok ()

/-! ### Reads -/

/-- S0 reads as zero (R142). -/
def Seat.sVal (x : Seat) (n : Nat) : Word64 := if n = 0 then 0 else x.regs.s.getD n 0
/-- P0 reads as true (R142). -/
def Seat.pVal (x : Seat) (n : Nat) : Bool := n == 0 || x.regs.p.getLsbD n
def Seat.vVal (x : Seat) (n : Nat) : VReg := x.regs.v.getD n 0

/-- G0 reads as zero: it is zero at dispatch and its writes are discarded (R82, R133). -/
def Seat.mirrorG (x : Seat) (n : Nat) : Word64 := if n = 0 then 0 else (x.cur.map fun it => it.g.getD n 0).getD 0
def Seat.mirrorH (x : Seat) (n : Nat) : HReg := (x.cur.map fun it => it.h.getD n 0).getD 0

/-- The value of a scalar source of a tile slot, without the check of R69 (R82, R143). -/
def Seat.srcVal (x : Seat) (f : RField) : Word64 :=
  let n := f.toNat
  if n < 32 then x.sVal n
  else if n < 40 then x.mirrorG (n - 32)
  else if n < 46 then BitVec.ofNat 64 (x.loopIndex (n - 40))
  else if n = 46 then BitVec.ofNat 64 x.die
  else BitVec.ofNat 64 x.tile

/-- A read of a scalar source (R69, R143). -/
def Seat.src (x : Seat) (f : RField) : Except TrapInfo Word64 := do
  let n := f.toNat
  if n = 0 then
    return 0
  else if n < 32 then
    x.checkLanded fun e => match e with | .sReg d _ => d == n | _ => false
  else if n < 40 then
    x.checkMirror ((x.cur.map (·.pendG)).getD []) (n - 32)
  return x.srcVal f

/-- A read of a predicate register (R144). -/
def Seat.pred (x : Seat) (n : Nat) : Except TrapInfo Bool := do
  if n ≠ 0 then
    x.checkLanded fun e => match e with | .pReg d _ => d == n | _ => false
  return x.pVal n

/-- A read of a V register (R69). -/
def Seat.vsrc (x : Seat) (f : RField) : Except TrapInfo VReg := do
  x.checkLanded fun e => match e with | .vReg d _ _ => d == f.toNat | _ => false
  return x.vVal f.toNat

/-- A read of a shape register in the tile (R140). -/
def Seat.hsrc (x : Seat) (n : Nat) : Except TrapInfo HReg := do
  x.checkMirror ((x.cur.map (·.pendH)).getD []) n
  return x.mirrorH n

/-- The predicate field: bit 3 negates (R60). -/
def Seat.predField (x : Seat) (p : BitVec 4) : Except TrapInfo Bool := do
  let v ← x.pred (p.extractLsb' 0 3).toNat
  return v != p.getLsbD 3

/-- Field i of an H register (R138). -/
def hField (h : HReg) (i : Nat) : Word32 := h.extractLsb' (32 * i) 32

/-! ### The issue slot (R94) -/

/-- The seat may execute the bundle at its queue's head (R94). -/
def Seat.ready (x : Seat) : Bool :=
  x.run == .run && x.started &&
  (match x.queue with
    | .exec i :: _ => !i.blocking || x.go
    | _ => false)

/-- Priority, then the round after a seat number (R94). -/
def Seat.slotKey (x : Seat) (after : Nat) : Nat := x.prio * 4 + (3 - (x.num + 3 - after % 4) % 4)

/-- The ready seat of a tile that the slot passes to, with a seat left out (R94). -/
def State.candidate (s : State) (tile after : Nat) (but : Option Nat) : Option Seat :=
  (s.seats.filter fun y => y.id / 4 == tile && some y.id != but && y.ready).foldl
    (fun o y => match o with
      | none => some y
      | some b => if b.slotKey after < y.slotKey after then some y else o) none

/-- The seat that holds a tile's issue slot; one that has stopped, or is gone, holds it no more (R94). -/
def State.holder (s : State) (tile : Nat) : Option Nat :=
  (s.tile tile).holder.filter fun h => s.seats.any fun y => y.id == h && y.run == .run

/-- The number of the seat after which the round of a tile's seats starts: the one that gave up the slot last, or the one
that has stopped with it (R94). -/
def Tile.after (t : Tile) : Nat := match t.holder with | some h => h % 4 | none => t.last

/-- The slot goes to a seat, or to none; the monitor of the seat that had it starts again from zero (R94, R96). -/
def State.giveSlot (s : State) (tile : Nat) (k : Option Nat) : State :=
  let t := s.tile tile
  if t.holder = k then s
  else { s.putTile { t with holder := k, last := t.after } with
    seats := s.seats.map fun y => if some y.id == t.holder then { y with sys := { y.sys with monCount := 0 } } else y }

/-- The seat gives the slot to the seat that is next, or to none (R94). -/
def State.passSlot (s : State) (k : Nat) : State := s.giveSlot (k / 4) ((s.candidate (k / 4) (k % 4) (some k)).map (·.id))

/-- A seat that has stopped, in its place: the issue slot passes, where the seat had it (R94, R364). -/
def State.stopSeat (s : State) (x : Seat) : State :=
  if x.run != .run && s.holder (x.id / 4) == some x.id then (s.putSeat x).passSlot x.id else s.putSeat x

/-! ### Taking a trap (R363, R367) -/

/-- The delay part of a frame: TAKEN, REMAIN, TARGET, RPT (R367). -/
def frame2 (taken : Bool) (remain target rep : Nat) : Word64 :=
  BitVec.ofNat 64 ((if taken then 2 ^ 63 else 0) + remain % 4 * 2 ^ 61 + target % 2 ^ 24 * 2 ^ 32 + rep % 2 ^ 32)

/-- TRAPCAUSE without LEAD, which the stop of the gang decides (R364, R367). -/
def causeWord (handler seq async : Bool) (slot cause : Nat) : Word64 :=
  BitVec.ofNat 64 ((if handler then 2 ^ 15 else 0) + (if seq then 2 ^ 14 else 0) + (if async then 2 ^ 12 else 0)
    + slot % 8 * 2 ^ 8 + cause % 256)

/-- The frame of a trap raised by an operation of the execution it. opc: bundle of the originating operation. -/
def Item.frame (it : Item) (t : TrapInfo) (slot opc : Nat) (async : Bool) : Frame where
  cause := causeWord it.handler false async slot t.cause
  f0 := BitVec.ofNat 64 (opc % 2 ^ 24 * 2 ^ 32 + it.pc % 2 ^ 24)
  f1 := t.addr
  f2 := frame2 it.taken it.remain it.target it.rep
  f3 := BitVec.ofNat 64 (t.ppc % 2 ^ 24 * 2 ^ 8 + t.pslot % 8)

/-- The seat stops with a frame and reports to its sequencer; it gives up the issue slot, so its monitor counts from zero
again (R94, R96, R364). -/
def Seat.stopWith (x : Seat) (f : Frame) : Seat :=
  { x with sys := { x.sys with frame := f, monCount := 0 }, run := .trapped }

/-- A trap of kind F: no slot of the execution takes effect, so the seat stands as the execution found it (R363). -/
def Seat.trapF (base : Seat) (t : TrapInfo) (slot : Nat) : Seat :=
  match base.cur with
  | some it => base.stopWith (it.frame t slot it.pc false)
  | none => base

/-- No trap but a hold: the bundle waits through the hold line and is tried again (R159, R204, R228, R280). Code 0 is
no cause (R366). -/
def holdTile : TrapInfo := { cause := 0, addr := 0 }

/-- A hold whose end comes with issue cycles, which pass while it lasts (R159, R204). -/
def holdCycles : TrapInfo := { cause := 0, addr := 0, ppc := 2 }

/-- The hold of a seat whose quota of command entries is in use (R228). -/
def holdQuota : TrapInfo := { cause := 0, addr := 0, ppc := 1 }

/-- A trap of kind F in the open execution of a seat; a hold leaves the seat as the execution found it. -/
def State.takeTrap (s : State) (base : Seat) (t : TrapInfo) (slot : Nat) : State :=
  let held : Seat := { base with held := some (slot, t.ppc), cycle := if t.ppc = 2 then base.cycle + 1 else base.cycle }
  { (if t.cause = 0 then s.putSeat held else s.stopSeat (base.trapF t slot)) with cursor := none }

/-- An asynchronous cause waits for the seat's next execution: its frame without the stopping position (R363, R365).
-/
def Seat.latch (x : Seat) (cause slot opc : Nat) (addr : Word64) : Seat :=
  let f : Frame :=
    { cause := causeWord false false true slot cause, f0 := BitVec.ofNat 64 (opc % 2 ^ 24 * 2 ^ 32), f1 := addr
      f2 := 0, f3 := 0 }
  { x with sys := { x.sys with latched := x.sys.latched ++ [f] } }

/-! ### The frame of an operation that executes in a seat -/

/-- A trap that names an address (R367). -/
def trapAt (cause : Nat) (addr : Word64) : TrapInfo := { cause := cause, addr := addr }

/-- ILLEGAL_FIELD, SCRATCH_RANGE, ALIGN, OWNER, SCRATCH_ECC, FORMAT (R366). -/
def illegalField : TrapInfo := trapAt 0x02 0
def formatTrap : TrapInfo := trapAt 0x23 0

/-- What a meaning sees: the state, the seat as its reads see it, the seat as it stands, the slot. -/
structure Ctx where
  s : State
  base : Seat
  live : Seat
  slot : Nat
  deriving Repr

/-- The standing operation of the slot that executes. -/
def Ctx.standing (c : Ctx) : Standing := c.base.standing.getD c.slot { word := 0, lit := 0, bar := 0, acc := 0 }

/-- The step accumulator of the slot, signed (R61). -/
def Ctx.acc (c : Ctx) : Int := c.standing.acc.toInt

abbrev Out := Host.Outcome State Fault Refusal

/-- Arrive on retire, lat issue cycles after issue (R59). -/
def Seat.retire (x : Seat) (slot : Nat) (bar : BitVec 4) (r : BitVec 1) (lat : Option Nat) : Seat :=
  match lat with
  | some n => if r = 1 then x.land slot n (.arrive bar.toNat) else x
  | none => x

/-- An operation of a tile slot: suppressed in a skipping or discarding seat (R65, R104); its barrier index is checked
(R269, R271); then its predicate (R60); then the body, which answers the seat after it and the issue cycles until it
retires (none: it arrives by itself), or a trap. An operation whose predicate is false has no last result or access: with
A = 1 it retires and arrives one issue cycle after issue, whatever its latency (DESIGN CHOICE, log entry 32). -/
def tileOp (t : Tag) (body : Ctx → Except TrapInfo (Seat × Option Nat)) (s : State) : Out :=
  match s.cursor with
  | some (.seat k slot base) =>
    match s.seat? k with
    | none => .refused .noExecution
    | some live =>
      let c : Ctx := { s := s, base := base, live := live, slot := slot }
      if base.suppressed then .next s
      else if t.r = 1 ∧ base.sync.bars.length ≤ c.standing.bar.toNat then
        .next (s.takeTrap base { cause := 0x02, addr := 0 } slot)
      else
        match base.predField t.p with
        | .error e => .next (s.takeTrap base e slot)
        | .ok false => .next (s.putSeat (live.retire slot c.standing.bar t.r (some 1)))
        | .ok true =>
          match body c with
          | .error e => .next (s.takeTrap base e slot)
          | .ok (x, lat) => .next (s.putSeat (x.retire slot c.standing.bar t.r lat))
  | _ => .refused .noExecution

/-- NOP executes nothing (R80). -/
def execNop (_o : BitVec 1) (s : State) : Out := .next s

/-- A CTL operation that executes in the seat: no predicate and no arrival (R115, R273). -/
def seatOp (body : Ctx → Except TrapInfo Seat) (s : State) : Out :=
  tileOp { o := 1, r := 0, p := 0 } (fun c => do return (← body c, none)) s

/-! ### The frame of an operation that executes at the sequencer -/

/-- A sequencer trap stops the stream: every member gets the frame when the gang has stopped (R364, R367). -/
def Gang.trapSeq (base : Gang) (t : TrapInfo) (slot pc : Nat) : Gang :=
  let f2 := match base.delay with
    | some d => frame2 d.taken d.remain d.target base.rep
    | none => frame2 false 0 0 base.rep
  let f : Frame :=
    { cause := causeWord base.level true false slot t.cause ||| (0x2000 : Word64)
      f0 := BitVec.ofNat 64 (pc % 2 ^ 24 * 2 ^ 32 + pc % 2 ^ 24)
      f1 := t.addr
      f2 := f2
      f3 := BitVec.ofNat 64 (t.ppc % 2 ^ 24 * 2 ^ 8 + t.pslot % 8) }
  { base with seqTrap := some f }

/-- A read of the sequencer waits until its page is mapped, or is known not to be: then the trap is taken (R56, R141). -/
def Gang.awaitPage (base : Gang) (t : TrapInfo) (slot : Nat) : Gang :=
  { base with held := (base.trapSeq t slot base.pc).seqTrap.map fun f => (t.addr.toNat, f) }

/-- The first member of a gang, whose CHKCTL governs the sequencer (R116, R132): as it stands at the sequencer's read, though the
member may not have executed a SYSW that has been sent to it already (DESIGN CHOICE, log entry 32). -/
def State.checker (s : State) (g : Gang) : Bool :=
  match s.seats.find? fun x => x.gang == g.id && x.e == 0 && x.m == 0 with
  | some x => x.sys.chk
  | none => false

structure SCtx where
  s : State
  base : Gang
  live : Gang
  slot : Nat
  chk : Bool
  deriving Repr

/-- An operation at the sequencer (R117): the body answers the gang after it, or a trap of kind F; cause 0 is a read of device
memory that waits for the page of the address (R141). -/
def seqOp (body : SCtx → Except TrapInfo Gang) (s : State) : Out :=
  match s.cursor with
  | some (.seqr g slot base) =>
    match s.gang? g with
    | none => .refused .noExecution
    | some live =>
      match body { s := s, base := base, live := live, slot := slot, chk := s.checker base } with
      | .error e =>
        let x := if e.cause = 0 then base.awaitPage (trapAt 0x10 e.addr) slot else base.trapSeq e slot base.pc
        .next { (s.putGang x) with cursor := none }
      | .ok x => .next (s.putGang x)
  | _ => .refused .noExecution

/-- Results at the sequencer in the order they take effect in (R68, R116). -/
def insertSeq (l : SeqLanding) : List SeqLanding → List SeqLanding
  | [] => [l]
  | h :: r => if l.due < h.due ∨ (l.due = h.due ∧ l.slot < h.slot) then l :: h :: r else h :: insertSeq l r

def Gang.land (x : Gang) (slot lat : Nat) (eff : SeqLand) : Gang :=
  let l : SeqLanding := { due := x.cycle + lat, slot := slot, pc := x.pc, eff := eff }
  { x with landings := insertSeq l x.landings }

/-- A write to G0 is discarded (R133). -/
def Gang.landG (x : Gang) (slot lat d : Nat) (v : Word64) : Gang :=
  if d = 0 then x else x.land slot lat (.gReg d v)

/-- Level k of the loop stack at the sequencer: first work index of a spatial round (R103). -/
def Gang.loopIndex (x : Gang) (k : Nat) : Nat :=
  match x.loops.reverse[k]? with
  | some l => match l.kind with
    | 1 => l.index * x.c
    | 2 => l.index * x.d
    | _ => l.index
  | none => 0

/-- The check of R116. -/
def SCtx.checkLanded (c : SCtx) (hit : SeqLand → Bool) : Except TrapInfo Unit :=
  if c.chk then
    match c.base.landings.find? fun l => hit l.eff with
    | some l => .error { cause := 0x05, addr := 0, ppc := l.pc, pslot := l.slot }
    | none => .ok ()
  else .ok ()

/-- A source of the UNI slot or of a branch (R83, R115). -/
def SCtx.src (c : SCtx) (f : RField) : Except TrapInfo Word64 := do
  let n := f.toNat
  if n = 0 then
    return 0
  else if n < 32 then
    c.checkLanded fun e => match e with | .gReg d _ => d == n | _ => false
    return c.base.g.getD n 0
  else
    return BitVec.ofNat 64 (c.base.loopIndex (n - 40))

/-- A shape register at the sequencer (R140). -/
def SCtx.hsrc (c : SCtx) (n : Nat) : Except TrapInfo HReg := do
  c.checkLanded fun e => match e with | .hReg d _ => d == n | .hField d _ _ => d == n | _ => false
  return c.base.h.getD n 0

/-- The vote register (R85, R106). -/
def SCtx.voteVal (c : SCtx) : Except TrapInfo Word64 := do
  c.checkLanded fun e => match e with | .vote _ => true | _ => false
  return c.base.vote

/-- One result of the sequencer takes effect. -/
def Gang.apply (x : Gang) (l : SeqLanding) : Gang :=
  match l.eff with
  | .gReg d v => { x with g := x.g.setIfInBounds d v }
  | .hReg d v => { x with h := x.h.setIfInBounds d v }
  | .hField d f v =>
    let h := x.h.getD d 0
    let m : HReg := (BitVec.allOnes 32).setWidth 512 <<< (32 * f)
    { x with h := x.h.setIfInBounds d ((h &&& ~~~m) ||| ((v.setWidth 512) <<< (32 * f))) }
  | .vote v => { x with vote := v }

/-- Every result due by the sequencer's present cycle takes effect (R116). -/
def Gang.settle (x : Gang) : Gang :=
  let due := x.landings.filter fun l => l.due ≤ x.cycle
  due.foldl Gang.apply { x with landings := x.landings.filter fun l => x.cycle < l.due }

/-- Stops that end the gang, which a handler does not hold off (R96, R330, R356, R370). -/
def stopEnds : StopWhy → Bool
  | .monitor | .cancel | .kill => true
  | _ => false

end Sys2Proof.Machine
end

