-- ==== Sys2Proof/Machine/Flags.lean ====
section
/-! DEFINITION. Conditions and predicate functions (R85, R149). The part keeps no status flags (R29, R181): what other
machines derive from flags, this one derives from two operands. -/

namespace Sys2Proof.Machine

/-- A condition on two 64-bit values (R85). -/
def cond (cc : Nat) (x y : Word64) : Bool :=
  match cc with
  | 0 => x == y
  | 1 => x != y
  | 2 => x.slt y
  | 3 => !x.slt y
  | 4 => x.ult y
  | 5 => !x.ult y
  | _ => true

/-- The functions of PLOG (R149). -/
def plogFn (fn : Nat) (a b : Bool) : Bool :=
  match fn with
  | 0 => a && b
  | 1 => a || b
  | 2 => a != b
  | 3 => a && !b
  | 4 => a || !b
  | 5 => !(a && b)
  | 6 => !(a || b)
  | _ => a == b

/-- A condition on two exact integers of an element (R197): LT and GE signed, LTU and GEU unsigned. -/
def condInt (cc : Nat) (w x y : Nat) : Bool :=
  match cc with
  | 0 => x == y
  | 1 => x != y
  | 2 => signExtend w x < signExtend w y
  | 3 => signExtend w y ≤ signExtend w x
  | 4 => x < y
  | _ => y ≤ x

/-- A condition on two values of a float type (R46, R197). -/
def condFloat (cc : Nat) (x y : Ext) : Bool :=
  let un := x.isNan || y.isNan
  match cc with
  | 0 => Ext.eq x y
  | 1 => !Ext.eq x y
  | 2 => !un && Ext.lt x y
  | 3 => !un && !Ext.lt x y
  | 4 => un || Ext.lt x y
  | _ => un || !Ext.lt x y

/-- Bits [127:64] of a product, signed (m = 0) or unsigned (R133, R146). -/
def mulHigh (m : BitVec 1) (x y : Word64) : Word64 :=
  if m = 1 then BitVec.ofNat 64 (x.toNat * y.toNat / 2 ^ 64)
  else BitVec.ofInt 64 (x.toInt * y.toInt / 2 ^ 64)

/-- Shift amounts use six bits (R133, R146). -/
def shiftAmount (y : Word64) : Nat := y.toNat % 64

def minSigned (x y : Word64) : Word64 := if x.sle y then x else y
def maxSigned (x y : Word64) : Word64 := if x.sle y then y else x
def minUnsigned (x y : Word64) : Word64 := if x.ule y then x else y
def maxUnsigned (x y : Word64) : Word64 := if x.ule y then y else x

end Sys2Proof.Machine
end

