-- ==== Sys2Proof/Machine/Operands.lean ====
section
/-! DEFINITION. Operand forms: immediates, branch targets, effective addresses of the memory-with-step family, control
and signal words (R61, R119, R134, R147, R169, R172, R209, R234, R274). -/

namespace Sys2Proof.Machine

/-- imm := the literal sign-extended if there is one, else imm7 sign-extended (R134, R147). -/
def immediate (imm : BitVec 7) (lit : Option Word32) : Word64 :=
  match lit with
  | some l => l.signExtend 64
  | none => imm.signExtend 64

/-- The target of a branch or handler, before any check (R119). -/
def branchTarget (pc : Nat) (disp : BitVec 7) (lit : Option Word32) : Int :=
  match lit with
  | some l => (l.toNat % 2 ^ 24 : Nat)
  | none => (pc : Int) + disp.toInt

/-- A target as the sequencer holds it, in 64 bits, as a frame's ADDR reports it: a negative number, and every number of
2^24 or more, lies outside every bundle map (R120, R368). -/
def targetNat (t : Int) : Nat := if 0 ≤ t then t.toNat else (BitVec.ofInt 64 t).toNat

/-- A counter value: literal, register, or imm7 unsigned (R275). -/
def counterValue (imm : BitVec 7) (lit : Option Word32) (a : RField) (v : Word64) : Word32 :=
  match lit with
  | some l => l
  | none => if a = 0 then imm.setWidth 32 else v.setWidth 32

/-- A count: register or imm7 unsigned (R276, R277). -/
def countValue (imm : BitVec 7) (a : RField) (v : Word64) : Word32 :=
  if a = 0 then imm.setWidth 32 else v.setWidth 32

/-- Bits of an access size (R61). -/
def adrSize (sz : BitVec 2) : Nat := 2 ^ sz.toNat
def vlsSize (sz : BitVec 2) : Nat := 64 * 2 ^ sz.toNat

/-- ea := S[base] + offset + acc, with S[base] as a signed number; its 64 bits. A sum below zero is out of range by R155,
since its 64 bits are not below 2^19 (R8, R61; DEDUCED, log entry 27). -/
def eaOf (base : Word64) (off : Int) (acc : Int) : Word64 := base + BitVec.ofInt 64 (off + acc)

/-- The offset of the plain form (R61). -/
def plainOffset (lit : Option Word32) : Int :=
  match lit with
  | some l => l.toInt
  | none => 0

/-- Landing distance and offset of LDR, AMOR and VLDR (R169). -/
def landDist (l : Word32) : Nat := (l.extractLsb' 26 6).toNat
def landOffset (l : Word32) : Int := (l.extractLsb' 0 26).toInt

/-- Stride and offset of VLDS and VSTS (R172). -/
def strideOf (l : Word32) : Int := (l.extractLsb' 20 12).toInt
def strideOffset (l : Word32) : Int := (l.extractLsb' 0 20).toInt

/-- ASTEP and BSTEP of a streaming operation (R209). -/
def aStep (lit : Option Word32) : Int := match lit with | some l => (l.extractLsb' 0 16).toInt | none => 0
def bStep (lit : Option Word32) : Int := match lit with | some l => (l.extractLsb' 16 16).toInt | none => 0

/-- The signal word (R274). -/
structure Signal where
  rel : Bool
  scope : Nat
  didx : Nat
  midx : Nat
  rm : Bool
  deriving DecidableEq, Repr

def signalWord (lit : Option Word32) : Signal :=
  let l := lit.getD 0
  { rel := l.getLsbD 27, scope := (l.extractLsb' 24 3).toNat, didx := (l.extractLsb' 20 4).toNat
    midx := (l.extractLsb' 14 6).toNat, rm := l.getLsbD 13 }

/-- The copy control word (R234). -/
structure Control where
  sig : Bool
  rm : Bool
  sem : Nat
  didx : Nat
  midx : Nat
  bc : Bool
  bix : Nat
  sub : Nat
  deriving DecidableEq, Repr

def controlWord (l : Word32) : Control :=
  { sig := l.getLsbD 31, rm := l.getLsbD 30, sem := (l.extractLsb' 24 6).toNat, didx := (l.extractLsb' 20 4).toNat
    midx := (l.extractLsb' 14 6).toNat, bc := l.getLsbD 13, bix := (l.extractLsb' 9 4).toNat
    sub := (l.extractLsb' 6 3).toNat }

/-- step × size of a standing operation in R62: the bytes, or the issues, that its accumulator moves by at each
re-issue. -/
def stepOf (sl : Slot) (w : Word32) : Int :=
  let op := (w.extractLsb' 23 6).toNat
  let step := (w.extractLsb' 6 5).toInt
  let sz := w.extractLsb' 4 2
  match sl with
  | .adr =>
    if 0x15 ≤ op ∧ op ≤ 0x18 then step * adrSize sz
    else if 0x1D ≤ op ∧ op ≤ 0x21 then step * 8
    else 0
  | .vls =>
    if op = 0x01 ∨ op = 0x02 ∨ op = 0x03 ∨ op = 0x04 ∨ op = 0x07 ∨ op = 0x08 then step * vlsSize sz
    else if op = 0x0B then step * 128
    else 0
  | .exp => if op = 0x02 then step * 128 else 0
  | .mat => if 0x01 ≤ op ∧ op ≤ 0x05 then 1 else 0
  | _ => 0

end Sys2Proof.Machine
end

