-- ==== Sys2Proof/Machine/Adr.lean ====
section
/-! DEFINITION. ADR computation on S and P registers and TADR (R142 to R153). -/

namespace Sys2Proof.Machine

/-- A three-register operation (R145, R146). -/
def adrArith (t : Tag) (d a b : RField) (lat : Nat) (f : Word64 → Word64 → Word64) (s : State) : Out :=
  tileOp t (fun c => do
    let x ← c.base.src a
    let y ← c.base.src b
    return (c.live.landS c.slot lat d.toNat (f x y), some lat)) s

def execAdrAdd (t : Tag) (d a b : RField) (s : State) : Out := adrArith t d a b 1 (· + ·) s
def execAdrSub (t : Tag) (d a b : RField) (s : State) : Out := adrArith t d a b 1 (· - ·) s
def execAdrAnd (t : Tag) (d a b : RField) (s : State) : Out := adrArith t d a b 1 (· &&& ·) s
def execAdrOr (t : Tag) (d a b : RField) (s : State) : Out := adrArith t d a b 1 (· ||| ·) s
def execAdrXor (t : Tag) (d a b : RField) (s : State) : Out := adrArith t d a b 1 (· ^^^ ·) s
def execAdrShl (t : Tag) (d a b : RField) (s : State) : Out :=
  adrArith t d a b 1 (fun x y => x <<< shiftAmount y) s
def execAdrShr (t : Tag) (d a b : RField) (s : State) : Out :=
  adrArith t d a b 1 (fun x y => x >>> shiftAmount y) s
def execAdrSra (t : Tag) (d a b : RField) (s : State) : Out :=
  adrArith t d a b 1 (fun x y => x.sshiftRight (shiftAmount y)) s
def execAdrMul (t : Tag) (d a b : RField) (s : State) : Out := adrArith t d a b 3 (· * ·) s
def execAdrMulh (t : Tag) (d a b : RField) (m : BitVec 1) (s : State) : Out := adrArith t d a b 3 (mulHigh m) s
/-- MIN and MAX: m = 0 signed, m = 1 unsigned (R146). -/
def execAdrMin (t : Tag) (d a b : RField) (m : BitVec 1) (s : State) : Out :=
  adrArith t d a b 1 (if m = 1 then minUnsigned else minSigned) s
def execAdrMax (t : Tag) (d a b : RField) (m : BitVec 1) (s : State) : Out :=
  adrArith t d a b 1 (if m = 1 then maxUnsigned else maxSigned) s

/-- An operation on one source (R146, R147). -/
def adrUnary (t : Tag) (d a : RField) (f : Word64 → Word64) (s : State) : Out :=
  tileOp t (fun c => do
    let x ← c.base.src a
    return (c.live.landS c.slot 1 d.toNat (f x), some 1)) s

def execAdrAddi (t : Tag) (d a : RField) (imm : BitVec 7) (lit : Option Word32) (s : State) : Out :=
  adrUnary t d a (fun x => x + immediate imm lit) s

/-- CLZ and POPC of 64 bits, or of the low 32 with m = 1 (R146). -/
def execAdrClz (t : Tag) (d a : RField) (m : BitVec 1) (s : State) : Out :=
  adrUnary t d a (fun x => BitVec.ofNat 64 (clzBits (if m = 1 then 32 else 64) x.toNat)) s

def execPopc (t : Tag) (d a : RField) (m : BitVec 1) (s : State) : Out :=
  adrUnary t d a (fun x => BitVec.ofNat 64 (popcBits (if m = 1 then 32 else 64) x.toNat)) s

def execAdrLi (t : Tag) (d : RField) (imm : BitVec 7) (lit : Option Word32) (s : State) : Out :=
  tileOp t (fun c => .ok (c.live.landS c.slot 1 d.toNat (immediate imm lit), some 1)) s

/-- li.hi keeps the low half of the destination (R147). -/
def execAdrLiHi (t : Tag) (d : RField) (imm : BitVec 7) (lit : Option Word32) (s : State) : Out :=
  adrUnary t d d (fun x => (immediate imm lit).extractLsb' 0 32 ++ x.extractLsb' 0 32) s

/-- CMP; m = 1 conjoins the destination's old value (R148). -/
def execCmp (t : Tag) (cc n : BitVec 3) (a b : RField) (m : BitVec 1) (s : State) : Out :=
  tileOp t (fun c => do
    let x ← c.base.src a
    let y ← c.base.src b
    let p ← if m = 1 then c.base.pred n.toNat else pure true
    return (c.live.landP c.slot n.toNat (cond cc.toNat x y && p), some 1)) s

/-- PLOG (R149). -/
def execPlog (t : Tag) (f n : BitVec 3) (a b : RField) (s : State) : Out :=
  tileOp t (fun c => do
    let x ← c.base.pred a.toNat
    let y ← c.base.pred b.toNat
    return (c.live.landP c.slot n.toNat (plogFn f.toNat x y), some 1)) s

/-- SEL: the predicate field is the selecting condition and never predicates (R150). Both sources are read, and with CHKCTL.EN = 1
both are checked (DESIGN CHOICE, log entry 32). -/
def execAdrSel (t : Tag) (d a b : RField) (s : State) : Out :=
  tileOp { t with p := 0 } (fun c => do
    let q ← c.base.predField t.p
    let x ← c.base.src a
    let y ← c.base.src b
    return (c.live.landS c.slot 1 d.toNat (if q then x else y), some 1)) s

/-! ### TADR (R151 to R153) -/

/-- The j-th set bit of a mask, counted from bit 0. -/
def setBit (mask : BitVec 8) (j : Nat) : Nat := ((List.range 8).filter fun i => mask.getLsbD i).getD j 0

/-- A dimension of GRID; zero reads as one (R152). -/
def gridDim (v : Nat) : Nat := if v = 0 then 1 else v

/-- The die index of a block by mapping kind (R152). -/
def blockDie (kind gx gy br bc rows d1 : Nat) : Nat :=
  let n := gx * gy
  match kind with
  | 1 => br % n
  | 2 => bc % n
  | 3 => br % gy * gx + bc % gx
  | _ => min (br / max 1 (((d1 + rows - 1) / rows + n - 1) / n)) (n - 1)

/-- The virtual address a shape's BASE gives (R138, R236). -/
def shapeBase (h : HReg) : Nat := (hField h 1).toNat % 2 ^ 25 * 2 ^ 32 + (hField h 0).toNat

/-- What TADR writes by form, or its trap (R153). -/
def tadrValue (x : Seat) (h : HReg) (v : Word64) (form : Nat) : Except TrapInfo Word64 :=
  let elem := (hField h 2).toNat
  let rows := (hField h 10).toNat % 2 ^ 16
  let cols := (hField h 10).toNat / 2 ^ 16
  let grid := (hField h 11).toNat
  let gx := gridDim (grid % 2 ^ 8)
  let gy := gridDim (grid / 2 ^ 8 % 2 ^ 8)
  let kind := grid / 2 ^ 16 % 2 ^ 8
  let br := v.toNat % 2 ^ 32
  let bc := v.toNat / 2 ^ 32
  if elem % 16 = 0xF ∨ elem / 16 % 16 ≠ 0 then .error { cause := 0x23, addr := 0 }
  else if rows = 0 ∨ cols = 0 ∨ 5 ≤ kind ∨ (kind ≠ 0 ∧ x.cfg.d < gx * gy) then .error { cause := 0x02, addr := 0 }
  else
    let off := (br * rows * (hField h 7).toNat + bc * cols) * elemSize (elem % 16) % 2 ^ 57
    let addr := (shapeBase h + off) % 2 ^ 57
    let home :=
      if kind = 0 then x.die else setBit x.cfg.dieMask (blockDie kind gx gy br bc rows (hField h 4).toNat)
    .ok (BitVec.ofNat 64 (match form with
      | 0 => home * 2 ^ 60 + addr
      | 1 => home * 2 ^ 60 + off
      | 2 => home
      | _ => addr))

def execTadr (t : Tag) (h : BitVec 4) (d sa : RField) (ch : BitVec 3) (s : State) : Out :=
  tileOp t (fun c => do
    let hr ← c.base.hsrc h.toNat
    let v ← c.base.src sa
    let r ← tadrValue c.base hr v ch.toNat
    return (c.live.landS c.slot 3 d.toNat r, some 3)) s

end Sys2Proof.Machine
end

