-- ==== Sys2Proof/Machine/Pad.lean ====
section
/-! DEFINITION. Accesses to a seat's pads: range, alignment, owner and poison checks, reads and writes, and cluster
addresses (R154 to R162, R176, R179). -/

namespace Sys2Proof.Machine

/-- Every byte lies below 2^19 and in a pad the seat holds (R155). -/
def Seat.inRange (x : Seat) (a n : Nat) : Bool := a + n ≤ 2 ^ 19 && (a + n - 1) / 4096 < x.pads.count

/-- Granules of 64 bytes that a range touches (R154). -/
def granules (a n : Nat) : List Nat := (List.range ((a + n - 1) / 64 + 1 - a / 64)).map (· + a / 64)

/-- A poisoned granule lies in the range (R179). -/
def Seat.poisoned (x : Seat) (a n : Nat) : Bool := (granules a n).any fun g => x.pads.poison.contains g

def Seat.ownerOf (x : Seat) (a : Nat) : Owner := x.pads.owner.getD (a / 4096) .thread

/-- A word that a range touches fails its horizontal parity: an odd number of its bits are upset (R177). -/
def Seat.parityFails (x : Seat) (a n : Nat) : Bool :=
  x.pads.upset.any fun u => popcBits 64 u.2.toNat % 2 == 1 && n != 0 && u.1 < a + n && a < u.1 + 8

/-- A remote access to the seat's own slot on these bytes is not performed yet: what follows it in program order waits, a read
too, whose value would else be older than that of a read before it (R286, R287). -/
def Seat.ownPending (x : Seat) (a n : Nat) : Bool :=
  x.sync.own.any fun o => n != 0 && o.addr < a + n && a < o.addr + o.len

/-- The pads of a range are all owned by the thread (R160, R162). -/
def Seat.threadOwned (x : Seat) (a n : Nat) : Bool :=
  x.ownerOf a == .thread && x.ownerOf (a + n - 1) == .thread

/-- Range before alignment (R155, R157). -/
def Seat.checkAddr (x : Seat) (ea : Word64) (n align : Nat) : Except TrapInfo Unit :=
  if !x.inRange ea.toNat n then .error (trapAt 0x0A ea)
  else if ea.toNat % align ≠ 0 then .error (trapAt 0x0B ea)
  else .ok ()

/-- The checks of the bytes that a thread reads, as parts, each an address and a length: with CHKCTL.EN = 1, bytes that a
drain has yet to write raise UNDERSIZED_STALL (R208); an access of the seat to its own slot that is on its way, which the seat
sees in program order (R286, R287), and a word whose parity fails, until its group is rebuilt (R177, R178), hold the tile; poison
raises SCRATCH_ECC (R179). -/
def Seat.checkBytes (x : Seat) (ea : Word64) (parts : List (Nat × Nat)) : Except TrapInfo Unit := do
  x.checkLanded fun e =>
    match e with
    | .pad a bs => parts.any fun p => a < p.1 + p.2 && p.1 < a + bs.length
    | _ => false
  if parts.any fun p => x.ownPending p.1 p.2 || x.parityFails p.1 p.2 then throw holdTile
  if parts.any fun p => x.poisoned p.1 p.2 then throw (trapAt 0x22 ea)

/-- The checks of a thread read of some parts of a range: range and alignment, then those of the bytes (R155, R157, R167).
-/
def Seat.checkParts (x : Seat) (ea : Word64) (n align : Nat) (parts : List (Nat × Nat)) : Except TrapInfo Unit := do
  x.checkAddr ea n align
  x.checkBytes ea parts

/-- The checks of a thread read of a whole range. -/
def Seat.checkRead (x : Seat) (ea : Word64) (n align : Nat) : Except TrapInfo Unit := x.checkParts ea n align [(ea.toNat, n)]

/-- Some granule the writes touch is poisoned and not covered whole (R179). -/
def Seat.partialPoison (x : Seat) (ws : List (Nat × Byte)) : Bool :=
  x.pads.poison.any fun g =>
    let n := (ws.filter fun w => w.1 / 64 == g).length
    n != 0 && n != 64

/-- The first checks of a thread write over a range: range, alignment, owner (R155, R157, R160). -/
def Seat.checkTarget (x : Seat) (ea : Word64) (n align : Nat) : Except TrapInfo Unit := do
  x.checkAddr ea n align
  if !x.threadOwned ea.toNat n then throw (trapAt 0x09 ea)

/-- The last checks of a thread write, of the bytes it writes: a remote access of the seat to its own slot that comes before it
(R286), then poison (R179). R155 ranks only SCRATCH_RANGE: that OWNER comes before SCRATCH_ECC, where both apply to a write, is
the model's (DESIGN CHOICE, log entry 32). -/
def Seat.checkTorn (x : Seat) (ea : Word64) (ws : List (Nat × Byte)) : Except TrapInfo Unit := do
  if ws.any fun w => x.ownPending w.1 1 then throw holdTile
  if x.partialPoison ws then throw (trapAt 0x22 ea)

/-- The checks of a thread write over a range, the bytes it writes given. -/
def Seat.checkWrite (x : Seat) (ea : Word64) (n align : Nat) (ws : List (Nat × Byte)) : Except TrapInfo Unit := do
  x.checkTarget ea n align
  x.checkTorn ea ws

/-- Bytes of the pads (R155). -/
def Seat.padBytes (x : Seat) (a n : Nat) : List Byte := Mem.bytes x.pads.bytes a n

def putCells (m : List Host.Cell) (ws : List (Nat × Byte)) : List Host.Cell :=
  ws.foldl (fun m w => Mem.put m w.1 w.2) m

/-- Written bytes take their parity with them: the upset bits in them are gone (R177). -/
def clearUpset (us : List (Nat × BitVec 64)) (ws : List (Nat × Byte)) : List (Nat × BitVec 64) :=
  (us.map fun u => (u.1, ws.foldl (fun b w =>
    if w.1 / 8 * 8 = u.1 then b &&& ~~~((0xFF : BitVec 64) <<< (8 * (w.1 % 8))) else b) u.2)).filter (·.2 != 0)

/-- Write bytes; a granule written whole loses its poison (R179). -/
def Seat.writeBytes (x : Seat) (ws : List (Nat × Byte)) : Seat :=
  { x with pads := { x.pads with
      bytes := putCells x.pads.bytes ws
      upset := clearUpset x.pads.upset ws
      poison := x.pads.poison.filter fun g => (ws.filter fun w => w.1 / 64 == g).length != 64 } }

/-- Bytes from an address as writes. -/
def cellsAt (a : Nat) (bs : List Byte) : List (Nat × Byte) := bs.zipIdx.map fun b => (a + b.2, b.1)

/-- Mark the granules of a range poisoned (R178, R239). -/
def Seat.markPoison (x : Seat) (a n : Nat) : Seat :=
  { x with pads := { x.pads with poison := (granules a n).foldl (fun p g => insertNat g p) x.pads.poison } }

/-! ### Engine accesses to pads (R179, R239) -/

/-- A poisoned granule that bytes of a write of [lo, hi) touch and that the write does not cover whole (R179). -/
def Seat.enginePartial (x : Seat) (lo hi a n : Nat) : Bool :=
  n != 0 && (granules a n).any fun g => x.pads.poison.contains g && !(lo ≤ 64 * g && 64 * g + 64 ≤ hi)

/-- Bytes from a on, part of an engine's write of [lo, ...) in rising order: a granule that they complete loses its poison.
-/
def Seat.engineWrite (x : Seat) (lo a : Nat) (bs : List Byte) : Seat :=
  let y := x.writeBytes (cellsAt a bs)
  { y with pads := { y.pads with
      poison := y.pads.poison.filter fun g =>
        !(lo ≤ 64 * g && 64 * g + 64 ≤ a + bs.length && a < 64 * g + 64 && !bs.isEmpty) } }

/-- Poison of a range of one seat's pads is carried to a range of another's (R239). -/
def Seat.carryPoison (dst : Seat) (b : Nat) (src : Seat) (a n : Nat) : Seat :=
  if n = 0 then dst else
  (granules a n).foldl (fun y g =>
    let lo := max a (64 * g)
    let hi := min (a + n) (64 * g + 64)
    if src.pads.poison.contains g then y.markPoison (b + lo - a) (hi - lo) else y) dst

/-- Bytes of an engine's copy from a pad range at sa to a pad range at da, done bytes in: a destination granule is poisoned
where a source granule of what has been written into it is (R179, R239). -/
def Seat.engineCopy (dst : Seat) (da done : Nat) (bs : List Byte) (src : Seat) (sa : Nat) : Seat :=
  let back := min done ((da + done) % 64)
  (dst.engineWrite da (da + done) bs).carryPoison (da + done - back) src (sa + done - back) (back + bs.length)

/-! ### Cluster addresses (R156) -/

/-- The gang's seat on a slot of the issuing tile's cluster. -/
def State.clusterSeat (s : State) (x : Seat) (slot : Nat) : Option Seat :=
  s.seats.find? fun y => y.gang == x.gang && y.die == x.die && y.cluster == x.cluster && y.slotNo == slot

def clusterSlot (ea : Word64) : Nat := ea.toNat / 2 ^ 19 % 8
def clusterOffset (ea : Word64) : Nat := ea.toNat % 2 ^ 19

/-- The seat a cluster address names, its range checked (R155, R156). -/
def State.clusterPlace (s : State) (x : Seat) (ea : Word64) (n : Nat) : Except TrapInfo Seat :=
  if 2 ^ 22 ≤ ea.toNat then .error (trapAt 0x0A ea)
  else match s.clusterSeat x (clusterSlot ea) with
    | none => .error (trapAt 0x0A ea)
    | some y => if y.inRange (clusterOffset ea) n then .ok y else .error (trapAt 0x0A ea)

/-- The seat a cluster address names, its offset checked for range and alignment (R156, R157). -/
def State.checkCluster (s : State) (x : Seat) (ea : Word64) (n align : Nat) : Except TrapInfo Seat := do
  let y ← s.clusterPlace x ea n
  if clusterOffset ea % align ≠ 0 then throw (trapAt 0x0B ea)
  return y

/-- A remote read finds no poison in the parts it reads when it issues: SCRATCH_ECC is raised at its bundle (R179, R366). -/
def Seat.checkSound (y : Seat) (ea : Word64) (parts : List (Nat × Nat)) : Except TrapInfo Unit :=
  if parts.any fun p => y.poisoned p.1 p.2 then .error (trapAt 0x22 ea) else .ok ()

/-! ### V register values from elements -/

/-- Elements of w bits at their indices, and the mask of the bits they take. -/
def packElems (w : Nat) (es : List (Nat × Nat)) : VReg × VReg :=
  es.foldl (fun p e =>
    (p.1 ||| (BitVec.ofNat 2048 (e.2 % 2 ^ w) <<< (w * e.1)), p.2 ||| (BitVec.ofNat 2048 (2 ^ w - 1) <<< (w * e.1)))) (0, 0)

/-- Element j of width w (R181). -/
def vElem (w : Nat) (v : VReg) (j : Nat) : Nat := (v.extractLsb' (w * j) w).toNat

/-- The bits of the lanes a mask selects (R183). -/
def laneMask (mt : Word64) : VReg :=
  (List.range 64).foldl (fun m i => if mt.getLsbD i then m ||| ((0xFFFFFFFF : VReg) <<< (32 * i)) else m) 0

/-- Element j of width w is active (R183). -/
def active (mt : Word64) (w j : Nat) : Bool := mt.getLsbD (j * w / 32)

end Sys2Proof.Machine
end

