-- ==== Sys2Proof/Machine/Access.lean ====
section
/-! DEFINITION. Device memory behind translation: physical layout, access tables, extents, translation caches, poison
and discarded pages (R318 to R335). -/

namespace Sys2Proof.Machine

/-! ### Routes (R13, R309, R388) -/

/-- The mesh links between two die pairs, along the row first and then along the column (R13). -/
def meshPath (a b : Nat) : List (Nat × Nat) :=
  let row (d i : Nat) : Nat := d / 4 * 4 + i
  let lo := min (a % 4) (b % 4)
  ((List.range (max (a % 4) (b % 4) - lo)).map fun i => (row a (lo + i), row a (lo + i + 1))) ++
  (if a / 4 = b / 4 then [] else [(row a (b % 4), b)])

/-- A link carries traffic (R309, R388). -/
def State.linkUp (s : State) (p : Nat × Nat) : Bool :=
  !(s.links.any fun l => (l.link == .mesh p.1 p.2 || l.link == .mesh p.2 p.1) && (l.down || l.retraining))

/-- A hub's link to a die pair carries traffic (R13, R388). -/
def State.hubLinkUp (s : State) (h d : Nat) : Bool :=
  !(s.links.any fun l => l.link == .hub h d && (l.down || l.retraining))

/-- The mesh between two die pairs carries traffic (R309). -/
def State.meshUp (s : State) (a b : Nat) : Bool := (meshPath a b).all s.linkUp

/-- A hub reaches a die pair through one of its two links (R13, R388). -/
def State.hubReach (s : State) (h d : Nat) : Bool :=
  (if h = 0 then [0, 4] else [3, 7]).any fun a => s.hubLinkUp h a && s.meshUp a d

/-- The mesh between the die pairs of two seats carries traffic: a seat that is gone receives nothing (R13, R388). -/
def State.pathUp (s : State) (k j : Nat) : Bool := s.meshUp (k / 256) (j / 256)

/-! ### Physical memory (R318, R319) -/

/-- Live stacks in ascending number; stack k stands on die pair k div 2 (R319). -/
def State.liveStacks (s : State) : List Nat := (List.range 16).filter fun k => s.diepres.getLsbD (k / 2)

/-- Bytes of HBM in service (R318). -/
def State.hbmSize (s : State) : Nat := 45 * 2 ^ 30 * s.liveStacks.length

/-- The mirror area of the journal, one MiB that no extent maps: it ends with the HBM of one die pair, so that it is backed as long
as any die pair lives (R318, R358, log entry 12). -/
def mirrorBase : Nat := 90 * 2 ^ 30 - 2 ^ 20

/-- Where the host window begins (R318). -/
def hostBase : Nat := 2 ^ 47

/-- The home controller of an HBM address (R319). -/
def State.homeOf (s : State) (pa : Nat) : Option Target :=
  if pa < s.hbmSize then
    let z := s.liveStacks.length
    let n := pa / 128
    let ls := if z = 16 then Nat.xor (n % 16) (n / 16 % 16) else n % z
    let q := if z = 16 then n / 16 else n / z
    let stack := s.liveStacks.getD ls 0
    some (.home (stack / 2) (stack % 2) (q % 30))
  else none

/-- The links from a die pair to the home of a physical address carry traffic: the mesh to its home controller's die pair, or the way
to hub 0 and the host (R13, R388). -/
def State.homeUp (s : State) (die pa : Nat) : Bool :=
  match s.homeOf pa with
  | some (.home d _ _) => s.meshUp die d
  | _ => s.hubReach 0 die

/-- The row of the channel that holds an HBM address (R319). -/
def State.rowOf (s : State) (pa : Nat) : Nat := pa / 128 / s.liveStacks.length / 30

/-- An address in an open DMA window (R408). -/
def State.inWindow (s : State) (pa n : Nat) : Bool :=
  s.wins.toList.any fun w =>
    w.wlen != 0 && hostBase + w.woff.toNat ≤ pa && pa + n ≤ hostBase + w.woff.toNat + w.wlen.toNat

/-- Physical addresses that memory backs: HBM in service, or the host window where a window is open (R320, R408). -/
def State.backed (s : State) (pa n : Nat) : Bool := pa + n ≤ s.hbmSize || s.inWindow pa n

/-- The host address behind an address of the host window: that of the open window it lies in (R408). -/
def State.hostAddr (s : State) (pa : Nat) : Option Nat :=
  (s.wins.toList.find? fun w =>
    w.wlen != 0 && hostBase + w.woff.toNat ≤ pa && pa < hostBase + w.woff.toNat + w.wlen.toNat).map fun w =>
      w.hbase.toNat + (pa - hostBase - w.woff.toNat)

/-- Bytes of one sector, which lies in one window where it is the host's. -/
def State.readPa (s : State) (pa n : Nat) : List Byte :=
  if pa < hostBase then Mem.bytes s.hbm pa n
  else match s.hostAddr pa with
    | some a => Mem.bytes s.hostMem a n
    | none => List.replicate n 0

def State.writePa (s : State) (ws : List (Nat × Byte)) : State :=
  { s with
    hbm := putCells s.hbm (ws.filter (·.1 < hostBase))
    hostMem := putCells s.hostMem
      ((ws.filter (hostBase ≤ ·.1)).filterMap fun w => (s.hostAddr w.1).map fun a => (a, w.2)) }

/-! ### Access tables (R333 to R335) -/

/-- Master id of channel ch of a seat (R333). -/
def chanMaster (seat ch : Nat) : Nat := 0x800 + seat * 8 + ch

def Target.isHome : Target → Bool | .home _ _ _ => true | _ => false

/-- A row speaks of a target: its own, or every home controller. -/
def AccessRow.of (row : AccessRow) (t : Target) : Bool :=
  match row.target with
  | some u => u == t
  | none => t.isHome

/-- The entry of a master in a target's table, W then R (R334). -/
def State.entry (s : State) (t : Target) (m : Nat) : Bool × Bool :=
  match s.access.find? fun row => row.master == m && row.of t with
  | some row => (row.w, row.r)
  | none => let hub := 0x4830 ≤ m && m ≤ 0x4832; (hub, hub)

/-- The scheduler writes an entry; none names every home controller (R334). -/
def State.setEntry (s : State) (t : Option Target) (m : Nat) (w r : Bool) : State :=
  let keep (row : AccessRow) : Bool :=
    !(row.master == m && (row.target == t || (t == none && (match row.target with | some u => u.isHome | none => true))))
  { s with access := { target := t, master := m, w := w, r := r } :: s.access.filter keep }

/-- The entries of masters are removed: the tables hold their reset value for them (R334). -/
def State.dropEntries (s : State) (ms : List Nat) : State :=
  { s with access := s.access.filter fun row => !ms.contains row.master }

/-- A request is checked when it reaches its target; an atomic or a reduction needs both bits (R334, R335). -/
def State.allows (s : State) (t : Option Target) (m : Nat) (w r : Bool) : Bool :=
  match t with
  | none => true
  | some t => let e := s.entry t m; (!w || e.1) && (!r || e.2)

/-- The scheduler, the memory processor and the host port as masters (R333). -/
def schedMaster : Nat := 0x4830
def memMaster : Nat := 0x4831
def hostMaster : Nat := 0x4810

/-- The base address of the block of a hub, of a seat, and of a die pair's own registers (R321). -/
def dieBase (d : Nat) : Nat := 0x7F0000000000 + d * 2 ^ 32
def seatBlock (d off : Nat) : Nat := dieBase d + off / 0x10000 * 0x10000

/-- The block of a seat (R321). -/
def seatBase (k : Nat) : Nat := seatBlock (k / 256) (k % 256 / 4 * 0x100000 + k % 4 * 0x10000)

/-- A bus error to the firmware of a hub core; one that stands among the notices is not told again (R335; log entry 31). -/
def State.busError (s : State) (master pa : Nat) : State :=
  if s.notices.contains (.busError master pa) then s else { s with notices := s.notices ++ [.busError master pa] }

/-- A hub core writes entries of a seat's extent table, under the access table of the seat's block; a refusal is a bus error, and the
table stays as it is (R24, R321, R334, R335). -/
def State.writeExtents (s : State) (master k : Nat) (f : List Extent → List Extent) : State :=
  match s.seat? k with
  | none => s
  | some x =>
    if f x.extents = x.extents then s
    else if s.allows (some (.block (seatBase k))) master true false then s.putSeat { x with extents := f x.extents }
    else s.busError master (seatBase k + 0x1000)

/-- The same at every seat for which p holds. -/
def State.rewriteExtents (s : State) (master : Nat) (p : Seat → Bool) (f : List Extent → List Extent) : State :=
  (s.seats.filter p).foldl (fun t x => t.writeExtents master x.id f) s

/-! ### Pages, caches, extents (R322 to R328) -/

/-- Bytes of a page by SIZE (R325). -/
def pageBytes (size : Nat) : Nat :=
  match size with
  | 0 => 2 ^ 16
  | 1 => 2 ^ 21
  | 2 => 2 ^ 26
  | _ => 2 ^ 31

def Mapping.covers (m : Mapping) (va : Nat) : Bool := m.va ≤ va && va < m.va + pageBytes m.size

/-- The memory processor's page of an address. -/
def State.page (s : State) (va : Nat) : Option Mapping := s.pages.find? fun m => m.covers va

/-- A lookup hits an entry whose lease has not ended (R326, R327). -/
def State.cached (s : State) (die va : Nat) : Option Mapping :=
  (s.caches.getD die []).find? fun m => m.covers va && s.chorus < m.lease

/-- The extent of a seat that holds an address (R322). -/
def Seat.extent (x : Seat) (va : Nat) : Option Extent := x.extents.find? fun e => e.v && e.base ≤ va && va < e.base + e.len

/-- A lookup of a lazy extent's page makes the entry found the most recently used; an eager extent makes none (R323, R326). -/
def State.touch (s : State) (x : Seat) (va : Nat) : State :=
  match x.extent va, s.cached x.die va with
  | some e, some m =>
    if e.kind = 1 then
      { s with caches := s.caches.setIfInBounds x.die (m :: (s.caches.getD x.die []).filter (· != m)) }
    else s
  | _, _ => s

/-- Every address of a list is looked up, in order. -/
def State.touchAll (s : State) (x : Seat) (vas : List Nat) : State := vas.foldl (fun t va => t.touch x va) s

/-- What becomes of a memory sector's address (R323). -/
inductive Xlat where
  /-- physical address, error-tolerant, discarded -/
  | pa (pa : Nat) (et disc : Bool)
  /-- in a lattice extent -/
  | cell (e : Extent)
  | untranslated
  | fault (cause : Nat)
  deriving DecidableEq, Repr

/-- What an extent and the page give an address: both permissions, both ET bits, the page's discard; never an address that no
memory backs (R320, R326, R330, R331). -/
def State.reach (s : State) (e : Extent) (write : Bool) (pa : Nat) (pg : Option Mapping) : Xlat :=
  if pg.any fun m => (write && !m.w) || (!write && !m.r) then .fault 0x11
  else if !s.backed pa 1 then .fault 0x10
  else .pa pa (e.et && pg.all (·.et)) (pg.any (·.disc))

/-- The translation of a command's sector (R323); lat: the command is a CPYL. The marks of a page under an eager extent are those
the memory processor holds (R330, R331). -/
def State.translate (s : State) (x : Seat) (write lat : Bool) (va : Nat) : Xlat :=
  match x.extent va with
  | none => .fault 0x0F
  | some e =>
    if lat && e.kind != 2 then .fault 0x0F
    else if (write && !e.w) || (!write && !e.r) then .fault 0x11
    else if e.kind = 2 then (if lat then .cell e else .fault 0x11)
    else if e.lease ≤ s.chorus then .untranslated
    else if e.kind = 0 then s.reach e write (e.pbase + (va - e.base)) (s.page va)
    else match s.cached x.die va with
      | none => .untranslated
      | some m => s.reach e write (m.pa + (va - m.va)) (some m)

/-! ### Sectors at their home (R330, R331, R335) -/

def State.poisonedAt (s : State) (pa : Nat) : Bool := pa < hostBase && s.hbmPoison.contains (pa / 64)

/-- Read bytes of one sector: the bytes, and whether zeros stand for poison; or the cause that ends the command. -/
def State.readSector (s : State) (m pa n : Nat) (et disc : Bool) : Except Nat (List Byte × Bool) :=
  if !s.allows (s.homeOf pa) m false true then .error 0x11
  else if disc then .ok (List.replicate n 0, false)
  else if s.poisonedAt pa then (if et then .ok (List.replicate n 0, true) else .error 0x13)
  else .ok (s.readPa pa n, false)

/-- The writes cover their whole sector. -/
def wholeSector (ws : List (Nat × Byte)) : Bool :=
  match ws with
  | [] => false
  | w :: _ => (List.range 64).all fun i => ws.any fun v => v.1 == w.1 / 64 * 64 + i

/-- Write bytes of one sector: a whole write clears the mark, a partial one to a poisoned sector ends the command, and
data that carries poison marks the sector (R331). -/
def State.writeSector (s : State) (m : Nat) (ws : List (Nat × Byte)) (poison : Bool) : Except Nat State :=
  match ws with
  | [] => .ok s
  | w :: _ =>
    if !s.allows (s.homeOf w.1) m true false then .error 0x11
    else if s.poisonedAt w.1 && !wholeSector ws then .error 0x13
    else
      let t := s.writePa ws
      let rest := t.hbmPoison.filter (· != w.1 / 64)
      .ok { t with hbmPoison := if poison && w.1 < hostBase then insertNat (w.1 / 64) rest else rest }

/-! ### Accesses through the memory processor: code, rings, host (R332, R406) -/

/-- A range cut at sector boundaries: addresses and lengths; fuel bounds the pieces. -/
def pieces : Nat → Nat → Nat → List (Nat × Nat)
  | 0, _, _ => []
  | f + 1, a, n =>
    if n = 0 then [] else
    let k := min n (64 - a % 64)
    (a, k) :: pieces f (a + k) (n - k)

/-- The pieces of a range. -/
def sectorsOf (a n : Nat) : List (Nat × Nat) := pieces (n / 64 + 2) a n

/-- The pieces of a range of virtual addresses, which are taken mod 2^57 (R318, R322). -/
def virtualSectors (a n : Nat) : List (Nat × Nat) := (sectorsOf a n).map fun p => (p.1 % 2 ^ 57, p.2)

/-- Physical address of a virtual one, with its page; never one that no memory backs (R320). -/
def State.vaToPa (s : State) (va : Nat) : Option (Nat × Mapping) :=
  (s.page va).bind fun m => if s.backed (m.pa + (va - m.va)) 1 then some (m.pa + (va - m.va), m) else none

/-- Read device memory as a master: PAGE_FAULT where no page stands, ACCESS for a refusal, POISON for a poisoned sector. -/
def State.readVa (s : State) (m va n : Nat) : Except Nat (List Byte) := do
  let parts ← (sectorsOf va n).mapM fun p =>
    match s.vaToPa p.1 with
    | none => Except.error 0x10
    | some (pa, pg) =>
      match s.readSector m pa p.2 false pg.disc with
      | .ok r => .ok r.1
      | .error e => .error e
  return parts.flatten

/-- Write device memory as a master. -/
def State.writeVa (s : State) (m va : Nat) (bs : List Byte) : Except Nat State :=
  (sectorsOf va bs.length).foldlM (fun (t : State) p =>
    match t.vaToPa p.1 with
    | none => Except.error 0x10
    | some (pa, _) => t.writeSector m (cellsAt pa ((bs.drop (p.1 - va)).take p.2)) false) s

/-- A little-endian number from device memory. -/
def State.readNat (s : State) (m va n : Nat) : Except Nat Nat := do
  let bs ← s.readVa m va n
  return leNat bs

/-! ### Contents of pages (R329, R330, R332) -/

/-- An area of HBM or of the host window holds zeros and no poison. -/
def State.zeroAt (s : State) (pa n : Nat) : State :=
  if pa < hostBase then
    { s with
      hbm := s.hbm.filter fun c => c.1 < pa || pa + n ≤ c.1
      hbmPoison := s.hbmPoison.filter fun k => k < pa / 64 || (pa + n) / 64 ≤ k }
  else match s.hostAddr pa with
    | some a => { s with hostMem := s.hostMem.filter fun c => c.1 < a || a + n ≤ c.1 }
    | none => s

/-- What a page holds, by virtual address; a discarded page holds zeros (R330). -/
def State.contents (s : State) (p : Mapping) : Away :=
  let n := pageBytes p.size
  let here (base : Nat) (l : List Nat) : List Nat := l.filter fun a => base ≤ a && a < base + n
  let cells (base : Nat) (l : List Host.Cell) : List Host.Cell :=
    (l.filter fun c => base ≤ c.1 && c.1 < base + n).map fun c => (c.1 - base + p.va, c.2)
  if p.disc then { va := p.va, len := n, bytes := [], poison := [] }
  else if p.pa < hostBase then
    { va := p.va, len := n, bytes := cells p.pa s.hbm
      poison := (here p.pa (s.hbmPoison.map (64 * ·))).map fun a => (a - p.pa + p.va) / 64 }
  else { va := p.va, len := n, bytes := ((s.hostAddr p.pa).map fun a => cells a s.hostMem).getD [], poison := [] }

/-- A new place of a page takes what an earlier place of its addresses held. -/
def State.takeAway (s : State) (m : Mapping) (a : Away) : State :=
  let lo := max a.va m.va
  let hi := min (a.va + a.len) (m.va + pageBytes m.size)
  if hi ≤ lo then s
  else
    let at' (v : Nat) : Nat := m.pa + (v - m.va)
    let t := (s.zeroAt (at' lo) (hi - lo)).writePa
      ((a.bytes.filter fun c => lo ≤ c.1 && c.1 < hi).map fun c => (at' c.1, c.2))
    let bad := if m.pa < hostBase then (a.poison.filter fun k => lo ≤ 64 * k && 64 * k < hi).map fun k => at' (64 * k) / 64 else []
    { t with hbmPoison := bad.foldl (fun l k => insertNat k l) t.hbmPoison }

/-- The contents of unmapped pages move to a new page over their addresses, oldest first; what lies wholly in the page stands
nowhere else any longer (R332). -/
def State.moveIn (s : State) (m : Mapping) : State :=
  let t := s.away.foldl (fun t a => t.takeAway m a) s
  { t with away := t.away.filter fun a => !(m.va ≤ a.va && a.va + a.len ≤ m.va + pageBytes m.size) }

end Sys2Proof.Machine
end

