-- ==== Sys2Proof/Machine/Fmt.lean ====
section
/-! DEFINITION. The fields of FMT (R184) and the random-bit queue's pop (R45). -/

namespace Sys2Proof.Machine

namespace Fmt
def vt (f : Word64) : Nat := (f.extractLsb' 0 4).toNat
def atype (f : Word64) : BitVec 4 := f.extractLsb' 4 4
def btype (f : Word64) : BitVec 4 := f.extractLsb' 8 4
def acm (f : Word64) : Nat := (f.extractLsb' 12 2).toNat
def df (f : Word64) : Nat := (f.extractLsb' 16 4).toNat
def rm (f : Word64) : RMode := RMode.ofCode (f.extractLsb' 20 3).toNat
def scm (f : Word64) : Nat := (f.extractLsb' 24 2).toNat
def spm (f : Word64) : Nat := (f.extractLsb' 26 2).toNat
def cke (f : Word64) : Bool := f.getLsbD 28
def ckt (f : Word64) : Bool := f.getLsbD 29
def gam (f : Word64) : Nat := (f.extractLsb' 30 2).toNat
def ftzi (f : Word64) : Bool := f.getLsbD 32
def ftzo (f : Word64) : Bool := f.getLsbD 33
def lto (f : Word64) : Bool := f.getLsbD 34

/-- The mode of a vector operation that is no conversion: SR rounds by RNE (R42). -/
def rmArith (f : Word64) : RMode := match rm f with | .sr => .rne | m => m
end Fmt

/-- Pop the random-bit queue; an empty queue holds the tile (R45). -/
def Seat.popRbq (x : Seat) : Except TrapInfo (BitVec 512 × Seat) :=
  match x.regs.rbq with
  | [] => .error holdTile
  | w :: r => .ok (w, { x with regs := { x.regs with rbq := r } })

/-- A word is popped only in SR mode; otherwise every slice is zero. -/
def Seat.popIf (x : Seat) (mode : RMode) : Except TrapInfo (BitVec 512 × Seat) :=
  if mode = .sr then x.popRbq else .ok (0, x)

/-- The slice of lane i (R45). -/
def slice (z : BitVec 512) (i : Nat) : Nat := (z.extractLsb' (8 * i) 8).toNat

end Sys2Proof.Machine
end

