-- ==== Sys2Proof/Machine/Beat.lean ====
section
/-! DEFINITION. The arithmetic of the array: modes, edges, products, accumulation and checksums (R34, R37, R39, R201,
R202, R207, R213, R214, R221), and what landings do when they take effect (R68, R208). -/

namespace Sys2Proof.Machine

/-- Row width, K positions per dense beat, bank mode (R201, R202). -/
structure BeatMode where
  r : Nat
  kappa : Nat
  mode : BankMode
  deriving DecidableEq, Repr

def isFp8 (c : Nat) : Bool := c == 8 || c == 9
def isI8 (c : Nat) : Bool := c == 0 || c == 4

/-- The mode of an A and a B type, none for a combination that is not in the table (R202). -/
def typeMode (a b : Nat) : Option BeatMode :=
  if (a = 0xA ∧ b = 0xA) ∨ (a = 0xB ∧ b = 0xB) then some ⟨64, 1, .float⟩
  else if a = 0xC ∧ b = 0xC then some ⟨32, 1, .float⟩
  else if a = 0xD ∧ b = 0xD then some ⟨16, 1, .float⟩
  else if isFp8 a && isFp8 b then some ⟨64, 2, .float⟩
  else if isI8 a && isI8 b then some ⟨64, 2, .int⟩
  else if (a = 0xE ∧ isI8 b) ∨ (isI8 a ∧ b = 0xE) then some ⟨64, 2, .intScaled⟩
  else if (a = 0xE ∧ isFp8 b) ∨ (isFp8 a ∧ b = 0xE) then some ⟨64, 2, .float⟩
  else if (a = 0xE ∧ b = 0xA) ∨ (a = 0xA ∧ b = 0xE) then some ⟨64, 1, .float⟩
  else none

/-- ACM agrees with the table (R202). -/
def beatMode (a b acm : Nat) : Except TrapInfo BeatMode :=
  match typeMode a b with
  | some m => if (acm = 0 ∧ m.mode = .float) ∨ (acm = 1 ∧ m.mode ≠ .float) then .ok m else .error formatTrap
  | none => .error formatTrap

/-- κ as kpos counts it, also for a combination that no beat accepts (R219). -/
def kappaOf (a b : Nat) : Nat := match typeMode a b with | some m => m.kappa | none => 1

/-- Bits of element (i, q) of a dense edge: row or column i, K position q (R201). -/
def edgeBits (code kappa : Nat) (edge : BitVec 2048) (i q : Nat) : Nat :=
  let n := elemSize code
  (edge.extractLsb' (8 * n * (kappa * i + q)) (8 * n)).toNat

/-- The operand pairs of cell (i, j) in a beat: A bits and B bits, one pair for each product (R213, R214). -/
def Beat.pairs (b : Beat) (i j : Nat) : List (Nat × Nat) :=
  let ca := b.atype.toNat
  let cb := b.btype.toNat
  let k := kappaOf ca cb
  if b.sparse then
    let n := 8 * elemSize ca
    let g := i / 4
    let r := i % 4
    (List.range (2 * k)).filterMap fun kk =>
      let nib := (b.a.extractLsb' (1024 + 4 * (kk * 16 + g)) 4).toNat
      let bv := (b.b.extractLsb' ((kk * 64 + j) * n) n).toNat
      let val := fun t => (b.a.extractLsb' ((kk * 32 + 2 * g + t) * n) n).toNat
      if nib / 4 % 4 = r then some (val 1, bv) else if nib % 4 = r then some (val 0, bv) else none
  else (List.range k).map fun q => (edgeBits ca k (b.a.setWidth 2048) i q, edgeBits cb k b.b j q)

/-- The scale byte of row i and of column j (R219). -/
def Beat.scaleA (b : Beat) (i : Nat) : Nat := (b.scales.extractLsb' (8 * i) 8).toNat
def Beat.scaleB (b : Beat) (j : Nat) : Nat := (b.scales.extractLsb' (512 + 8 * j) 8).toNat

/-- The exact products of a cell in float mode, with scales and XADD (R32, R33, R213, R220). -/
def Beat.products (b : Beat) (i j : Nat) : List Ext :=
  (b.pairs i j).map fun p =>
    let x := Ext.mul (decodeElem false b.atype.toNat p.1) (decodeElem false b.btype.toNat p.2)
    let y := if b.scaled then Ext.mul (Ext.mul x (e8m0 (b.scaleA i))) (e8m0 (b.scaleB j)) else x
    y.scale b.xadd

/-- An operand of an integer beat: the integer, or 64 times a DSW8 weight (R34). -/
def intOperand (code bits : Nat) : Int :=
  match elemOf code with
  | .int w s => if s then signExtend w bits else (bits : Int)
  | _ => dsw8Int bits

/-- The exact products of a cell in integer mode; a block scale shifts left (R34). -/
def Beat.intShifted (b : Beat) (i j : Nat) : List Int :=
  (b.pairs i j).map fun p =>
    let x := intOperand b.atype.toNat p.1 * intOperand b.btype.toNat p.2
    if b.scaled then x * 2 ^ (b.scaleA i - 127 + (b.scaleB j - 127)) else x

/-- A product that its shift carries beyond 72 bits saturates (R34, R37). -/
def Beat.intProducts (b : Beat) (i j : Nat) : List Int := (b.intShifted i j).map (satSigned 72)

/-! ### Entries of a bank -/

/-- An entry by physical row and column; unlisted entries are zero (R206). -/
def lookupAcc : List (Nat × Acc72) → Nat → Acc72
  | [], _ => 0
  | (k, v) :: r, a => if k = a then v else lookupAcc r a

def putAcc : List (Nat × Acc72) → Nat → Acc72 → List (Nat × Acc72)
  | [], a, v => if v = 0 then [] else [(a, v)]
  | (k, w) :: r, a, v =>
    if a < k then (if v = 0 then (k, w) :: r else (a, v) :: (k, w) :: r)
    else if a = k then (if v = 0 then r else (a, v) :: r)
    else (k, w) :: putAcc r a v

/-- A bank at dispatch or after MCLR (R206, R218). -/
def Bank.fresh : Bank :=
  let z : Vector Word32 64 := Vector.replicate 64 0
  { entries := [], h := 0, issMode := .unset, issRw := 0, mode := .unset, rw := 0, sat := false, cls := 0, why := 0
    frow := 0, fcol := 0, rows := 0, cols := 0, ndrn := 0, fix := false, ovr := false, cc := z, rc := z, mc := z, mr := z
    dc := z, dr := z, kc := z, kr := z, unck := false, nonFinite := false }

/-- The cells (i, j) with i, j < r. -/
def cellsOf (r : Nat) : List (Nat × Nat) := ((List.range r).map fun i => (List.range r).map fun j => (i, j)).flatten

/-- A sum saturates in integer mode, and says so (R37, R39). -/
def satAcc (x : Int) : Acc72 × Bool := (BitVec.ofInt 72 (satSigned 72 x), x != satSigned 72 x)

/-- Row width of the types of a beat. -/
def Beat.width (b : Beat) : Nat :=
  match typeMode b.atype.toNat b.btype.toNat with
  | some m => m.r
  | none => 64

/-- The entry of logical cell (i, j) at the beat's issue (R207, R208). -/
def Beat.place (b : Beat) (i j : Nat) : Nat := 64 * ((b.h + i) % 64) + j

/-- One cell accumulates (R39, R40). -/
def Bank.cell (k : Bank) (b : Beat) (ij : Nat × Nat) : Bank :=
  let at' := b.place ij.1 ij.2
  let old := lookupAcc k.entries at'
  if b.mode = .float then
    { k with entries := putAcc k.entries at' (rne72 (exactSum (val72 old) (b.products ij.1 ij.2))) }
  else
    let r := satAcc ((b.intProducts ij.1 ij.2).foldl (· + ·) old.toInt)
    { k with
      entries := putAcc k.entries at' r.1
      sat := k.sat || r.2 || (b.intShifted ij.1 ij.2).any fun x => x != satSigned 72 x }

/-- The exact sum of a cell's products. -/
def Beat.cellSum (b : Beat) (i j : Nat) : Ext :=
  match b.products i j with
  | [] => .zero false
  | p :: ps => exactSum p ps

/-- An entry that a float beat adds to is not finite (R222). -/
def Bank.badEntry (k : Bank) (b : Beat) : Bool :=
  (cellsOf b.width).any fun ij => !(val72 (lookupAcc k.entries (b.place ij.1 ij.2))).isFinite

/-- Some operand element or scale of the beat is not finite (R222). -/
def Beat.nonFinite (b : Beat) : Bool :=
  let r := b.width
  let bad (code bits : Nat) : Bool := !(decodeElem false code bits).isFinite
  ((cellsOf r).any fun ij => (b.pairs ij.1 ij.2).any fun p => bad b.atype.toNat p.1 || bad b.btype.toNat p.2) ||
  (b.scaled && (List.range r).any fun i => b.scaleA i == 255 || b.scaleB i == 255)

/-- An updated vector of 64 binary32 values over the first r places. -/
def mapFirst (r : Nat) (v : Vector Word32 64) (f : Nat → Word32 → Word32) : Vector Word32 64 :=
  (List.range r).foldl (fun v i => v.setIfInBounds i (f i (v.getD i 0))) v

/-- The checksum vectors of a float-mode beat with CKE = 1 (R221). -/
def Bank.checksum (k : Bank) (b : Beat) : Bank :=
  let r := b.width
  let ix := List.range r
  let colSum (g : Ext → Ext) (j : Nat) : List Ext := ix.map fun i => g (b.cellSum i j)
  let rowSum (g : Ext → Ext) (i : Nat) : List Ext := ix.map fun j => g (b.cellSum i j)
  { k with
    cc := mapFirst r k.cc fun j v => rne32 (exactSum (val32 v) (colSum id j))
    mc := mapFirst r k.mc fun j v => rne32 (exactSum (val32 v) (colSum Ext.abs j))
    rc := mapFirst r k.rc fun i v => rne32 (exactSum (val32 v) (rowSum id i))
    mr := mapFirst r k.mr fun i v => rne32 (exactSum (val32 v) (rowSum Ext.abs i)) }

/-- A beat accumulates into its bank (R208, R213, R214). -/
def Bank.accumulate (k : Bank) (b : Beat) : Bank :=
  let k1 := (cellsOf b.width).foldl (fun k ij => k.cell b ij) k
  let k2 := if b.cke && b.mode == .float then k1.checksum b else k1
  { k2 with
    mode := b.mode, rw := b.width, unck := k2.unck || !b.cke
    nonFinite := k2.nonFinite || (b.mode == .float && (b.nonFinite || k.badEntry b)) }

/-- MCLR takes effect; what beats issued after it fixed stays (R207, R218). -/
def Bank.clear (k : Bank) : Bank := { Bank.fresh with issMode := k.issMode, issRw := k.issRw }

/-- The number of one bits of a mask, and the lowest, 0xFF where there is none (R222). -/
def lowestBit (m : Word64) : Nat := ((List.range 64).find? fun i => m.getLsbD i).getD 0xFF

/-- MCHK's status and residues (R222). -/
def Bank.checked (k : Bank) (r : CheckResult) : Bank :=
  { k with
    cls := r.cls, why := r.why, rows := r.rows, cols := r.cols, frow := lowestBit r.rows, fcol := lowestBit r.cols
    kr := r.kr, kc := r.kc, fix := false }

def Seat.updBank (x : Seat) (i : Nat) (f : Bank → Bank) : Seat :=
  { x with mat := { x.mat with banks := x.mat.banks.modify i f } }

/-! ### Landings take effect (R68) -/

/-- What a landing does to its seat. -/
def Seat.applyLand (x : Seat) (e : Land) : Seat :=
  match e with
  | .sReg d v => if d = 0 then x else { x with regs := { x.regs with s := x.regs.s.setIfInBounds d v } }
  | .pReg d v =>
    let bit : BitVec 8 := (1 : BitVec 8) <<< d
    { x with regs := { x.regs with p := if v then x.regs.p ||| bit else x.regs.p &&& ~~~bit } }
  | .vReg d v mask =>
    { x with regs := { x.regs with v := x.regs.v.setIfInBounds d ((x.vVal d &&& ~~~mask) ||| (v &&& mask)) } }
  | .aEdge v => { x with mat := { x.mat with a := v } }
  | .bEdge v => { x with mat := { x.mat with b := v } }
  | .remote _ => x
  | .scale block v => { x with mat := { x.mat with scales := x.mat.scales ++ [(block, v)] } }
  | .beat b => x.updBank b.bank fun k => k.accumulate b
  | .clearBank i => x.updBank i Bank.clear
  | .check i r => x.updBank i fun k => k.checked r
  | .pad a bs => x.writeBytes (cellsAt a bs)
  | .arrive i =>
    let b := x.sync.bars.getD i { x := 0, n := 0, b := 0 }
    if b.n.toNat + 1 ≤ 2 ^ 32 - 1 then
      { x with sync := { x.sync with bars := x.sync.bars.set i { b with n := b.n + 1 } } }
    else x

/-- An arrive-on-retire that overflows raises BARRIER_OVERFLOW later (R271). -/
def Seat.arriveOverflow (x : Seat) (l : Landing) : Seat :=
  match l.eff with
  | .arrive i =>
    if (x.sync.bars.getD i { x := 0, n := 0, b := 0 }).n.toNat = 2 ^ 32 - 1 then
      x.latch 0x0D l.slot l.pc (BitVec.ofNat 64 i)
    else x
  | _ => x

/-- One landing takes effect: through its entry for a remote read, which it frees (R159, R165). -/
def Seat.landOne (x : Seat) (l : Landing) : Seat :=
  let y := (x.arriveOverflow l).applyLand (x.target l)
  match l.eff with
  | .remote e => { y with remotes := y.remotes.filter (·.id != e) }
  | _ => y

/-- The landings that a condition picks take effect in order and leave the list. -/
def Seat.landWhere (x : Seat) (p : Landing → Bool) : Seat :=
  (x.landings.filter p).foldl Seat.landOne { x with landings := x.landings.filter fun l => !p l }

/-- Everything due by the seat's present cycle takes effect (R68). -/
def Seat.settle (x : Seat) : Seat := x.landWhere fun l => l.due ≤ x.cycle

/-- A beat whose XADD window is open: an XADD of the issue cycle that comes next, or of a later one, can still meet it (R220).
-/
def Seat.openBeat (x : Seat) (l : Landing) : Bool := match l.eff with | .beat _ => x.cycle ≤ l.issued + 5 | _ => false

/-- The bank that a landing concerns in bank order (R208). -/
def Land.bank : Land → Option Nat
  | .beat b => some b.bank
  | .clearBank i => some i
  | .check i _ => some i
  | _ => none

/-- At a halt, before a save: every result lands, but the beats whose XADD window is open stay, and what follows one of
them in its bank, and a remote result whose request a blocked release still defers (R165, R208, R220, R293). -/
def Seat.settleAll (x : Seat) : Seat :=
  let waits (l : Landing) : Bool := match l.eff with | .remote e => x.remotes.any fun r => r.id == e && !r.arrived | _ => false
  x.landWhere fun l =>
    !waits l && !(l.eff.bank.isSome && x.landings.any fun k => x.openBeat k && k.eff.bank == l.eff.bank && k.due ≤ l.due)

end Sys2Proof.Machine
end

