-- ==== Sys2Proof/Machine/Scratch.lean ====
section
/-! DEFINITION. Scratchpad accesses of the ADR and VLS slots (R161, R166 to R175). -/

namespace Sys2Proof.Machine

/-! ### Scalar accesses (R169, R170) -/

/-- The effective address of the memory-with-step form (R61). -/
def Ctx.ea (c : Ctx) (base : RField) (off : Int) : Except TrapInfo Word64 := do
  let b ← c.base.src base
  return eaOf b off c.acc

/-- A loaded integer of n bytes sign-extended (R169). -/
def loadedWord (n : Nat) (bs : List Byte) : Word64 := BitVec.ofInt 64 (signExtend (8 * n) (leNat bs))

def execLd (t : Tag) (rt base : RField) (_step : BitVec 5) (sz : BitVec 2) (lit : Option Word32) (s : State) : Out :=
  tileOp t (fun c => do
    let ea ← c.ea base (plainOffset lit)
    let n := adrSize sz
    c.base.checkRead ea n n
    return (c.live.landS c.slot 4 rt.toNat (loadedWord n (c.base.padBytes ea.toNat n)), some 4)) s

def execSt (t : Tag) (rt base : RField) (_step : BitVec 5) (sz : BitVec 2) (lit : Option Word32) (s : State) : Out :=
  tileOp t (fun c => do
    let ea ← c.ea base (plainOffset lit)
    let v ← c.base.src rt
    let n := adrSize sz
    let ws := cellsAt ea.toNat (leBytes n v.toNat)
    c.base.checkWrite ea n n ws
    return (c.live.writeBytes ws, some 1)) s

/-- The entry number of a remote read of this execution; two per slot (R159, R204). -/
def Ctx.entry (c : Ctx) (j : Nat) : Nat := c.base.cycle * 16 + c.slot * 2 + j

/-- Landing-buffer entries in use on the seat's tile (R159). -/
def Ctx.landingUse (c : Ctx) : Nat :=
  ((c.live :: c.s.seats.filter fun y => y.id / 4 == c.live.id / 4 && y.id != c.live.id).map
    fun y => (y.remotes.map (·.cost)).foldl (· + ·) 0).foldl (· + ·) 0

/-- Take landing-buffer entries, or hold the tile (R159). -/
def Ctx.needLanding (c : Ctx) (n : Nat) : Except TrapInfo Unit :=
  if 64 < c.landingUse + n then .error holdCycles else .ok ()

/-- A release is pending in the seat (R280). -/
def Seat.releasePending (x : Seat) : Bool := x.sync.relq.any fun d => match d with | .release _ => true | _ => false

/-- A message that is a publishing effect, which a pending release defers (R280). -/
def MsgBody.publishes : MsgBody → Bool
  | .load _ _ _ | .vload _ _ _ _ | .edge _ _ _ => false
  | _ => true

/-- Messages deferred behind a release (R280). -/
def Seat.deferred (x : Seat) : Nat := (x.sync.relq.filter fun d => match d with | .msg _ => true | _ => false).length

/-- A message that would wait in a full release queue holds the tile (R280). -/
def Ctx.needRelease (c : Ctx) : Except TrapInfo Unit :=
  if c.live.releasePending &&
      Config.releaseQueue ≤ c.live.deferred + (c.live.outbox.filter fun m => m.body.publishes).length then .error holdTile
  else .ok ()

/-- A message of this operation; its serial number is given when the execution ends. -/
def Ctx.msg (c : Ctx) (t : Tag) (dst : Nat) (ea : Word64) (body : MsgBody) : Msg where
  serial := 0
  src := c.base.id
  dst := dst
  pc := (c.base.cur.map (·.pc)).getD 0
  slot := c.slot
  ea := ea
  arr := if t.r = 1 then some c.standing.bar.toNat else none
  stamp := none
  body := body
  word := c.standing.word
  lit := c.standing.lit
  cycle := c.base.cycle

/-- A message writes a granule whole. -/
def MsgBody.fillsGranule (b : MsgBody) (g : Nat) : Bool :=
  match b with
  | .store _ ws => (ws.filter fun w => w.1 / 64 == g).length == 64
  | _ => false

/-- A member's pads as a remote access of the seat finds them in the end: a poisoned granule that a message of the same tile to
the same bank, which is performed before it, writes whole is sound by then (R179, R289). -/
def State.seenBy (s : State) (x y : Seat) : Seat :=
  let ms := (s.msgs.filter fun m => m.src / 4 == x.id / 4) ++
    x.sync.relq.filterMap fun d => match d with | .msg m => some m | _ => none
  { y with pads := { y.pads with
    poison := y.pads.poison.filter fun g => !ms.any fun m => m.dst == y.id && m.body.fillsGranule g } }

/-- The scratchpad bytes a message concerns: address and length. -/
def MsgBody.span : MsgBody → Option (Nat × Nat)
  | .store a bs => some (a, ((bs.map fun b => b.1 + 1 - a).foldl max 1))
  | .load a n _ => some (a, n)
  | .vload a _ n _ => some (a, n)
  | .amo a n _ _ _ _ _ => some (a, n)
  | .edge a _ _ => some (a, 128)
  | _ => none

/-- A message to the seat's own slot, as the accesses that follow it see it. -/
def Msg.ownAccess (m : Msg) : Option OwnAccess :=
  if m.src = m.dst then
    m.body.span.map fun p =>
      { addr := p.1, len := p.2, cycle := m.cycle
        write := match m.body with | .store _ _ | .amo _ _ _ _ _ _ _ => true | _ => false
        edge := match m.body with | .edge _ _ _ => true | _ => false }
  else none

def Seat.send (x : Seat) (m : Msg) : Seat :=
  { x with outbox := x.outbox ++ [m], sync := { x.sync with own := x.sync.own ++ m.ownAccess.toList } }

/-- A remote read: its landing waits for the entry's data (R165). -/
def Seat.landRemote (x : Seat) (slot lat cost entry : Nat) (dst : Land) (sc : Bool := false) : Seat :=
  let r : RemoteEntry := { id := entry, cost := cost, dst := dst, arrived := false, sc := sc }
  let y : Seat := { x with remotes := x.remotes ++ [r] }
  y.land slot lat (.remote entry)

/-- LDR (R165, R169). The destination's value is filled in when the data arrives. -/
def execLdr (t : Tag) (rt base : RField) (_step : BitVec 5) (sz : BitVec 2) (lit : Word32) (s : State) : Out :=
  tileOp t (fun c => do
    let ea ← c.ea base (landOffset lit)
    let n := adrSize sz
    let y ← c.s.checkCluster c.base ea n n
    (c.s.seenBy c.live y).checkSound ea [(clusterOffset ea, n)]
    c.needLanding 1
    let e := c.entry 0
    let x := c.live.landRemote c.slot (landDist lit) 1 e (.sReg rt.toNat 0)
    return (x.send (c.msg { t with r := 0 } y.id ea (.load (clusterOffset ea) n e)), some (landDist lit))) s

/-- STR: a posted message (R162, R169). It arrives on retire when it is performed. Poison is found at issue and the owner where
the message is performed, so that SCRATCH_ECC comes before OWNER here, at VSTR and at AMOR (DESIGN CHOICE, log entry 32). -/
def execStr (t : Tag) (rt base : RField) (_step : BitVec 5) (sz : BitVec 2) (lit : Option Word32) (s : State) : Out :=
  tileOp t (fun c => do
    let ea ← c.ea base (plainOffset lit)
    let v ← c.base.src rt
    let n := adrSize sz
    let y ← c.s.checkCluster c.base ea n n
    let ws := cellsAt (clusterOffset ea) (leBytes n v.toNat)
    if (c.s.seenBy c.live y).partialPoison ws then throw (trapAt 0x22 ea)
    c.needRelease
    return (c.live.send { c.msg t y.id ea (.store (clusterOffset ea) ws) with op0 := v }, none)) s

/-- The atomic functions on w-bit values (R170). -/
def amoFn (f w old v cmp : Nat) : Nat :=
  match f with
  | 0 => (old + v) % 2 ^ w
  | 1 => if signExtend w old ≤ signExtend w v then old else v
  | 2 => if signExtend w old ≤ signExtend w v then v else old
  | 3 => old &&& v
  | 4 => old ||| v
  | 5 => old ^^^ v
  | 6 => v
  | 7 => if old = cmp then v else old
  | 8 => min old v
  | _ => max old v

/-- Bytes of an atomic: z is bit 0 of sz, which is 2 or 3 (R170). -/
def amoSize (z : BitVec 1) : Nat := if z = 1 then 8 else 4

/-- The comparand of CAS, S[t+1] (R170). -/
def Ctx.comparand (c : Ctx) (f : BitVec 4) (rt : RField) : Except TrapInfo Word64 :=
  if f = 7 then c.base.src (rt + 1) else .ok 0

def execAmo (t : Tag) (rt base : RField) (f : BitVec 4) (z : BitVec 1) (lit : Option Word32) (s : State) : Out :=
  tileOp t (fun c => do
    let b ← c.base.src base
    let ea := eaOf b (plainOffset lit) 0
    let v ← c.base.src rt
    let cmp ← c.comparand f rt
    let n := amoSize z
    let old := leNat (c.base.padBytes ea.toNat n)
    let new := amoFn f.toNat (8 * n) old (v.toNat % 2 ^ (8 * n)) (cmp.toNat % 2 ^ (8 * n))
    c.base.checkAddr ea n n
    if !c.base.threadOwned ea.toNat n then throw (trapAt 0x09 ea)
    if c.base.ownPending ea.toNat n then throw holdTile
    c.base.checkBytes ea [(ea.toNat, n)]
    let x := c.live.writeBytes (cellsAt ea.toNat (leBytes n new))
    return (x.landS c.slot 4 rt.toNat (BitVec.ofNat 64 old), some 4)) s

/-- AMOR; the SC form needs wheel positions (R170, R295, R297). -/
def execAmor (t : Tag) (rt base : RField) (sc : BitVec 1) (f : BitVec 4) (z : BitVec 1) (lit : Word32) (s : State) : Out :=
  tileOp t (fun c => do
    if sc = 1 && c.base.sync.wheelCnt == 0 then throw (trapAt 0x20 0)
    let b ← c.base.src base
    let ea := eaOf b (landOffset lit) 0
    let v ← c.base.src rt
    let cmp ← c.comparand f rt
    let n := amoSize z
    let y ← c.s.checkCluster c.base ea n n
    (c.s.seenBy c.live y).checkSound ea [(clusterOffset ea, n)]
    c.needLanding 1
    c.needRelease
    let e := c.entry 0
    let x := c.live.landRemote c.slot (landDist lit) 1 e (.sReg rt.toNat 0) (sc == 1)
    let m := c.msg { t with r := 0 } y.id ea (.amo (clusterOffset ea) n f.toNat v cmp e (sc == 1))
    return (x.send { m with stamp := if sc = 1 then c.base.sync.scStamps.head? else none }, some (landDist lit))) s

/-! ### OWN and WPR (R161, R166) -/

/-- The run of an OWN: first pad and count; range before alignment (R161). S[a] >= 2^19 is read unsigned, as an address
(DEDUCED, log entry 27). -/
def Seat.checkOwn (x : Seat) (v : Word64) (n : Nat) : Except TrapInfo Unit :=
  if 2 ^ 19 ≤ v.toNat ∨ x.pads.count < v.toNat / 4096 + n then .error (trapAt 0x0A v)
  else if v.toNat % 4096 ≠ 0 then .error (trapAt 0x0B v)
  else .ok ()

/-- Change the owner of a run of pads. -/
def Seat.setOwners (x : Seat) (first n : Nat) (f : Nat → Owner → Owner) : Seat :=
  { x with pads := { x.pads with
      owner := x.pads.owner.zipIdx.map fun o => if first ≤ o.2 ∧ o.2 < first + n then f o.2 o.1 else o.1 } }

def execOwnEng (t : Tag) (a : RField) (cnt : BitVec 6) (s : State) : Out :=
  tileOp t (fun c => do
    let v ← c.base.src a
    c.base.checkOwn v (cnt.toNat + 1)
    return (c.live.setOwners (v.toNat / 4096) (cnt.toNat + 1) fun _ _ => .engine, some 1)) s

/-- An outstanding command touches a pad of the seat (R161). -/
def Cmd.touches (m : Cmd) (q : Nat) : Bool :=
  (m.reads ++ m.writes).any fun r => r.2 != 0 && r.1 / 4096 ≤ q && q ≤ (r.1 + r.2 - 1) / 4096

/-- A command has accesses to its pads to come: the last byte it delivers ends them (R161, R232; DEDUCED, log entry 28). -/
def Cmd.busy (m : Cmd) : Bool := m.fault.isSome || m.done < m.len

/-- The range of an MCST or CPYS in a seat's pads: source or destination. -/
def State.remoteRange (s : State) (x y : Seat) (m : Cmd) (q : Nat) : Bool :=
  let hit (slot off : Nat) : Bool :=
    slot == y.slotNo && m.len != 0 && off / 4096 ≤ q && q ≤ (off + m.len - 1) / 4096
  x.gang == y.gang && x.die == y.die && x.cluster == y.cluster && (s.seats.any fun z => z.id == y.id) &&
  (match m.op with
    | .cpys => hit (clusterSlot (BitVec.ofNat 64 m.g)) (m.g % 2 ^ 19) || hit (clusterSlot (BitVec.ofNat 64 m.p)) (m.p % 2 ^ 19)
    | .mcst => (List.range 8).any fun i => (BitVec.ofNat 64 m.p).getLsbD (56 + i) && hit i (m.p % 2 ^ 19)
    | _ => false)

/-- The started commands of other seats that have accesses to a pad of the seat to come: seat and serial number. -/
def State.visitors (s : State) (y : Seat) (q : Nat) : List (Nat × Nat) :=
  ((s.seats.filter (·.id != y.id)).map fun x =>
    (x.copy.cmds.filter fun m => m.started && m.busy && s.remoteRange x y m q).map fun m => (x.id, m.serial)).flatten

/-- A pad handed back is RETURNING while a command issued before the hand-back is outstanding on it, of the seat or, once its
accesses have begun, of another seat (R160, R161, R239); else THREAD. -/
def Seat.handBack (x : Seat) (now : Nat) (others : Nat → List (Nat × Nat)) (q : Nat) (o : Owner) : Owner :=
  match o with
  | .engine =>
    if (x.copy.cmds.any fun m => m.serial < now && m.busy && m.touches q) || !(others q).isEmpty then .returning now (others q)
    else .thread
  | o => o

def execOwnThr (t : Tag) (a : RField) (cnt : BitVec 6) (s : State) : Out :=
  tileOp t (fun c => do
    let v ← c.base.src a
    c.base.checkOwn v (cnt.toNat + 1)
    return (c.live.setOwners (v.toNat / 4096) (cnt.toNat + 1) (c.base.handBack c.base.cycle (c.s.visitors c.base)), some 1)) s

def execWpr (t : Tag) (d : RField) (ch : BitVec 7) (s : State) : Out :=
  tileOp t (fun c =>
    .ok (c.live.landS c.slot 1 d.toNat (c.base.copy.chans.getD ch.toNat { issued := 0, w := 0 }).w, some 1)) s

/-! ### Whole granules (R171) -/

/-- The active lanes of an access of n bytes. -/
def activeLanes (mt : Word64) (n : Nat) : List Nat := (List.range (n / 4)).filter fun i => mt.getLsbD i

/-- Lanes read from bytes, with their mask. -/
def lanesOf (mt : Word64) (n : Nat) (bs : List Byte) : VReg × VReg :=
  packElems 32 ((activeLanes mt n).map fun i => (i, leNat ((bs.drop (4 * i)).take 4)))

/-- The bytes that the active lanes write. -/
def laneWrites (mt : Word64) (n a : Nat) (v : VReg) : List (Nat × Byte) :=
  ((activeLanes mt n).map fun i => cellsAt (a + 4 * i) (leBytes 4 (vElem 32 v i))).flatten

/-- The bytes of the active lanes. -/
def laneParts (mt : Word64) (n a : Nat) : List (Nat × Nat) := (activeLanes mt n).map fun i => (a + 4 * i, 4)

/-- An inactive lane neither reads nor writes nor traps: without an active one there is no check at all (R167). -/
def execVld (t : Tag) (rt base : RField) (_step : BitVec 5) (sz : BitVec 2) (lit : Option Word32) (s : State) : Out :=
  tileOp t (fun c => do
    let ea ← c.ea base (plainOffset lit)
    let n := vlsSize sz
    if !(activeLanes c.base.mt n).isEmpty then c.base.checkParts ea n n (laneParts c.base.mt n ea.toNat)
    let r := lanesOf c.base.mt n (c.base.padBytes ea.toNat n)
    return (c.live.landV c.slot 4 rt.toNat r.1 r.2, some 4)) s

def execVst (t : Tag) (rt base : RField) (_step : BitVec 5) (sz : BitVec 2) (lit : Option Word32) (s : State) : Out :=
  tileOp t (fun c => do
    let ea ← c.ea base (plainOffset lit)
    let v ← c.base.vsrc rt
    let n := vlsSize sz
    let ws := laneWrites c.base.mt n ea.toNat v
    if !ws.isEmpty then c.base.checkWrite ea n n ws
    return (c.live.writeBytes ws, some 1)) s

def execVldr (t : Tag) (rt base : RField) (_step : BitVec 5) (sz : BitVec 2) (lit : Word32) (s : State) : Out :=
  tileOp t (fun c => do
    let ea ← c.ea base (landOffset lit)
    let n := vlsSize sz
    let lanes := activeLanes c.base.mt n
    if lanes.isEmpty then return (c.live, some (landDist lit))
    let y ← c.s.checkCluster c.base ea n n
    (c.s.seenBy c.live y).checkSound ea (laneParts c.base.mt n (clusterOffset ea))
    c.needLanding (n / 64)
    let e := c.entry 0
    let x := c.live.landRemote c.slot (landDist lit) (n / 64) e
      (.vReg rt.toNat 0 (packElems 32 (lanes.map fun i => (i, 2 ^ 32 - 1))).1)
    return (x.send (c.msg { t with r := 0 } y.id ea (.vload (clusterOffset ea) lanes n e)), some (landDist lit))) s

def execVstr (t : Tag) (rt base : RField) (_step : BitVec 5) (sz : BitVec 2) (lit : Option Word32) (s : State) : Out :=
  tileOp t (fun c => do
    let ea ← c.ea base (plainOffset lit)
    let v ← c.base.vsrc rt
    let n := vlsSize sz
    if (activeLanes c.base.mt n).isEmpty then return (c.live, some 1)
    let y ← c.s.checkCluster c.base ea n n
    let ws := laneWrites c.base.mt n (clusterOffset ea) v
    if (c.s.seenBy c.live y).partialPoison ws then throw (trapAt 0x22 ea)
    c.needRelease
    return (c.live.send (c.msg t y.id ea (.store (clusterOffset ea) ws)), none)) s

/-! ### Element accesses (R172 to R175) -/

/-- The first element whose check fails decides the trap (R172). -/
def checkElems (f : Word64 → Except TrapInfo Unit) : List (Nat × Word64) → Except TrapInfo Unit
  | [] => .ok ()
  | e :: r => do f e.2; checkElems f r

/-- Elements of w bytes read from their addresses. -/
def Seat.gather (x : Seat) (w : Nat) (es : List (Nat × Word64)) : VReg × VReg :=
  packElems (8 * w) (es.map fun e => (e.1, leNat (x.padBytes e.2.toNat w)))

/-- Elements of w bytes as writes; of equal addresses the highest element stays (R172). -/
def scatterWrites (w : Nat) (v : VReg) (es : List (Nat × Word64)) : List (Nat × Byte) :=
  (es.map fun e => cellsAt e.2.toNat (leBytes w (vElem (8 * w) v e.1))).flatten

/-- A later write of the same byte replaces an earlier one. -/
def lastWrites (ws : List (Nat × Byte)) : List (Nat × Byte) :=
  ws.foldr (fun w acc => if acc.any (·.1 == w.1) then acc else w :: acc) []

/-- The active elements of a strided access with their addresses (R172). -/
def strided (mt : Word64) (w : Nat) (ea : Word64) (stride : Int) : List (Nat × Word64) :=
  ((List.range 64).filter (active mt (8 * w))).map fun j => (j, ea + BitVec.ofInt 64 (j * stride))

/-- The active elements of a gathered access: offsets from the lanes of V[b] (R173). -/
def gathered (mt : Word64) (w : Nat) (base : Word64) (offs : VReg) : List (Nat × Word64) :=
  ((List.range 64).filter (active mt (8 * w))).map fun j => (j, base + BitVec.ofNat 64 (vElem 32 offs j))

def loadElems (c : Ctx) (d w : Nat) (es : List (Nat × Word64)) : Except TrapInfo (Seat × Option Nat) := do
  checkElems (fun a => c.base.checkRead a w w) es
  let r := c.base.gather w es
  return (c.live.landV c.slot 6 d r.1 r.2, some 6)

def storeElems (c : Ctx) (v : VReg) (w : Nat) (es : List (Nat × Word64)) : Except TrapInfo (Seat × Option Nat) := do
  let ws := lastWrites (scatterWrites w v es)
  checkElems (fun a => c.base.checkWrite a w w (ws.filter fun b => b.1 / 64 == a.toNat / 64)) es
  return (c.live.writeBytes ws, some 1)

def execVlds (t : Tag) (rt base : RField) (_step : BitVec 5) (sz : BitVec 2) (lit : Word32) (s : State) : Out :=
  tileOp t (fun c => do
    let ea ← c.ea base (strideOffset lit)
    loadElems c rt.toNat (2 ^ sz.toNat) (strided c.base.mt (2 ^ sz.toNat) ea (strideOf lit))) s

def execVsts (t : Tag) (rt base : RField) (_step : BitVec 5) (sz : BitVec 2) (lit : Word32) (s : State) : Out :=
  tileOp t (fun c => do
    let ea ← c.ea base (strideOffset lit)
    let v ← c.base.vsrc rt
    storeElems c v (2 ^ sz.toNat) (strided c.base.mt (2 ^ sz.toNat) ea (strideOf lit))) s

def execVgth (t : Tag) (d a b : RField) (m : BitVec 1) (s : State) : Out :=
  tileOp t (fun c => do
    let x ← c.base.src a
    let v ← c.base.vsrc b
    let w := if m = 1 then 2 else 4
    loadElems c d.toNat w (gathered c.base.mt w x v)) s

def execVsct (t : Tag) (d a b : RField) (m : BitVec 1) (s : State) : Out :=
  tileOp t (fun c => do
    let x ← c.base.src a
    let v ← c.base.vsrc b
    let src ← c.base.vsrc d
    let w := if m = 1 then 2 else 4
    storeElems c src w (gathered c.base.mt w x v)) s

/-- A row's address, the sum exact (R8): one that is no address of 64 bits is out of range (R155). -/
def Seat.rowAddr (x y : Word64) (r : Nat) : Int := x.toInt + r * y.toInt

/-- The checks of a VTRP row: every active element in range, the row aligned to w, then the bytes that the active elements
read (R155, R157, R167, R174). -/
def Seat.checkRow (x : Seat) (a : Int) (w : Nat) (cols : List Nat) : Except TrapInfo Unit :=
  let ea := BitVec.ofInt 64 a
  let es := cols.map fun c => a + (c * w : Nat)
  if es.isEmpty then .ok ()
  else if !(es.all fun e => 0 ≤ e && x.inRange e.toNat w) then .error (trapAt 0x0A ea)
  else if a % w ≠ 0 then .error (trapAt 0x0B ea)
  else x.checkBytes ea (es.map fun e => (e.toNat, w))

/-- VTRP: rows of C elements of w bytes; element (c, r) of the rows becomes element 8c + r of V[d] (R174). An element that
the mask leaves out neither reads nor traps (R167). -/
def execVtrp (t : Tag) (d a b : RField) (m : BitVec 1) (s : State) : Out :=
  tileOp t (fun c => do
    let x ← c.base.src a
    let y ← c.base.src b
    let cols := if m = 1 then 8 else 16
    let w := if m = 1 then 4 else 2
    let act := fun r => (List.range cols).filter fun col => active c.base.mt (8 * w) (col * 8 + r)
    (List.range 8).forM fun r => c.base.checkRow (Seat.rowAddr x y r) w (act r)
    let es := ((List.range 8).map fun r => (act r).map fun col =>
      (col * 8 + r, BitVec.ofInt 64 (Seat.rowAddr x y r + (col * w : Nat)))).flatten
    let v := c.base.gather w es
    return (c.live.landV c.slot 6 d.toNat v.1 v.2, some 6)) s

/-- A dense group of four from its two values and its nibble (R175, R240). -/
def expandGroup (k v0 v1 : Nat) : List Nat :=
  (List.range 4).map fun i => if k / 4 % 4 = i then v1 else if k % 4 = i then v0 else 0

/-- VLDX (R175): lane i of V[t] is half of group i div 2, whose values and nibble it reads. The index plane's (offset + acc)/8 is
rounded down where the sum is no multiple of 8 (DESIGN CHOICE, log entry 32). -/
def execVldx (t : Tag) (rt base : RField) (_step : BitVec 5) (lit : Option Word32) (s : State) : Out :=
  tileOp t (fun c => do
    let ea ← c.ea base (plainOffset lit)
    let b1 ← c.base.src (base + 1)
    let ix := b1 + BitVec.ofInt 64 ((plainOffset lit + c.acc) / 8)
    let lanes := activeLanes c.base.mt 256
    if !lanes.isEmpty then
      c.base.checkAddr ea 128 128
      c.base.checkAddr ix 16 16
      c.base.checkParts ea 128 128 (lanes.map fun i => (ea.toNat + 4 * (i / 2), 4))
      c.base.checkParts ix 16 16 (lanes.map fun i => (ix.toNat + i / 4, 1))
    let vals := c.base.padBytes ea.toNat 128
    let idx := leNat (c.base.padBytes ix.toNat 16)
    let val := fun u => leNat ((vals.drop (2 * u)).take 2)
    let dense := ((List.range 32).map fun g => expandGroup (idx / 16 ^ g % 16) (val (2 * g)) (val (2 * g + 1))).flatten
    let v := packElems 16 (dense.zipIdx.map fun e => (e.2, e.1))
    return (c.live.landV c.slot 5 rt.toNat v.1 (laneMask c.base.mt), some 5)) s

end Sys2Proof.Machine
end

