-- ==== Sys2Proof/Machine/Mat.lean ====
section
/-! DEFINITION. The MAT and EXP slots (R201 to R226). -/

namespace Sys2Proof.Machine

/-! ### Common checks (R206, R208, R210) -/

/-- The bank a seat holds under a number, else BANK_UNALLOTTED (R206). -/
def Seat.bank (x : Seat) (i : Nat) : Except TrapInfo Bank :=
  match x.mat.banks[i]? with
  | some b => .ok b
  | none => .error (trapAt 0x0C 0)

/-- With CHKCTL.EN = 1, reading a bank before its producers have taken effect raises UNDERSIZED_STALL (R208). -/
def Seat.checkBank (x : Seat) (i : Nat) (results : Bool) : Except TrapInfo Unit :=
  x.checkLanded fun e =>
    match e with
    | .beat b => b.bank == i
    | .clearBank j => j == i
    | .check j _ => results && j == i
    | _ => false

/-- Bytes of a command's range that it has yet to access: copies go in dense order (R163, R232). -/
def Cmd.rest (m : Cmd) (r : Nat × Nat) : Nat × Nat :=
  match m.op with
  | .cpyi | .cpyo | .cpys | .cpyx | .cpyr | .cpyl => (r.1 + m.done, r.2 - m.done)
  | _ => r

/-- Two ranges rounded out to granules meet (R163). -/
def rangesMeet (p q : Nat × Nat) : Bool :=
  p.2 != 0 && q.2 != 0 && p.1 / 64 ≤ (q.1 + q.2 - 1) / 64 && q.1 / 64 ≤ (p.1 + p.2 - 1) / 64

/-- An operand-stream read or a drain write meets an earlier outstanding access and holds the tile: of a command (one that
ended in a fault has none), a deposit, a drain's write, or a remote access to the seat's own slot (R163, R164). -/
def Seat.needRange (x : Seat) (write : Bool) (r : Nat × Nat) : Except TrapInfo Unit :=
  if x.copy.cmds.any fun m => m.fault.isNone &&
      ((m.writes.any fun w => rangesMeet (m.rest w) r) || (write && m.reads.any fun w => rangesMeet (m.rest w) r)) then
    .error holdTile
  else if x.copy.waits.any fun w => rangesMeet (w.pad, w.size) r then .error holdTile
  else if x.sync.own.any fun o => rangesMeet (o.addr, o.len) r then .error holdTile
  else if x.landings.any fun l => match l.eff with | .pad a bs => rangesMeet (a, bs.length) r | _ => false then
    .error holdCycles
  else .ok ()

/-- Slots of the operand queue in use on the seat's tile: beats in flight and edges from the cluster (R204). -/
def Ctx.queueUse (c : Ctx) : Nat :=
  ((c.live :: c.s.seats.filter fun y => y.id / 4 == c.live.id / 4 && y.id != c.live.id).map fun y =>
    (y.landings.filter fun l => match y.target l with | .beat _ | .aEdge _ | .bEdge _ => l.eff != y.target l || (match l.eff with | .beat _ => true | _ => false) | _ => false).length).foldl (· + ·) 0

def Ctx.needQueue (c : Ctx) (n : Nat) : Except TrapInfo Unit :=
  if Config.queueSlots < c.queueUse + n then .error holdCycles else .ok ()

/-- n bytes of the pads as a number. -/
def Seat.padNat (x : Seat) (a n : Nat) : Nat := leNat (x.padBytes a n)

/-- The address of a streamed operand: S[f] + acc × step × unit (R209). -/
def Ctx.stream (c : Ctx) (f : RField) (step : Int) (unit : Nat) : Except TrapInfo Word64 := do
  let b ← c.base.src f
  return b + BitVec.ofInt 64 (c.acc * step * unit)

/-- An operand stream: address, length, alignment. -/
abbrev Stream := Word64 × Nat × Nat

/-- The checks of an operation's operand streams in the order of R210: every range, every alignment, then the waits of R164
and the bytes. -/
def Seat.checkStreams (x : Seat) (rs : List Stream) : Except TrapInfo Unit := do
  rs.forM fun r => if x.inRange r.1.toNat r.2.1 then .ok () else .error (trapAt 0x0A r.1)
  rs.forM fun r => if r.1.toNat % r.2.2 = 0 then .ok () else .error (trapAt 0x0B r.1)
  rs.forM fun r => x.needRange false (r.1.toNat, r.2.1)
  rs.forM fun r => x.checkBytes r.1 [(r.1.toNat, r.2.1)]

/-! ### MPUSH (R205, R211) -/

/-- The addresses of the edges that an MPUSH loads from memory (R211). -/
def Ctx.pushEas (c : Ctx) (es : List (BitVec 1 × RField × Int)) : Except TrapInfo (List Word64) :=
  (es.filter fun e => e.1 == 1).mapM fun e => c.stream e.2.1 e.2.2 128

/-- The checks of edges read from the cluster, in the order of R210; an edge of the own slot waits as an operand stream does
(R163, R164). -/
def Ctx.checkCluEdges (c : Ctx) (eas : List Word64) : Except TrapInfo Unit := do
  let ys ← eas.mapM fun ea => c.s.clusterPlace c.base ea 128
  eas.forM fun ea => if clusterOffset ea % 128 = 0 then .ok () else .error (trapAt 0x0B ea)
  (eas.zip ys).forM fun p => do
    if p.2.id = c.base.id then c.base.needRange false (clusterOffset p.1, 128)
    (c.s.seenBy c.live p.2).checkSound p.1 [(clusterOffset p.1, 128)]

/-- One edge of an MPUSH, its address checked. -/
def Ctx.pushEdge (c : Ctx) (x : Seat) (load : BitVec 1) (kind : BitVec 2) (f : RField) (step : Int) (j : Nat)
    (mk : BitVec 1024 → Land) : Except TrapInfo Seat := do
  if load = 0 then return x
  if kind = 3 then
    let v ← c.base.vsrc f
    return x.land c.slot 2 (mk (v.setWidth 1024))
  else
    let ea ← c.stream f step 128
    if kind = 0 then
      return x.land c.slot 2 (mk (BitVec.ofNat 1024 (c.base.padNat ea.toNat 128)))
    else
      let y ← c.s.clusterPlace c.base ea 128
      let e := c.entry j
      return (x.landRemote c.slot 24 0 e (mk 0)).send
        (c.msg { o := 0, r := 0, p := 0 } y.id ea (.edge (clusterOffset ea) e (kind == 2)))

def execMpush (t : Tag) (a b : RField) (kind : BitVec 2) (la lb : BitVec 1) (lit : Option Word32) (s : State) : Out :=
  tileOp t (fun c => do
    if kind ≠ 3 then
      let eas ← c.pushEas [(la, a, aStep lit), (lb, b, bStep lit)]
      if kind = 0 then c.base.checkStreams (eas.map fun ea => (ea, 128, 128)) else c.checkCluEdges eas
    if kind = 1 ∨ kind = 2 then c.needQueue (la.toNat + lb.toNat)
    let x ← c.pushEdge c.live la kind a (aStep lit) 0 .aEdge
    let y ← c.pushEdge x lb kind b (bStep lit) 1 .bEdge
    return (y, some (if kind = 1 ∨ kind = 2 then 24 else 2))) s

/-! ### Beats (R202, R207, R213, R214, R219) -/

/-- The scale edge of a beat at positions kpos to kpos + n - 1 (R219). -/
def Ctx.scaleEdge (c : Ctx) (n : Nat) : Except TrapInfo (BitVec 1024) :=
  let x := c.base
  let b := x.mat.kpos / 32
  if (x.mat.kpos + n - 1) / 32 ≠ b then .error formatTrap
  else match x.mat.scales.find? (·.1 == b) with
    | some e => .ok e.2
    | none =>
      match (if x.sys.chk then
          x.landings.find? fun l => match l.eff with | .scale k _ => k == b | _ => false else none) with
      | some l => .error { cause := 0x05, addr := 0, ppc := l.pc, pslot := l.slot }
      | none => .error formatTrap

/-- In integer mode every scale must be 127 or more and no NaN (R34). -/
def scalesFit (r : Nat) (v : BitVec 1024) : Bool :=
  (List.range r).all fun i =>
    let p := (v.extractLsb' (8 * i) 8).toNat
    let q := (v.extractLsb' (512 + 8 * i) 8).toNat
    127 ≤ p && p != 255 && 127 ≤ q && q != 255

/-- Entries for blocks below b are dropped (R219). -/
def Seat.dropScales (x : Seat) (b : Nat) : Seat :=
  { x with mat := { x.mat with scales := x.mat.scales.filter fun e => b ≤ e.1 } }

/-- kpos advances for every issue of a beat while SCM = 2, executed or not (R219). -/
def Seat.advanceK (x : Seat) (fmt : Word64) (n : Nat) : Seat :=
  if Fmt.scm fmt = 2 then { x with mat := { x.mat with kpos := x.mat.kpos + n } } else x

/-- The positions a beat of FMT's types covers: κ, or 2κ for MACS (R219). -/
def kSpan (fmt : Word64) (sparse : Bool) : Nat :=
  kappaOf (Fmt.atype fmt).toNat (Fmt.btype fmt).toNat * (if sparse then 2 else 1)

/-- The standing MACC or MACS is at a dead position of the bitmap (R216). -/
def Seat.dead (x : Seat) : Bool :=
  let m := x.standing.getD 5 { word := 0, lit := 0, bar := 0, acc := 0 }
  let op := (m.word.extractLsb' 23 6).toNat
  2 ≤ Fmt.spm x.regs.fmt && (op == 3 || op == 4) && m.acc.toNat < 512 && !x.mat.bitmap.getLsbD m.acc.toNat

/-- The tag of a beat of MACC or MACS: at a dead position it acts as predicated false (R216). -/
def Seat.beatTag (x : Seat) (t : Tag) : Tag := if x.dead then { t with p := 8 } else t

/-- An operation that holds a beat: kpos advances, then the operation of the slot. -/
def beatOp (t : Tag) (sparse : Bool) (body : Ctx → Except TrapInfo (Seat × Option Nat)) (s : State) : Out :=
  match s.cursor with
  | some (.seat k _ base) =>
    match s.seat? k with
    | some live => tileOp (base.beatTag t) body (s.putSeat (live.advanceK base.regs.fmt (kSpan base.regs.fmt sparse)))
    | none => .refused .noExecution
  | _ => .refused .noExecution

/-- The checks of a beat before its operands are read: mode, bank, sparse mode, scales (R202, R206, R207, R210). With SCM = 2 a
block scale below 127 or 0xFF raises FORMAT in every integer mode: R34 says so of DSW8 products, and R32 gives no integer result
(DESIGN CHOICE, log entry 29). -/
def Ctx.beatCheck (c : Ctx) (bank : Nat) (sparse : Bool) : Except TrapInfo (BeatMode × BitVec 1024) := do
  let k ← c.base.bank bank
  let fmt := c.base.regs.fmt
  let m ← beatMode (Fmt.atype fmt).toNat (Fmt.btype fmt).toNat (Fmt.acm fmt)
  if k.issMode ≠ .unset ∧ (k.issMode ≠ m.mode ∨ k.issRw ≠ m.r) then throw formatTrap
  if sparse then
    let a := (Fmt.atype fmt).toNat
    let b := (Fmt.btype fmt).toNat
    if !((a == 0xA && b == 0xA) || (a == 0xB && b == 0xB) || (isFp8 a && isFp8 b)) then throw formatTrap
    if Fmt.spm fmt ≠ 1 ∧ Fmt.spm fmt ≠ 3 then throw formatTrap
  else if Fmt.spm fmt ≠ 0 ∧ Fmt.spm fmt ≠ 2 then throw formatTrap
  let sc ← if Fmt.scm fmt = 2 then c.scaleEdge (kSpan fmt sparse) else pure 0
  if Fmt.scm fmt = 2 ∧ m.mode ≠ .float ∧ !scalesFit m.r sc then throw formatTrap
  return (m, sc)

/-- A beat issues: it accumulates eight issue cycles on (R205, R208). -/
def Ctx.issueBeat (c : Ctx) (x : Seat) (bank : Nat) (sparse : Bool) (m : BeatMode) (sc : BitVec 1024) (a : BitVec 1280)
    (b : BitVec 2048) : Seat :=
  let fmt := c.base.regs.fmt
  let h := ((c.base.mat.banks[bank]?).map (·.h)).getD 0
  let beat : Beat :=
    { bank := bank, sparse := sparse, atype := Fmt.atype fmt, btype := Fmt.btype fmt, mode := m.mode, h := h, a := a
      b := b, scaled := Fmt.scm fmt == 2, scales := sc, xadd := 0, cke := Fmt.cke fmt, word := c.standing.word }
  let y := x.updBank bank fun k => { k with issMode := m.mode, issRw := m.r }
  (if Fmt.scm fmt = 2 then y.dropScales (c.base.mat.kpos / 32) else y).land c.slot 8 (.beat beat)

/-- The operand stream of an edge: none where it is held or comes from a register. -/
def Ctx.edgeStream (c : Ctx) (f : RField) (hold v : BitVec 1) (step : Int) (n : Nat) : Except TrapInfo (List Stream) := do
  if hold = 1 ∨ v = 1 then return []
  let ea ← c.stream f step n
  return [(ea, n, n)]

/-- A fed or held dense edge, its stream checked: V register, scratchpad, or the edge as it stands (R205, R213). -/
def Ctx.denseEdge (c : Ctx) (f : RField) (hold v : BitVec 1) (step : Int) (held : BitVec 1024) (hit : Land → Bool) :
    Except TrapInfo (BitVec 1024) := do
  if hold = 1 then
    c.base.checkLanded hit
    return held
  else if v = 1 then
    let r ← c.base.vsrc f
    return r.setWidth 1024
  else
    let ea ← c.stream f step 128
    return BitVec.ofNat 1024 (c.base.padNat ea.toNat 128)

def isAEdge : Land → Bool | .aEdge _ => true | _ => false
def isBEdge : Land → Bool | .bEdge _ => true | _ => false

def execMacc (t : Tag) (bank : BitVec 2) (a b : RField) (ha hb av bv : BitVec 1) (lit : Option Word32) (s : State) : Out :=
  beatOp t false (fun c => do
    let (m, sc) ← c.beatCheck bank.toNat false
    c.base.checkStreams ((← c.edgeStream a ha av (aStep lit) 128) ++ (← c.edgeStream b hb bv (bStep lit) 128))
    c.needQueue 1
    let ea ← c.denseEdge a ha av (aStep lit) c.base.mat.a isAEdge
    let eb ← c.denseEdge b hb bv (bStep lit) c.base.mat.b isBEdge
    let x : Seat := { c.live with mat := { c.live.mat with a := ea, b := eb } }
    return (c.issueBeat x bank.toNat false m sc (ea.setWidth 1280) (eb.setWidth 2048), some 8)) s

/-- The streams of a sparse A edge: values and indices (R214). -/
def Ctx.sparseStreams (c : Ctx) (a : RField) (ha av : BitVec 1) (step : Int) (k : Nat) : Except TrapInfo (List Stream) := do
  if ha = 1 ∨ av = 1 then return []
  let ea ← c.stream a step 128
  let ix ← c.stream (a + 1) step (16 * k)
  return [(ea, 128, 128), (ix, 16 * k, 16 * k)]

/-- The sparse A edge, its streams checked: values and 16κ bytes of indices (R214). -/
def Ctx.sparseA (c : Ctx) (a : RField) (ha av : BitVec 1) (step : Int) (k : Nat) : Except TrapInfo (BitVec 1280) := do
  if ha = 1 then return c.base.mat.sa
  else if av = 1 then
    let r ← c.base.vsrc a
    return r.setWidth 1280
  else
    let ea ← c.stream a step 128
    let ix ← c.stream (a + 1) step (16 * k)
    return BitVec.ofNat 1280 (c.base.padNat ea.toNat 128 + c.base.padNat ix.toNat (16 * k) * 2 ^ 1024)

def Ctx.sparseB (c : Ctx) (b : RField) (hb bv : BitVec 1) (step : Int) : Except TrapInfo (BitVec 2048) := do
  if hb = 1 then return c.base.mat.sb
  else if bv = 1 then c.base.vsrc b
  else
    let ea ← c.stream b step 256
    return BitVec.ofNat 2048 (c.base.padNat ea.toNat 256)

def execMacs (t : Tag) (bank : BitVec 2) (a b : RField) (ha hb av bv : BitVec 1) (lit : Option Word32) (s : State) : Out :=
  beatOp t true (fun c => do
    let (m, sc) ← c.beatCheck bank.toNat true
    c.base.checkStreams ((← c.sparseStreams a ha av (aStep lit) m.kappa) ++ (← c.edgeStream b hb bv (bStep lit) 256))
    c.needQueue 1
    let ea ← c.sparseA a ha av (aStep lit) m.kappa
    let eb ← c.sparseB b hb bv (bStep lit)
    let x : Seat := { c.live with mat := { c.live.mat with sa := ea, sb := eb } }
    return (c.issueBeat x bank.toNat true m sc ea eb, some 8)) s

/-- MSHIFT: rows of the A edge move towards row 0 and a new slice enters; with BE a beat follows (R212). -/
def shiftBody (bank : BitVec 2) (a b : RField) (be hb sv bv : BitVec 1) (lit : Option Word32) (c : Ctx) :
    Except TrapInfo (Seat × Option Nat) := do
  let fmt := c.base.regs.fmt
  let (m, sc) ←
    if be = 1 then c.beatCheck bank.toNat false
    else do
      let m ← beatMode (Fmt.atype fmt).toNat (Fmt.btype fmt).toNat (Fmt.acm fmt)
      pure (m, 0)
  let es := m.kappa * elemSize (Fmt.atype fmt).toNat
  c.base.checkLanded isAEdge
  let beatB ← if be = 1 then c.edgeStream b hb bv (bStep lit) 128 else pure []
  c.base.checkStreams ((← c.edgeStream a 0 sv (aStep lit) es) ++ beatB)
  if be = 1 then c.needQueue 1
  let new ←
    if sv = 1 then do
      let v ← c.base.src a
      pure (v.toNat % 2 ^ (8 * es))
    else do
      let ea ← c.stream a (aStep lit) es
      pure (c.base.padNat ea.toNat es)
  let keep := c.base.mat.a.toNat % 2 ^ (8 * es * m.r)
  let rows := keep / 2 ^ (8 * es) + new * 2 ^ (8 * es * (m.r - 1))
  let edge : BitVec 1024 := BitVec.ofNat 1024 (c.base.mat.a.toNat / 2 ^ (8 * es * m.r) * 2 ^ (8 * es * m.r) + rows)
  let x : Seat := { c.live with mat := { c.live.mat with a := edge } }
  if be = 1 then
    let eb ← c.denseEdge b hb bv (bStep lit) c.base.mat.b isBEdge
    let y : Seat := { x with mat := { x.mat with b := eb } }
    return (c.issueBeat y bank.toNat false m sc (edge.setWidth 1280) (eb.setWidth 2048), some 8)
  else return (x, some 1)

def execMshift (t : Tag) (bank : BitVec 2) (a b : RField) (be hb sv bv : BitVec 1) (lit : Option Word32) (s : State) : Out :=
  if be = 1 then beatOp t false (shiftBody bank a b be hb sv bv lit) s
  else tileOp t (shiftBody bank a b be hb sv bv lit) s

/-! ### Draining, clearing (R41, R217, R218) -/

/-- The value of an entry by bank mode; an unset bank drains zeros (R41, R217). -/
def entryValue (mode : BankMode) (ftzi : Bool) (e : Acc72) : Ext :=
  match mode with
  | .unset => .zero false
  | .float => decodeFlush ftzi acc72 e.toNat
  | .int => Ext.ofInt e.toInt
  | .intScaled => (Ext.ofInt e.toInt).scale (-6)

/-- The drained sums of row NDRN (R221). -/
def Bank.drainSums (k : Bank) (r : Nat) (es : List Ext) : Bank :=
  { k with
    dr := k.dr.setIfInBounds k.ndrn (rne32 (match es with | [] => .zero false | e :: l => exactSum e l))
    dc := mapFirst r k.dc fun j v => rne32 (Ext.add false (val32 v) (es.getD j (.zero false))) }

/-- The row leaves the bank: the physical row is zeroed and the head advances (R217). -/
def Bank.drainRow (k : Bank) (r : Nat) (es : List Ext) : Bank :=
  let k1 := if k.ndrn < 64 then k.drainSums r es else { k with ovr := true }
  { k1 with
    entries := k1.entries.filter fun e => e.1 / 64 != k.h
    h := (k.h + 1) % 64, ndrn := min (k.ndrn + 1) 64
    nonFinite := k1.nonFinite || es.any fun e => !e.isFinite }

def execMdrain (t : Tag) (bank : BitVec 2) (a : RField) (dv : BitVec 1) (lit : Option Word32) (s : State) : Out :=
  tileOp t (fun c => do
    let k ← c.base.bank bank.toNat
    c.base.checkBank bank.toNat false
    let fmt := c.base.regs.fmt
    let df := Fmt.df fmt
    let r := if k.mode = .unset then 64 else k.rw
    let rb := r * elemSize df
    if df = 0xE ∨ (dv = 1 ∧ 256 < rb) then throw formatTrap
    let (z, live) ← c.live.popIf (Fmt.rm fmt)
    let raw := (List.range r).map fun j => lookupAcc k.entries (64 * k.h + j)
    let out := raw.zipIdx.map fun e =>
      roundElem df (Fmt.rm fmt) (slice z e.2) (Fmt.ftzo fmt) (entryValue k.mode (Fmt.ftzi fmt) e.1)
    let x := live.updBank bank.toNat fun q => q.drainRow r (raw.map (entryValue k.mode false))
    if dv = 1 then
      let v := packElems (8 * elemSize df) (out.zipIdx.map fun e => (e.2, e.1))
      return (x.landV c.slot 6 a.toNat v.1 v.2, some 6)
    else
      let ea ← c.stream a (aStep lit) rb
      let bs := (out.map fun v => leBytes (elemSize df) v).flatten
      c.base.checkTarget ea rb (min rb 256)
      c.base.needRange true (ea.toNat, rb)
      c.base.checkTorn ea (cellsAt ea.toNat bs)
      return (x.land c.slot 10 (.pad ea.toNat bs), some 10)) s

def execMclr (t : Tag) (bank : BitVec 2) (s : State) : Out :=
  tileOp t (fun c => do
    let _ ← c.base.bank bank.toNat
    let x := c.live.updBank bank.toNat fun k => { k with issMode := .unset, issRw := 0 }
    return (x.land c.slot 8 (.clearBank bank.toNat), some 8)) s

/-- MBMAP: the new bitmap governs from the next bundle on (R215). -/
def execMbmap (t : Tag) (a : RField) (h : BitVec 1) (s : State) : Out :=
  tileOp t (fun c => do
    let ea ←
      if h = 1 then do
        let r ← c.base.hsrc a.toNat
        pure ((hField r 12).setWidth 64)
      else c.base.src a
    c.base.checkStreams [(ea, 64, 64)]
    let v : BitVec 512 := BitVec.ofNat 512 (c.base.padNat ea.toNat 64)
    return ({ c.live with mat := { c.live.mat with bitmapNext := some v } }, some 1)) s

/-! ### Checking and fixing (R222 to R225) -/

/-- γ as an exponent of two (R184, R222). -/
def gammaExp (gam : Nat) : Int :=
  match gam with
  | 1 => -8
  | 2 => -16
  | 3 => -20
  | _ => -12

def infinite (v : Vector Word32 64) : Bool :=
  (List.range 64).any fun i => match val32 (v.getD i 0) with | .inf _ => true | _ => false

/-- A residue and whether it fails its tolerance (R222). -/
def residue (dr rc mr : Word32) (gam : Nat) : Word32 × Bool :=
  let k := rne32 (Ext.sub false (val32 dr) (val32 rc))
  (k, Ext.lt ((val32 mr).scale (gammaExp gam)) (val32 k).abs)

/-- MCHK's classification (R222). -/
def Bank.classify (k : Bank) (gam : Nat) : CheckResult :=
  let z : Vector Word32 64 := Vector.replicate 64 0
  let un (why : Nat) : CheckResult := { cls := 3, why := why, rows := 0, cols := 0, kr := z, kc := z }
  let r := if k.mode = .unset then 64 else k.rw
  if k.mode = .int ∨ k.mode = .intScaled then un 4
  else if k.unck then un 5
  else if k.ovr then un 6
  else if k.ndrn < r then un 3
  else if k.nonFinite then un 1
  else if infinite k.cc || infinite k.rc || infinite k.mc || infinite k.mr || infinite k.dr || infinite k.dc then un 2
  else
    let row := fun i => residue (k.dr.getD i 0) (k.rc.getD i 0) (k.mr.getD i 0) gam
    let col := fun j => residue (k.dc.getD j 0) (k.cc.getD j 0) (k.mc.getD j 0) gam
    let mask := fun (f : Nat → Word32 × Bool) =>
      (List.range r).foldl (fun (m : Word64) i => if (f i).2 then m ||| ((1 : Word64) <<< i) else m) 0
    let rows := mask row
    let cols := mask col
    { cls := if rows == 0 && cols == 0 then 1 else 2, why := 0, rows := rows, cols := cols
      kr := mapFirst r z fun i _ => (row i).1, kc := mapFirst r z fun j _ => (col j).1 }

/-- MCHK: status and residues two issue cycles on; with CKT a FAIL raises CHECKSUM after the status is written, which no result of
an earlier MCHK of the bank that is on its way overwrites (R222). -/
def execMchk (t : Tag) (bank : BitVec 2) (s : State) : Out :=
  tileOp t (fun c => do
    let k ← c.base.bank bank.toNat
    c.base.checkBank bank.toNat false
    let fmt := c.base.regs.fmt
    let r := k.classify (Fmt.gam fmt)
    if Fmt.ckt fmt ∧ r.cls = 2 then
      let older (l : Landing) : Bool := match l.eff with | .check b _ => b == bank.toNat | _ => false
      let x := ({ c.live with landings := c.live.landings.filter fun l => !older l } : Seat).updBank bank.toNat fun q => q.checked r
      let addr := BitVec.ofNat 64 (lowestBit r.cols * 256 + lowestBit r.rows)
      return ({ x with after := some (trapAt 0x1A addr, c.slot) }, some 2)
    else return (c.live.land c.slot 2 (.check bank.toNat r), some 2)) s

/-- MFIX corrects the one entry a single failing row and column name; its address is the exact sum (R8, R223). FTZO flushes the
new element, as round_to of R223 does, and FTZI does not flush the one it reads (DESIGN CHOICE, log entry 29). -/
def execMfix (t : Tag) (bank : BitVec 2) (a b : RField) (s : State) : Out :=
  tileOp t (fun c => do
    let k ← c.base.bank bank.toNat
    c.base.checkBank bank.toNat true
    let fmt := c.base.regs.fmt
    let df := Fmt.df fmt
    let sa ← c.base.src a
    let sb ← c.base.src b
    if df = 0xE then throw formatTrap
    if k.cls ≠ 2 ∨ popcBits 64 k.rows.toNat ≠ 1 ∨ popcBits 64 k.cols.toNat ≠ 1 ∨ k.fix then
      return (c.live, some 1)
    let n := elemSize df
    let sum := Seat.rowAddr sa sb k.frow + (k.fcol * n : Nat)
    let ea := BitVec.ofInt 64 sum
    if sum < 0 ∨ 2 ^ 64 ≤ sum then throw (trapAt 0x0A ea)
    c.base.checkAddr ea n n
    if !c.base.threadOwned ea.toNat n then throw (trapAt 0x09 ea)
    if c.base.ownPending ea.toNat n then throw holdTile
    c.base.checkBytes ea [(ea.toNat, n)]
    let old := decodeElem false df (c.base.padNat ea.toNat n)
    let new := roundElem df .rne 0 (Fmt.ftzo fmt) (Ext.sub false old (val32 (k.kr.getD k.frow 0)))
    let x := c.live.writeBytes (cellsAt ea.toNat (leBytes n new))
    return (x.updBank bank.toNat fun q => { q with fix := true, cls := 1 }, some 1)) s

def modeCode : BankMode → Nat | .unset => 0 | .float => 1 | .int => 2 | .intScaled => 3
def widthCode (rw : Nat) : Nat := if rw = 64 then 1 else if rw = 32 then 2 else if rw = 16 then 3 else 0

/-- The bank status word (R225). -/
def Bank.status (k : Bank) : Word64 :=
  let bit (b : Bool) (i : Nat) : Nat := if b then 2 ^ i else 0
  BitVec.ofNat 64 (bit k.ovr 50 + bit k.fix 49 + k.ndrn * 2 ^ 42 + widthCode k.rw * 2 ^ 40 + k.fcol * 2 ^ 32 +
    k.frow * 2 ^ 24 + popcBits 64 k.cols.toNat * 2 ^ 16 + popcBits 64 k.rows.toNat * 2 ^ 8 + k.cls * 2 ^ 6 +
    k.why * 2 ^ 3 + bit k.sat 2 + modeCode k.mode)

/-- What MSTAT reads by selector (R224). -/
def Bank.stat (k : Bank) (sel : Nat) : Word64 :=
  match sel with
  | 0 => k.status
  | 1 => k.rows
  | 2 => k.cols
  | _ =>
    (if k.fcol = 0xFF then (0 : Word32) else k.kc.getD k.fcol 0) ++
    (if k.frow = 0xFF then (0 : Word32) else k.kr.getD k.frow 0)

def execMstat (t : Tag) (bank : BitVec 2) (a b : RField) (s : State) : Out :=
  tileOp t (fun c => do
    let k ← c.base.bank bank.toNat
    c.base.checkBank bank.toNat true
    return (c.live.landS c.slot 2 a.toNat (k.stat b.toNat), some 2)) s

/-! ### The EXP slot (R219, R220) -/

/-- XADD scales the products of the beat issued exactly five cycles earlier (R220). -/
def execXadd (t : Tag) (a : RField) (imm : BitVec 7) (s : State) : Out :=
  tileOp t (fun c => do
    if Fmt.scm c.base.regs.fmt ≠ 1 then throw formatTrap
    let v ← c.base.src a
    let x := v.toInt + imm.toInt
    if x < -1024 ∨ 1023 < x then throw formatTrap
    let hit (l : Landing) : Bool := l.issued + 5 == c.base.cycle && (match l.eff with | .beat _ => true | _ => false)
    if c.base.landings.any fun l => hit l && (match l.eff with | .beat b => b.mode != .float | _ => false) then
      throw formatTrap
    let upd (l : Landing) : Landing :=
      if hit l then { l with eff := match l.eff with | .beat b => .beat { b with xadd := x } | e => e } else l
    return ({ c.live with landings := c.live.landings.map upd }, some 1)) s

/-- Scale edges held and pending (R219). -/
def Seat.scaleCount (x : Seat) : Nat :=
  x.mat.scales.length + (x.landings.filter fun l => match l.eff with | .scale _ _ => true | _ => false).length

def execXlds (t : Tag) (base : RField) (_step : BitVec 5) (lit : Option Word32) (s : State) : Out :=
  tileOp t (fun c => do
    if 4 ≤ c.base.scaleCount then throw formatTrap
    let ea ← c.ea base (plainOffset lit)
    c.base.checkStreams [(ea, 128, 128)]
    let v : BitVec 1024 := BitVec.ofNat 1024 (c.base.padNat ea.toNat 128)
    let n := c.base.mat.nextBlock
    let x : Seat := { c.live with mat := { c.live.mat with nextBlock := n + 1 } }
    return (x.land c.slot 4 (.scale n v), some 4)) s

/-- XCLR empties the queue, discards pending edges and zeroes kpos; family E has no predicate (R219). -/
def execXclr (o r : BitVec 1) (s : State) : Out :=
  tileOp { o := o, r := r, p := 0 } (fun c =>
    let ls := c.live.landings.filter fun l => match l.eff with | .scale _ _ => false | _ => true
    .ok ({ c.live with
      landings := ls, mat := { c.live.mat with scales := [], nextBlock := 0, kpos := 0 } }, some 1)) s

end Sys2Proof.Machine
end

