-- ==== Sys2Proof/Machine/Sync.lean ====
section
/-! DEFINITION. Semaphores, barriers, waits and fences of the CTL slot (R269 to R284). The blocking bundles execute once
the gang's wait is complete (R100): here stands what they do then, and the condition each member tests. -/

namespace Sys2Proof.Machine

def maxCount : Nat := 2 ^ 32 - 1

def Seat.sem (x : Seat) (i : Nat) : Word32 := x.sync.sems.getD i 0
def Seat.setSem (x : Seat) (i : Nat) (v : Word32) : Seat :=
  { x with sync := { x.sync with sems := x.sync.sems.set i v } }

def Seat.bar (x : Seat) (i : Nat) : Barrier := x.sync.bars.getD i { x := 0, n := 0, b := 0 }
def Seat.setBar (x : Seat) (i : Nat) (v : Barrier) : Seat :=
  { x with sync := { x.sync with bars := x.sync.bars.set i v } }

/-- Add to a semaphore: past 2^32 - 1 it stays there, and the answer says so (R270). -/
def Seat.addSem (x : Seat) (i : Nat) (k : Nat) : Seat × Bool :=
  let v := (x.sem i).toNat + k
  if v ≤ maxCount then (x.setSem i (BitVec.ofNat 32 v), false) else (x.setSem i (BitVec.ofNat 32 maxCount), true)

/-- Add arrivals: past 2^32 - 1 the count stays unchanged (R271). -/
def Seat.addArrivals (x : Seat) (i : Nat) (k : Nat) : Seat × Bool :=
  let b := x.bar i
  let v := b.n.toNat + k
  if v ≤ maxCount then (x.setBar i { b with n := BitVec.ofNat 32 v }, false) else (x, true)

/-- An arrival on retire; its overflow is latched with the operation's slot and bundle (R59, R271). -/
def Seat.arrive (x : Seat) (bar slot pc : Nat) : Seat :=
  let r := x.addArrivals bar 1
  if r.2 then r.1.latch 0x0D slot pc (BitVec.ofNat 64 bar) else r.1

/-- A semaphore or barrier index within the seat's allotment (R269). -/
def needIndex (i n : Nat) : Except TrapInfo Unit := if i < n then .ok () else .error illegalField

/-! ### Setting (R275) -/

def execBari (d a : RField) (imm : BitVec 7) (lit : Option Word32) (s : State) : Out :=
  seatOp (fun c => do
    needIndex d.toNat c.base.sync.bars.length
    let v ← c.base.src a
    let b := c.live.bar d.toNat
    return c.live.setBar d.toNat { b with x := counterValue imm lit a v, n := 0 }) s

def execSemi (d a : RField) (imm : BitVec 7) (lit : Option Word32) (s : State) : Out :=
  seatOp (fun c => do
    needIndex d.toNat c.base.sync.sems.length
    let v ← c.base.src a
    return c.live.setSem d.toNat (counterValue imm lit a v)) s

/-! ### Signalling (R274, R276, R280) -/

/-- A release issued now: prior messages and commands must be performed before it is (R279, R280). -/
def Ctx.release (c : Ctx) (scope : Nat) (x : Seat) : Seat :=
  let r : Release := { scope := scope, below := c.s.serial, cycle := c.base.cycle }
  { x with sync := { x.sync with relq := x.sync.relq ++ [.release r] } }

/-- The member a signal word names (R274). -/
def Ctx.member (c : Ctx) (didx midx : Nat) : Except TrapInfo Seat :=
  if c.base.cfg.d ≤ didx ∨ c.base.cfg.c ≤ midx then .error illegalField
  else match c.s.seats.find? fun y => y.gang == c.base.gang && y.e == didx && y.m == midx with
    | some y => .ok y
    | none => .error illegalField

/-- A signal to another member travels as a message, with its register operand for the slab's record (R272, R276, R373). -/
def Ctx.signal (c : Ctx) (g : Signal) (body : MsgBody) (idx : Nat) (v : Word64) (x : Seat) : Except TrapInfo Seat := do
  let y ← c.member g.didx g.midx
  c.needRelease
  return x.send { c.msg { o := 1, r := 0, p := 0 } y.id (BitVec.ofNat 64 idx) body with op0 := v }

def execSems (d a : RField) (imm : BitVec 7) (lit : Option Word32) (s : State) : Out :=
  seatOp (fun c => do
    let g := signalWord lit
    needIndex d.toNat c.base.sync.sems.length
    let v ← c.base.src a
    let k := countValue imm a v
    let x := if g.rel then c.release g.scope c.live else c.live
    if g.rm then c.signal g (.sem d.toNat k) d.toNat v x
    else
      let r := x.addSem d.toNat k.toNat
      return if r.2 then r.1.latch 0x0E c.slot ((c.base.cur.map (·.pc)).getD 0) (d.setWidth 64) else r.1) s

/-- A local arrival that overflows raises BARRIER_OVERFLOW at the bundle (R271). -/
def execBara (d a : RField) (imm : BitVec 7) (lit : Option Word32) (s : State) : Out :=
  seatOp (fun c => do
    let g := signalWord lit
    needIndex d.toNat c.base.sync.bars.length
    let v ← c.base.src a
    let k := countValue imm a v
    let x := if g.rel then c.release g.scope c.live else c.live
    if g.rm then c.signal g (.bar d.toNat k) d.toNat v x
    else
      let r := x.addArrivals d.toNat k.toNat
      if r.2 then throw (trapAt 0x0D (d.setWidth 64))
      return r.1) s

/-! ### Waits, at completion (R277) -/

def execSemw (d a : RField) (imm : BitVec 7) (s : State) : Out :=
  seatOp (fun c => do
    needIndex d.toNat c.base.sync.sems.length
    let v ← c.base.src a
    return c.live.setSem d.toNat (c.live.sem d.toNat - countValue imm a v)) s

def execBarw (d : RField) (re : BitVec 1) (s : State) : Out :=
  seatOp (fun c => do
    needIndex d.toNat c.base.sync.bars.length
    let b := c.live.bar d.toNat
    return if re = 1 then c.live.setBar d.toNat { b with n := b.n - b.x } else c.live) s

def execWpw (_d a : RField) (s : State) : Out :=
  seatOp (fun c => do
    let _ ← c.base.src a
    return c.live) s

/-- FSC: a seat without wheel positions raises SC_NO_POSITION (R283). -/
def execFsc (s : State) : Out :=
  seatOp (fun c =>
    if c.base.sync.wheelCnt = 0 then .error (trapAt 0x20 0)
    else .ok { c.live with sync := { c.live.sync with fscDrain := none } }) s

/-- The test a member makes in a wait: whether its condition holds, or the trap of the test (R269, R277, R283). -/
def Seat.waitTest (x : Seat) (i : Instr) : Except TrapInfo Bool :=
  match i with
  | .semw d a imm => do
    needIndex d.toNat x.sync.sems.length
    let v ← x.src a
    return (countValue imm a v).toNat ≤ (x.sem d.toNat).toNat
  | .barw d _ => do
    needIndex d.toNat x.sync.bars.length
    let b := x.bar d.toNat
    return b.x.toNat ≤ b.n.toNat && b.b == 0
  | .wpw d a => do
    let v ← x.src a
    return v.toNat ≤ (x.copy.chans.getD d.toNat { issued := 0, w := 0 }).w.toNat
  | .fsc => if x.sync.wheelCnt = 0 then .error (trapAt 0x20 0) else .ok x.sync.fscDrain.isSome
  | _ => .ok true

/-- The condition holds. -/
def Seat.waitHolds (x : Seat) (i : Instr) : Bool := match x.waitTest i with | .ok b => b | .error _ => false

/-! ### Fences (R281, R282) -/

def Seat.acquire (x : Seat) : Seat := { x with sync := { x.sync with acq := true } }

def execFenceAcq (_scope : BitVec 3) (s : State) : Out := seatOp (fun c => .ok c.live.acquire) s
def execFenceRel (scope : BitVec 3) (s : State) : Out := seatOp (fun c => .ok (c.release scope.toNat c.live)) s
def execFenceFull (scope : BitVec 3) (s : State) : Out :=
  seatOp (fun c => .ok (c.release scope.toNat c.live).acquire) s

end Sys2Proof.Machine
end

