-- ==== Sys2Proof/Machine/Copy.lean ====
section
/-! DEFINITION. The XFR slot: issue of copy and engine commands, CPYK and RNGS (R227 to R245, R249, R253 to R265,
R267). What a command does in its channel stands in Channel.lean and Engine.lean. -/

namespace Sys2Proof.Machine

/-! ### Entries, snapshots, charges (R228 to R230, R244, R254) -/

/-- Engine commands hold two entries, copies one (R228, R254). -/
def CmdOp.entries : CmdOp → Nat
  | .cpyi | .cpyo | .cpys | .cpyx | .cpyr | .cpyl => 1
  | _ => 2

def CmdOp.isCopy (o : CmdOp) : Bool := o.entries == 1

/-- A SENDO of the SC form (R265). -/
def Cmd.isSc (m : Cmd) : Bool := m.op == .sendo && m.p.testBit 63

/-- It has no stamp yet: another SC operation of its bundle comes before it (R286, R297). -/
def Cmd.lacksStamp (m : Cmd) : Bool := m.isSc && m.stamp.isNone && m.sent.isNone && m.fault.isNone

/-- XFR opcode (R239, R258 to R265). -/
def CmdOp.code : CmdOp → Nat
  | .cpyi => 1 | .cpyo => 2 | .cpys => 3 | .cpyx => 4 | .cpyr => 5 | .cpyl => 6 | .rrot => 8 | .mcst => 9
  | .route => 10 | .a2av => 11 | .ared => 12 | .agth => 13 | .sendo => 14

/-- Entries of a seat's quota in use: commands, LLDs and LWAITs (R228, R254, R314). A command that ends in a fault gives its
entries up; one that a resumption reinstates as ended holds them until CPYK retires it (R249, R293; log entry 18). -/
def Seat.entriesUsed (x : Seat) : Nat :=
  ((x.copy.cmds.filter fun m => m.entry && !m.cut).map fun m => m.op.entries).foldl (· + ·) 0 + x.copy.waits.length

/-- Shape images held by commands, each once; RROT holds none (R230). -/
def Seat.snapshots (x : Seat) : List HReg :=
  (x.copy.cmds.filter fun m => m.op != .rrot).foldl (fun l m => if l.contains m.snap then l else l ++ [m.snap]) []

/-- A draining seat frees an entry by cutting its oldest outstanding copy (R110). -/
def Seat.cutOldest (x : Seat) : Seat :=
  let due := x.copy.cmds.filter fun m => !m.cut && m.fault.isNone && m.op.isCopy
  match due.foldl (fun (o : Option Cmd) m => match o with
      | none => some m
      | some k => if m.serial < k.serial then some m else some k) none with
  | none => x
  | some m =>
    { x with copy := { x.copy with cmds := x.copy.cmds.map fun k => if k.serial == m.serial then { k with cut := true } else k } }

/-- It cuts as many as it takes to have n entries free, at most the second number (R110, R254). -/
def Seat.cutFor (x : Seat) (n : Nat) : Nat → Seat
  | 0 => x
  | f + 1 => if x.entriesUsed + n ≤ x.copy.quota then x else x.cutOldest.cutFor n f

/-- The gang of a seat is being halted and the seat has not reached its marker; a trap's marker serves the request that it overtook
(R110, R111). A request that handler level holds off halts nobody yet (R370). -/
def State.draining (s : State) (x : Seat) : Bool :=
  match s.gang? x.gang with
  | some g => x.run == .run && (match g.stop with
    | .asked w _ => !g.level || stopEnds w
    | .haltSent _ | .trapSent (some _) _ | .done _ _ => true
    | _ => false)
  | none => false

/-- Entries for a command: a quota that can never supply them raises COPY_BAD; one in use holds the tile (R228, R229,
R254). -/
def Ctx.needEntries (c : Ctx) (x : Seat) (n : Nat) : Except TrapInfo Seat :=
  if x.entriesUsed + n ≤ x.copy.quota then .ok x
  else if c.s.draining c.base && (x.cutFor n n).entriesUsed + n ≤ x.copy.quota then .ok (x.cutFor n n)
  else .error holdQuota

/-- A place for the shape image (R230). -/
def Seat.needSnapshot (x : Seat) (h : HReg) : Except TrapInfo Unit :=
  if x.snapshots.contains h || x.snapshots.length < 16 then .ok () else .error holdTile

/-- The control word's checks at execution (R234). -/
def Seat.checkControl (x : Seat) (w : Control) : Except TrapInfo Unit :=
  if w.sig && x.sync.sems.length ≤ w.sem then .error illegalField
  else if w.bc && x.sync.bars.length ≤ w.bix then .error illegalField
  else if w.rm && (x.cfg.d ≤ w.didx || x.cfg.c ≤ w.midx) then .error illegalField
  else .ok ()

/-- A charge within the counter (R244). -/
def Seat.checkCharge (x : Seat) (w : Control) (len : Nat) : Except TrapInfo Unit :=
  if w.bc && maxCount < (x.bar w.bix).b.toNat + len then .error (trapAt 0x0D (BitVec.ofNat 64 w.bix)) else .ok ()

/-- COPY_BAD (R366). -/
def copyBad : TrapInfo := trapAt 0x21 0

/-- A command as its entry forms it. -/
structure Plan where
  len : Nat
  snap : HReg
  g : Nat
  p : Nat
  reads : List (Nat × Nat)
  writes : List (Nat × Nat)
  /-- rank-table address of a collective, or the ring (R257) -/
  table : Option Nat
  stamp : Option Nat
  deriving DecidableEq, Repr

/-- The seat with a command in its channel: start count, charge, entry (R231, R233, R244). -/
def Ctx.entered (c : Ctx) (y : Seat) (op : CmdOp) (d : RField) (ch : BitVec 3) (lit : Option Word32) (k : Plan) : Seat :=
  let w := controlWord (lit.getD 0)
  let chan := y.copy.chans.getD ch.toNat { issued := 0, w := 0 }
  let start := chan.issued.toNat
  let key := k.table.map fun t => (t, ch.toNat)
  let nth := ((y.copy.colls.find? fun e => some e.1 == key).map (·.2)).getD 0
  let colls := match key with
    | some t => (t, nth + 1) :: y.copy.colls.filter (·.1 != t)
    | none => y.copy.colls
  let m : Cmd :=
    { serial := c.base.cycle, op := op, ch := ch.toNat, start := start, len := k.len, done := 0, ctl := lit.getD 0
      snap := k.snap, g := k.g, p := k.p, pc := (c.base.cur.map (·.pc)).getD 0, started := false
      owed := if w.bc then k.len else 0, fault := none, reads := k.reads, writes := k.writes, rank := 0, ranks := []
      lost := 0, counts := [], heard := [], got := [], buf := [], pos := 0, sub := 0, phase := 0, dead := [], ready := []
      nth := nth
      stamp := k.stamp, sent := none, cut := false, entry := true, vals := [], idxs := [] }
  let bars := if w.bc then
      y.sync.bars.modify w.bix fun b => { b with b := b.b + BitVec.ofNat 32 k.len } else y.sync.bars
  let chans := y.copy.chans.setIfInBounds ch.toNat { chan with issued := BitVec.ofNat 64 (start + k.len) }
  let x : Seat :=
    { y with copy := { y.copy with chans := chans, cmds := y.copy.cmds ++ [m], colls := colls }
             sync := { y.sync with bars := bars } }
  x.landS c.slot 1 d.toNat (BitVec.ofNat 64 start)

/-- The command enters its channel where an entry and a place for its image are free (R228, R230, R254). -/
def Ctx.enter (c : Ctx) (op : CmdOp) (d : RField) (ch : BitVec 3) (lit : Option Word32) (k : Plan) :
    Except TrapInfo (Seat × Option Nat) := do
  let y ← c.needEntries c.live op.entries
  if op ≠ .rrot then y.needSnapshot k.snap
  return (c.entered y op d ch lit k, some 1)

/-! ### The copy commands (R236 to R243) -/

/-- Element code and PACK of a shape (R138). -/
def elemCode (h : HReg) : Nat := (hField h 2).toNat % 16
def packCode (h : HReg) : Nat := (hField h 2).toNat / 16 % 16
/-- N := D0 D1 D2 D3 (R237). -/
def elemCount (h : HReg) : Nat := (hField h 3).toNat * (hField h 4).toNat * (hField h 5).toNat * (hField h 6).toNat

/-- The region that holds an address (R302, R303). -/
def cellBytes (type : Nat) : Nat := if type = 6 then 64 else 8

/-- The graph and instance of the launch that a seat runs (R339). -/
def State.instanceOf (s : State) (x : Seat) : Option (Nat × Nat) := do
  let g ← s.gangs.find? (·.id == x.gang)
  let l ← s.launches.find? (·.num == g.launch)
  return (l.graph, l.inst)

/-- The region that holds an address for a seat. Two instances of one graph have regions of their own at one base: a seat's is
that of its launch's instance (R302, R346). -/
def State.regionAt (s : State) (x : Seat) (va : Nat) : Option Region :=
  s.regions.find? fun r => r.base ≤ va && va < r.base + r.cells * cellBytes r.type &&
    ((s.instanceOf x).all fun i => i == (r.graph, r.inst))

/-- Element bytes of a copy command; CPYL takes its region's cell size, and 8 where the address names no cell of a
region (R243; log entry 16). -/
def State.cmdElem (s : State) (x : Seat) (op : CmdOp) (h : HReg) (g : Nat) : Nat :=
  match op with
  | .cpyl => ((s.regionAt x g).map fun r => cellBytes r.type).getD 8
  | _ => elemSize (elemCode h)

/-- FORMAT at issue, by command (R236, R240, R242, R243). -/
def formatBad (op : CmdOp) (h : HReg) : Bool :=
  let e := elemCode h
  match op with
  | .cpyl => packCode h != 0
  | .cpyx => e == 0xF || packCode h != 1 || 2 < elemSize e
  | .cpyr => e == 0xF || packCode h != 0 || e == 8 || e == 9 || e == 0xE
  | .ared => e == 0xF || packCode h != 0 || e == 8 || e == 9 || e == 0xE
  | _ => e == 0xF || packCode h != 0

/-- The literal checks of a pad range: range, then alignment (R155, R157, R238); an empty range touches no byte. -/
def Seat.checkSpan (x : Seat) (a : Word64) (n align : Nat) : Except TrapInfo Unit :=
  if n ≠ 0 ∧ !x.inRange a.toNat n then .error (trapAt 0x0A a)
  else if a.toNat % align ≠ 0 then .error (trapAt 0x0B a)
  else .ok ()

/-- S[sa] and S[sa+1] (R233). -/
def Ctx.pair (c : Ctx) (sa : RField) : Except TrapInfo (Word64 × Word64) := do
  let a ← c.base.src sa
  let b ← c.base.src (sa + 1)
  return (a, b)

/-- CPYI, CPYO, CPYX, CPYR, CPYL (R236 to R243). -/
def copyOp (op : CmdOp) (t : Tag) (h : BitVec 4) (d sa : RField) (ch : BitVec 3) (lit : Option Word32) (s : State) : Out :=
  tileOp t (fun c => do
    let hr ← c.base.hsrc h.toNat
    let (a, b) ← c.pair sa
    let g := (shapeBase hr + b.toNat) % 2 ^ 57
    let es := c.s.cmdElem c.base op hr g
    let len := es * elemCount hr
    if c.base.copy.quota = 0 ∨ 2 ^ 32 ≤ len then throw copyBad
    if op = .cpyx ∧ ((hField hr 3).toNat % 8 ≠ 0 ∨ (hField hr 7).toNat % 4 ≠ 0 ∨ (hField hr 8).toNat % 4 ≠ 0 ∨
        (hField hr 9).toNat % 4 ≠ 0) then throw copyBad
    if formatBad op hr then throw formatTrap
    let w := controlWord (lit.getD 0)
    c.base.checkControl w
    c.base.checkSpan a len es
    if g % es ≠ 0 then throw (trapAt 0x0B (BitVec.ofNat 64 g))
    c.base.checkCharge w len
    let r := (a.toNat, len)
    let into := op == .cpyi || op == .cpyx
    c.enter op d ch lit
      { len := len, snap := hr, g := g, p := a.toNat, reads := if into then [] else [r]
        writes := if into then [r] else [], table := none, stamp := none }) s

def execCpyi (t : Tag) (h : BitVec 4) (d sa : RField) (ch : BitVec 3) (lit : Option Word32) (s : State) : Out :=
  copyOp .cpyi t h d sa ch lit s
def execCpyo (t : Tag) (h : BitVec 4) (d sa : RField) (ch : BitVec 3) (lit : Option Word32) (s : State) : Out :=
  copyOp .cpyo t h d sa ch lit s
def execCpyx (t : Tag) (h : BitVec 4) (d sa : RField) (ch : BitVec 3) (lit : Option Word32) (s : State) : Out :=
  copyOp .cpyx t h d sa ch lit s
def execCpyr (t : Tag) (h : BitVec 4) (d sa : RField) (ch : BitVec 3) (lit : Option Word32) (s : State) : Out :=
  copyOp .cpyr t h d sa ch lit s
def execCpyl (t : Tag) (h : BitVec 4) (d sa : RField) (ch : BitVec 3) (lit : Option Word32) (s : State) : Out :=
  copyOp .cpyl t h d sa ch lit s

/-- The part of a cluster range that lies in the seat's own pads (R163, R239). -/
def Seat.ownPart (x : Seat) (ea : Word64) (n : Nat) : List (Nat × Nat) :=
  if clusterSlot ea = x.slotNo then [(clusterOffset ea, n)] else []

/-- A cluster range: slot, range, alignment; an empty range names a member's slot all the same (R156, R239). -/
def State.checkClusterSpan (s : State) (x : Seat) (ea : Word64) (n align : Nat) : Except TrapInfo Unit :=
  if n = 0 then (if ea.toNat < 2 ^ 22 && (s.clusterSeat x (clusterSlot ea)).isSome then
      (if ea.toNat % align = 0 then .ok () else .error (trapAt 0x0B ea)) else .error (trapAt 0x0A ea))
  else do let _ ← s.checkCluster x ea n align; return ()

/-- CPYS: both sides are cluster addresses (R239). -/
def execCpys (t : Tag) (h : BitVec 4) (d sa : RField) (ch : BitVec 3) (lit : Option Word32) (s : State) : Out :=
  tileOp t (fun c => do
    let hr ← c.base.hsrc h.toNat
    let (a, b) ← c.pair sa
    let es := elemSize (elemCode hr)
    let len := es * elemCount hr
    if c.base.copy.quota = 0 ∨ 2 ^ 32 ≤ len then throw copyBad
    if formatBad .cpys hr then throw formatTrap
    let w := controlWord (lit.getD 0)
    c.base.checkControl w
    c.s.checkClusterSpan c.base a len es
    c.s.checkClusterSpan c.base b len es
    c.base.checkCharge w len
    c.enter .cpys d ch lit
      { len := len, snap := hr, g := a.toNat, p := b.toNat, reads := c.base.ownPart a len, writes := c.base.ownPart b len
        table := none, stamp := none }) s

/-! ### Engine commands (R253 to R265) -/

/-- Entries of the engine commands: a quota of 1 can never supply two (R254). -/
def Seat.engineQuota (x : Seat) : Except TrapInfo Unit := if x.copy.quota < 2 then .error copyBad else .ok ()

/-- Two byte ranges have a byte in common. -/
def overlap (a n b m : Nat) : Bool := n != 0 && m != 0 && a < b + m && b < a + n

/-- ROUTE (R258). -/
def execRoute (t : Tag) (h : BitVec 4) (d sa : RField) (ch : BitVec 3) (lit : Option Word32) (s : State) : Out :=
  tileOp t (fun c => do
    let hr ← c.base.hsrc h.toNat
    let (a, b) ← c.pair sa
    let n := (hField hr 13).toNat
    let k := (hField hr 3).toNat
    let e := (hField hr 4).toNat
    let len := 8 * n * k + 8 * e + 8 * ((e + 63) / 64)
    c.base.engineQuota
    if k < 1 ∨ 16 < k ∨ e < 1 ∨ 4096 < e ∨ 65536 < n * k ∨ overlap a.toNat (4 * n * k) b.toNat len then throw copyBad
    let w := controlWord (lit.getD 0)
    c.base.checkControl w
    c.base.checkSpan a (4 * n * k) 4
    c.base.checkSpan b len 8
    c.base.checkCharge w len
    c.enter .route d ch lit
      { len := len, snap := hr, g := a.toNat, p := b.toNat, reads := [(a.toNat, 4 * n * k)], writes := [(b.toNat, len)]
        table := none, stamp := none }) s

/-- The 32-bit counts of a table in the pads (R260). -/
def Seat.countTable (x : Seat) (a n : Nat) : List Nat := (List.range n).map fun i => leNat (x.padBytes (a + 4 * i) 4)

/-- An area of an A2AV in the seat's pads: bit 63 clear (R260). -/
def areaPads (v : Word64) (n : Nat) : List (Nat × Nat) := if v.getLsbD 63 then [] else [(v.toNat % 2 ^ 19, n)]

/-- A2AV (R260). The send area reaches as far as the send counts say when it issues (log entry 17). -/
def execA2av (t : Tag) (h : BitVec 4) (d sa : RField) (ch : BitVec 3) (lit : Option Word32) (s : State) : Out :=
  tileOp t (fun c => do
    let hr ← c.base.hsrc h.toNat
    let (a, b) ← c.pair sa
    let p := (hField hr 3).toNat
    let len := (hField hr 13).toNat
    let tab := (hField hr 14).toNat
    c.base.engineQuota
    if p < 1 ∨ 256 < p then throw copyBad
    let w := controlWord (lit.getD 0)
    c.base.checkControl w
    c.base.checkSpan (BitVec.ofNat 64 tab) (8 * p) 4
    let total := (c.base.countTable tab p).foldl (· + ·) 0
    if !a.getLsbD 63 then c.base.checkSpan (a &&& 0x7FFFF) total 1
    if !b.getLsbD 63 then c.base.checkSpan (b &&& 0x7FFFF) len 1
    c.base.checkCharge w len
    c.enter .a2av d ch lit
      { len := len, snap := hr, g := a.toNat, p := b.toNat, reads := (tab, 4 * p) :: areaPads a total
        writes := (tab + 4 * p, 4 * p) :: areaPads b len, table := some (shapeBase hr), stamp := none }) s

/-- ARED and AGTH: source and destination ranges (R261). -/
def gatherOp (op : CmdOp) (t : Tag) (h : BitVec 4) (d sa : RField) (ch : BitVec 3) (lit : Option Word32) (s : State) : Out :=
  tileOp t (fun c => do
    let hr ← c.base.hsrc h.toNat
    let (a, b) ← c.pair sa
    let p := (hField hr 3).toNat
    let es := elemSize (elemCode hr)
    let part := es * (hField hr 4).toNat
    let len := if op = .agth then p * part else part
    c.base.engineQuota
    if p < 1 ∨ 256 < p ∨ 2 ^ 32 ≤ len then throw copyBad
    if op = .ared ∧ 3 ≤ (hField hr 14).toNat then throw copyBad
    let same := if op = .agth then b.toNat ≤ a.toNat && (a.toNat - b.toNat) % part == 0 && a.toNat < b.toNat + len
      else a == b
    if !same && overlap a.toNat part b.toNat len then throw copyBad
    if formatBad op hr then throw formatTrap
    let w := controlWord (lit.getD 0)
    c.base.checkControl w
    c.base.checkSpan a part es
    c.base.checkSpan b len es
    c.base.checkCharge w len
    c.enter op d ch lit
      { len := len, snap := hr, g := a.toNat, p := b.toNat, reads := [(a.toNat, part)], writes := [(b.toNat, len)]
        table := some (shapeBase hr), stamp := none }) s

def execAred (t : Tag) (h : BitVec 4) (d sa : RField) (ch : BitVec 3) (lit : Option Word32) (s : State) : Out :=
  gatherOp .ared t h d sa ch lit s
def execAgth (t : Tag) (h : BitVec 4) (d sa : RField) (ch : BitVec 3) (lit : Option Word32) (s : State) : Out :=
  gatherOp .agth t h d sa ch lit s

/-- The cluster slots of an MCST's targets (R263). -/
def mcstSlots (b : Word64) : List Nat := (List.range 8).filter fun i => b.getLsbD (56 + i)

/-- The cluster address of an MCST's range on a slot. -/
def slotAddr (slot off : Nat) : Word64 := BitVec.ofNat 64 (slot * 2 ^ 19 + off)

/-- MCST (R263). -/
def execMcst (t : Tag) (h : BitVec 4) (d sa : RField) (ch : BitVec 3) (lit : Option Word32) (s : State) : Out :=
  tileOp t (fun c => do
    let hr ← c.base.hsrc h.toNat
    let (a, b) ← c.pair sa
    let es := elemSize (elemCode hr)
    let len := es * elemCount hr
    let off := b.toNat % 2 ^ 19
    c.base.engineQuota
    if 2 ^ 32 ≤ len ∨ (mcstSlots b).isEmpty ∨ b.extractLsb' 19 37 ≠ 0 then throw copyBad
    if formatBad .mcst hr then throw formatTrap
    let w := controlWord (lit.getD 0)
    if w.rm then throw illegalField
    c.base.checkControl w
    c.base.checkSpan a len es
    (mcstSlots b).forM fun i => c.s.checkClusterSpan c.base (slotAddr i off) len es
    c.base.checkCharge w len
    c.enter .mcst d ch lit
      { len := len, snap := hr, g := a.toNat, p := b.toNat, reads := [(a.toNat, len)]
        writes := if (mcstSlots b).contains c.base.slotNo then [(off, len)] else [], table := none, stamp := none }) s

/-- RROT: dir stands in the h field, and is kept with the command's image (R264). -/
def execRrot (t : Tag) (h : BitVec 4) (d sa : RField) (ch : BitVec 3) (lit : Option Word32) (s : State) : Out :=
  tileOp t (fun c => do
    let (a, b) ← c.pair sa
    c.base.engineQuota
    let w := controlWord (lit.getD 0)
    c.base.checkControl w
    c.base.checkSpan a 4096 4096
    c.base.checkSpan b 4096 4096
    c.base.checkCharge w 4096
    c.enter .rrot d ch lit
      { len := 4096, snap := h.setWidth 512, g := a.toNat, p := b.toNat, reads := [(a.toNat, 4096)]
        writes := [(b.toNat, 4096)], table := some (2 ^ 57), stamp := none }) s

/-- SENDO; S[sa+1][63] chooses the SC form (R265, R295). One that follows an SC operation of slot 2 is stamped once that one is
performed (R286, R297). -/
def execSendo (t : Tag) (h : BitVec 4) (d sa : RField) (ch : BitVec 3) (lit : Option Word32) (s : State) : Out :=
  tileOp t (fun c => do
    let hr ← c.base.hsrc h.toNat
    let (a, b) ← c.pair sa
    let sc := b.getLsbD 63
    if sc ∧ c.base.sync.wheelCnt = 0 then throw (trapAt 0x20 0)
    let p := (hField hr 3).toNat
    c.base.engineQuota
    if p < 1 ∨ 256 < p ∨ p ≤ (b.extractLsb' 32 16).toNat ∨ b.extractLsb' 48 15 ≠ 0 ∨ b.extractLsb' 19 13 ≠ 0 then
      throw copyBad
    let w := controlWord (lit.getD 0)
    if w.rm then throw illegalField
    c.base.checkControl w
    c.base.checkSpan a 64 64
    if b.toNat % 64 ≠ 0 then throw (trapAt 0x0B (b &&& 0x7FFFF))
    c.base.checkCharge w 64
    c.enter .sendo d ch lit
      { len := 64, snap := hr, g := a.toNat, p := b.toNat, reads := [(a.toNat, 64)], writes := [], table := none
        stamp := if sc ∧ !(c.live.outbox.any (·.stamp.isSome)) then c.base.sync.scStamps.head? else none }) s

/-! ### CPYK and RNGS (R249, R267) -/

/-- The command that a CPYK may retire: an outstanding copy, or a copy or engine command ended in a fault. -/
def Seat.killable (x : Seat) (ch start : Nat) : Option Cmd :=
  x.copy.cmds.find? fun m => m.ch == ch && m.start == start && (m.op.isCopy || m.fault.isSome)

/-- CPYK: all ones where no such command stands; else the command is retired within eight cycles, and the result lands
ten issue cycles after issue (R249); with A = 1 it arrives when it is issued (R250). It takes no entry, and a seat whose quota is 0 may issue no copy command (R229). -/
def execCpyk (t : Tag) (d sa : RField) (ch : BitVec 3) (s : State) : Out :=
  tileOp t (fun c => do
    if c.base.copy.quota = 0 then throw copyBad
    let v ← c.base.src sa
    let x := c.live.landS c.slot 10 d.toNat (BitVec.allOnes 64)
    match c.base.killable ch.toNat v.toNat with
    | none => return (x, some 1)
    | some m =>
      return ({ x with copy := { x.copy with
        kills := x.copy.kills ++ [(ch.toNat, m.serial, d.toNat, c.base.cycle)] } }, some 1)) s

/-- RNGS empties the queue and seeds the generator at the end of its bundle: a pop of the bundle uses the old queue,
which the MAT and VEC slots before slot 7 have taken from already. In a repeating bundle it executes once (R267). -/
def execRngs (t : Tag) (sa : RField) (s : State) : Out :=
  tileOp t (fun c => do
    if (c.base.cur.map (·.rep)).getD 0 ≠ 0 then return (c.live, some 1)
    let v ← c.base.src sa
    return ({ c.live with regs := { c.live.regs with rbq := [], seed := v, genN := 0 } }, some 1)) s

end Sys2Proof.Machine
end

