-- ==== Sys2Proof/Machine/Lat.lean ====
section
/-! DEFINITION. Lattice cells: join and leq on whole cells, replicas, change marks, poison (R51, R303, R306, R308). -/

namespace Sys2Proof.Machine

/-- The bottom of a type (R303). -/
def bottom (type : Nat) : BitVec 512 :=
  match type with
  | 1 => 0xFFFFFFFFFFFFFFFF
  | 3 => 0xFFF0000000000000
  | 5 => 0x8000000000000000
  | _ => 0

/-- The cell of a replica (R306). -/
def State.cell (s : State) (die : Nat) (r : Region) (i : Nat) : BitVec 512 :=
  match s.cells.find? fun c => c.die == die && c.region == r.num && c.idx == i with
  | some c => c.val
  | none => bottom r.type

/-- Cells stand by die pair, region and index; a cell at its bottom is not listed. -/
def insertCell (c : LatCell) : List LatCell → List LatCell
  | [] => [c]
  | x :: r =>
    let k := fun (c : LatCell) => (c.die * 64 + c.region) * 65536 + c.idx
    if k c < k x then c :: x :: r else if k c = k x then c :: r else x :: insertCell c r

def State.putCell (s : State) (die : Nat) (r : Region) (i : Nat) (v : BitVec 512) : State :=
  let rest := s.cells.filter fun c => !(c.die == die && c.region == r.num && c.idx == i)
  { s with cells := if v = bottom r.type then rest else insertCell { die := die, region := r.num, idx := i, val := v } rest }

/-- Rounds of a die pair's schedule (R307). -/
def State.rounds (s : State) (die : Nat) : Nat := min 8 ((s.lxPeriod.getD die 0).extractLsb' 16 4).toNat

/-- A rise sets every mark of the cell (R308). -/
def State.setMarks (s : State) (die region i : Nat) : State :=
  let add := (List.range (s.rounds die)).map fun k => (die, k, region, i)
  { s with marks := s.marks ++ add.filter fun m => !s.marks.contains m }

def State.cellBad (s : State) (die region i : Nat) : Bool := s.cellPoison.contains (die, region, i)

/-- The threshold test of a watch (R315). -/
def passes (type : Nat) (thr : Word64) (v : BitVec 512) : Bool :=
  if type = 6 then thr.toNat ≤ (cellValue type v).toNat else leq64 type thr (cellLane v 0)

/-- The deposit of a cell (R314). -/
def depositBytes (type st : Nat) (v : BitVec 512) : List Byte :=
  if type = 6 then leBytes 64 v.toNat ++ leBytes 8 (cellValue type v).toNat ++ leBytes 8 st
  else leBytes 8 (cellLane v 0).toNat ++ leBytes 8 st

/-- Bytes of a deposit: 16, or 80 for GCNT (R314). -/
def depositSize (type : Nat) : Nat := if type = 6 then 80 else 16

/-- A pad is engine-owned for a range (R160). -/
def Seat.engineOwned (x : Seat) (a n : Nat) : Bool := x.ownerOf a == .engine && x.ownerOf (a + n - 1) == .engine

/-- Earlier commands and deposits have performed their accesses to the deposit's range (R163, R164). -/
def Seat.depositTurn (x : Seat) (w : Wait) (n : Nat) : Bool :=
  ((x.copy.cmds.filter fun m => m.serial < w.cycle && m.fault.isNone).all fun m =>
    !((m.writes ++ m.reads).any fun r => rangesMeet (m.rest r) (w.pad, n))) &&
  ((x.copy.waits.filter fun v => v.id != w.id && v.cycle < w.cycle).all fun v => !rangesMeet (v.pad, v.size) (w.pad, n))

/-- So have earlier drains. -/
def Seat.depositClear (x : Seat) (w : Wait) (n : Nat) : Bool :=
  x.depositTurn w n &&
  (x.landings.all fun l => match l.eff with
    | .pad a bs => w.cycle ≤ l.issued || !rangesMeet (a, bs.length) (w.pad, n)
    | _ => true)

/-- The deposit is written and the semaphore signalled; the entry frees (R314). One that a poisoned granule refuses writes
nothing, raises SCRATCH_ECC and signals nothing (R179; DEDUCED, log entry 28). -/
def Seat.giveDeposit (x : Seat) (w : Wait) (bs : List Byte) : Seat :=
  let z : Seat := { x with copy := { x.copy with waits := x.copy.waits.filter (·.id != w.id) } }
  if x.partialPoison (cellsAt w.pad bs) then z.latch 0x22 w.slot w.pc (BitVec.ofNat 64 w.pad)
  else
    let y := z.writeBytes (cellsAt w.pad bs)
    let r := y.addSem w.sem 1
    let v := if r.2 then r.1.latch 0x0E w.slot w.pc (BitVec.ofNat 64 w.sem) else r.1
    match w.arr with
    | some b => v.arrive b w.slot w.pc
    | none => v

/-- A read that the unit refuses: its entry frees, and the cause is raised in the seat (R311). -/
def Seat.refuseWait (x : Seat) (w : Wait) (cause : Nat) : Seat :=
  let y : Seat := { x with copy := { x.copy with waits := x.copy.waits.filter (·.id != w.id) } }
  y.latch cause w.slot w.pc (BitVec.ofNat 64 w.va)

/-- The port of a seat's tile takes a deposit of the lattice unit under its access table (R333, R334). -/
def State.mayDeposit (s : State) (x : Seat) : Bool := s.allows (some (.port x.die x.tile)) (0x4800 + x.die) true false

/-- The unit makes a deposit; one that the port refuses ends as the unit's other refusals do (R311, R335; DEDUCED, log entry 31). -/
def State.giveDeposit (s : State) (x : Seat) (w : Wait) (bs : List Byte) : Seat :=
  if s.mayDeposit x then x.giveDeposit w bs else x.refuseWait w 0x11

/-- A deposit that is ready: made at once where the pads can take it, else it waits (R314). -/
def State.deposit (s : State) (x : Seat) (w : Wait) (bs : List Byte) : Seat :=
  if x.engineOwned w.pad bs.length && x.depositClear w bs.length then s.giveDeposit x w bs
  else { x with copy := { x.copy with
    waits := x.copy.waits.map fun v => if v.id == w.id then { v with watching := false, deposit := some bs } else v } }

/-- A region's cell at an address: its index, and the slot of a GCNT cell (R303, R313). -/
def State.cellAt (s : State) (x : Seat) (va : Nat) : Option (Region × Nat × Nat) :=
  (s.regionAt x va).map fun r => (r, (va - r.base) / cellBytes r.type, (va - r.base) % cellBytes r.type / 8)

/-- Watches of a die pair's unit on a cell are tested at its rise (R315). -/
def State.testWatches (s : State) (die : Nat) (r : Region) (i : Nat) : State :=
  let v := s.cell die r i
  let test (x : Seat) : Seat :=
    if x.die = die then
      (x.copy.waits.filter fun w => w.watching && passes r.type w.thr v &&
          (s.cellAt x w.va).map (fun c => (c.1.num, c.2.1)) == some (r.num, i)).foldl
        (fun y w => s.deposit y w (depositBytes r.type 1 v)) x
    else x
  { s with seats := s.seats.map test }

/-- A cell takes a value at a replica: marks and watches follow a rise (R308, R315). -/
def State.raise (s : State) (die : Nat) (r : Region) (i : Nat) (v : BitVec 512) : State :=
  if v = s.cell die r i then s
  else ((s.putCell die r i v).setMarks die r.num i).testWatches die r i

/-- Slot k of a GCNT cell set to a value. -/
def setSlot (v : BitVec 512) (k : Nat) (x : Word64) : BitVec 512 :=
  (v &&& ~~~(((BitVec.allOnes 64).setWidth 512) <<< (64 * k))) ||| ((x.setWidth 512) <<< (64 * k))

end Sys2Proof.Machine
end

