-- ==== Sys2Proof/Machine/Channel.lean ====
section
/-! DEFINITION. What a copy command does in its channel: start, delivery by sectors, parking, faults, completion, CPYK's
retirement (R227, R232, R239 to R249, R323). -/

namespace Sys2Proof.Machine

/-- An event: its effect where it can come about, else nothing. -/
def eventOut (s : State) (r : Option State) : Out := .next (r.getD s)

/-! ### Commands of a seat -/

def Seat.updCmd (x : Seat) (serial : Nat) (f : Cmd → Cmd) : Seat :=
  { x with copy := { x.copy with cmds := x.copy.cmds.map fun m => if m.serial == serial then f m else m } }

/-- A command holds its channel until its last byte is delivered; a SENDO until its message is sent; a collective, which sends and
receives, until it completes (R227). -/
def Cmd.ahead (m : Cmd) : Bool :=
  m.fault.isSome || !m.started || (match m.op with
    | .sendo => m.sent.isNone
    | .a2av | .ared | .agth => true
    | _ => m.done < m.len)

/-- The command at the front of a channel. -/
def Seat.front (x : Seat) (ch : Nat) : Option Cmd := x.copy.cmds.find? fun m => m.ch == ch && m.ahead

/-- W stands at the first count of the channel that is not delivered (R231, R232, R248). -/
def Seat.syncW (x : Seat) (ch : Nat) : Seat :=
  let chan := x.copy.chans.getD ch { issued := 0, w := 0 }
  let w := match x.copy.cmds.find? fun m => m.ch == ch && m.done < m.len with
    | some m => BitVec.ofNat 64 (m.start + m.done)
    | none => chan.issued
  { x with copy := { x.copy with chans := x.copy.chans.setIfInBounds ch { chan with w := w } } }

/-- n charged bytes of a command are discharged (R244). -/
def Seat.discharge (x : Seat) (m : Cmd) (n : Nat) : Seat :=
  let w := controlWord m.ctl
  if w.bc then
    let y : Seat := { x with sync := { x.sync with
      bars := x.sync.bars.modify w.bix fun b => { b with b := b.b - BitVec.ofNat 32 n } } }
    y.updCmd m.serial fun k => { k with owed := k.owed - n }
  else x

/-- A RETURNING pad becomes THREAD once no command that came before the hand-back has accesses to it to come (R161). -/
def Seat.flipOwners (x : Seat) : Seat :=
  { x with pads := { x.pads with
      owner := x.pads.owner.zipIdx.map fun o => match o.1 with
        | .returning below others =>
          if (x.copy.cmds.any fun m => m.serial < below && m.busy && m.touches o.2) || !others.isEmpty then o.1 else .thread
        | w => w } }

/-- n more bytes are delivered, of which some are discharged; W passes the last of them after the owner flip (R161). -/
def Seat.deliver (x : Seat) (m : Cmd) (n paid : Nat) : Seat :=
  ((x.updCmd m.serial fun k => { k with done := k.done + n }).flipOwners.discharge m paid).syncW m.ch

/-- A CPYS or MCST of a seat has no access to other seats' pads left (R161, R239). -/
def State.visitDone (s : State) (k : Nat) (m : Cmd) : State :=
  if m.op = .cpys ∨ m.op = .mcst then
    { s with seats := s.seats.map fun y =>
        ({ y with pads := { y.pads with
            owner := y.pads.owner.map fun o => match o with
              | .returning b os => .returning b (os.filter (· != (k, m.serial)))
              | o => o } } : Seat).flipOwners }
  else s

/-- A completion signal to the seat itself; overflow is raised in the issuing seat (R245, R270). -/
def Seat.signalSelf (x : Seat) (m : Cmd) (sem : Nat) : Seat :=
  let r := x.addSem sem 1
  if r.2 then r.1.latch 0x0E 7 m.pc (BitVec.ofNat 64 sem) else r.1

/-- Messages stand in the order of their serial numbers, which is that of their issue. -/
def insertMsg (m : Msg) : List Msg → List Msg
  | [] => [m]
  | k :: r => if m.serial < k.serial then m :: k :: r else k :: insertMsg m r

/-- Messages that have their serial numbers go out. -/
def State.sendAll (s : State) (ms : List Msg) : State := { s with msgs := ms.foldl (fun l m => insertMsg m l) s.msgs }

/-- A message of a command, with the next serial number. -/
def State.post (s : State) (m : Msg) : State := { s with msgs := s.msgs ++ [{ m with serial := s.serial }], serial := s.serial + 1 }

/-- A completion signal to another seat (R245, R263, R272). -/
def State.signalTo (s : State) (x : Seat) (m : Cmd) (k sem : Nat) : State :=
  s.post { serial := 0, src := x.id, dst := k, pc := m.pc, slot := 7, ea := BitVec.ofNat 64 sem, arr := none, stamp := none
           body := .sem sem 1 }

/-- Drop the parked sectors of a command that a condition picks. -/
def State.dropParked (s : State) (x : Seat) (serial : Nat) (p : Nat → Bool) : State :=
  let t := s.tile (x.id / 4)
  s.putTile { t with sideLog := t.sideLog.filter fun e => !(e.seat == x.id && e.cmd == serial && p e.va) }

/-- Parked sectors of a seat, of one command (R247). -/
def State.parked (s : State) (x : Seat) (serial : Nat) : List Parked :=
  (s.tile (x.id / 4)).sideLog.filter fun e => e.seat == x.id && e.cmd == serial

/-- The target seats of a completion signal: by member, MCST by slot (R245, R263). -/
def State.signalTargets (s : State) (x : Seat) (m : Cmd) : List Nat :=
  let w := controlWord m.ctl
  if !w.sig ∨ m.op = .sendo then []
  else if m.op = .mcst then
    (mcstSlots (BitVec.ofNat 64 m.p)).filterMap fun i => (s.clusterSeat x i).map (·.id)
  else if w.rm then
    ((s.seats.find? fun y => y.gang == x.gang && y.e == w.didx && y.m == w.midx).map (·.id)).toList
  else [x.id]

/-- A command leaves its channel: entry, barrier, W, owner flips, then the signal (R245, R249). -/
def State.retire (s : State) (x : Seat) (m : Cmd) : State :=
  let y := (x.discharge m m.owed)
  let z := ({ y with copy := { y.copy with cmds := y.copy.cmds.filter (·.serial != m.serial) } }.syncW m.ch).flipOwners
  let targets := s.signalTargets x m
  let sem := (controlWord m.ctl).sem
  let own := if targets.contains x.id && !(controlWord m.ctl).rm then z.signalSelf m sem else z
  (targets.filter fun k => k != x.id || (controlWord m.ctl).rm).foldl (fun t k => t.signalTo x m k sem) ((s.putSeat own).visitDone x.id m)

/-- Two addresses lie in one page: that of the memory processor, or 64 KiB where it maps none (R325). -/
def State.onePage (s : State) (a b : Nat) : Bool :=
  match s.page a with
  | some m => m.covers b
  | none => a / 2 ^ 16 == b / 2 ^ 16

/-- Bytes that a CPYI or CPYX has read and holds back for the rest of their 8-byte unit of the pad are delivered where it stops
(R288, R301, R424). -/
def Seat.flushTail (x : Seat) (serial : Nat) : Seat :=
  match x.copy.cmds.find? (·.serial == serial) with
  | none => x
  | some m =>
    let a := m.p + m.done
    if (m.op != .cpyi && m.op != .cpyx) || m.buf.isEmpty || x.enginePartial m.p (m.p + m.len) a m.buf.length then x
    else
      ((x.updCmd serial fun k => { k with buf := [] }).engineWrite m.p a m.buf).deliver m m.buf.length m.buf.length

/-- A command ends in a fault: it keeps its delivered bytes, its parked sectors of the page are dropped, its entries are free,
the cause is raised in the seat (R228, R248, R253, R254). -/
def State.endCmd (s : State) (seat : Seat) (m : Cmd) (cause addr : Nat) : State :=
  let x := seat.flushTail m.serial
  let t := s.dropParked x m.serial (s.onePage addr)
  let gone := (((s.parked x m.serial).filter fun e => s.onePage addr e.va).map fun e => e.bytes.length).sum
  t.putSeat ((x.updCmd m.serial fun k => { k with fault := some (cause, addr), lost := k.lost + gone, entry := false }).latch
    cause 7 m.pc (BitVec.ofNat 64 addr))

/-! ### Start (R160, R163, R164, R239, R280) -/

/-- A pad may serve a command issued in a cycle (R160). -/
def Owner.serves (o : Owner) (issued : Nat) : Bool :=
  match o with
  | .engine => true
  | .returning below _ => issued < below
  | .thread => false

/-- The pads of a range. -/
def padsOf (r : Nat × Nat) : List Nat := if r.2 = 0 then [] else (List.range ((r.1 + r.2 - 1) / 4096 + 1 - r.1 / 4096)).map (· + r.1 / 4096)

/-- Every own pad that a command touches serves it (R239). -/
def Seat.padsServe (x : Seat) (m : Cmd) : Bool :=
  (m.reads ++ m.writes).all fun r => (padsOf r).all fun q => (x.pads.owner.getD q .thread).serves m.serial

/-- No earlier command, drain, deposit or operand stream has an access outstanding that the command must wait for (R164). -/
def Seat.scoreClear (x : Seat) (m : Cmd) : Bool :=
  let hits (writes reads : List (Nat × Nat)) : Bool :=
    (writes.any fun w => (m.reads ++ m.writes).any fun r => rangesMeet w r) ||
    (reads.any fun w => m.writes.any fun r => rangesMeet w r)
  ((x.copy.cmds.filter fun k => k.serial < m.serial && k.fault.isNone).all fun k =>
    !hits (k.writes.map k.rest) (k.reads.map k.rest)) &&
  (x.landings.all fun l => match l.eff with
    | .pad a bs => m.serial < l.issued || !hits [(a, bs.length)] []
    | _ => true) &&
  (x.copy.waits.all fun w => m.serial < w.cycle || !hits [(w.pad, w.size)] []) &&
  (x.sync.own.all fun o => !o.edge || m.serial < o.cycle || !hits [] [(o.addr, o.len)])

/-- A release issued before the command is pending (R280). -/
def Seat.startDeferred (x : Seat) (m : Cmd) : Bool :=
  x.sync.relq.any fun d => match d with
    | .release r => r.cycle ≤ m.serial
    | .msg _ => false

/-- The cluster ranges of a command: seat, offset, length, written or read (R239, R263). -/
def State.clusterParts (s : State) (x : Seat) (m : Cmd) : List (Seat × Nat × Bool) :=
  let part (ea : Word64) (w : Bool) : List (Seat × Nat × Bool) :=
    match s.clusterSeat x (clusterSlot ea) with
    | some y => [(y, clusterOffset ea, w)]
    | none => []
  match m.op with
  | .cpys => part (BitVec.ofNat 64 m.g) false ++ part (BitVec.ofNat 64 m.p) true
  | .mcst => ((mcstSlots (BitVec.ofNat 64 m.p)).map fun i => part (slotAddr i (m.p % 2 ^ 19)) true).flatten
  | _ => []

/-- Remote pads are engine-owned in their seats (R239, R263). -/
def State.remoteServe (s : State) (x : Seat) (m : Cmd) : Bool :=
  m.len == 0 || (s.clusterParts x m).all fun p =>
    p.1.id == x.id || (padsOf (p.2.1, m.len)).all fun q => p.1.pads.owner.getD q .thread == .engine

/-- A refusal of a remote port's access table, with the pad address (R239, R334). -/
def State.portRefusal (s : State) (x : Seat) (m : Cmd) : Option Nat :=
  ((s.clusterParts x m).find? fun p =>
    !s.allows (some (.port p.1.die p.1.tile)) (chanMaster x.id m.ch) p.2.2 (!p.2.2)).map (·.2.1)

/-! ### Delivery (R232, R237, R323) -/

/-- Memory address of dense byte b (R237). -/
def Cmd.gaddr (m : Cmd) (es b : Nat) : Nat :=
  let d0 := (hField m.snap 3).toNat
  let d1 := (hField m.snap 4).toNat
  let d2 := (hField m.snap 5).toNat
  let o := b / es
  let i0 := o % d0
  let i1 := o / d0 % d1
  let i2 := o / (d0 * d1) % d2
  let i3 := o / (d0 * d1 * d2)
  (m.g + es * (i0 + i1 * (hField m.snap 7).toNat + i2 * (hField m.snap 8).toNat + i3 * (hField m.snap 9).toNat) + b % es)
    % 2 ^ 57

/-- Dense bytes from b on whose addresses lie in one interleave line, at most n (R288). -/
def Cmd.lineRun (m : Cmd) (es line : Nat) : Nat → Nat → List (Nat × Nat)
  | 0, _ => []
  | n + 1, b =>
    if m.len ≤ b then [] else
    let va := m.gaddr es b
    if va / 128 = line then (b, va) :: m.lineRun es line n (b + 1) else []

/-- The first bytes of a run that lie in one sector. -/
def sectorRun : List (Nat × Nat) → List (Nat × Nat)
  | [] => []
  | p :: r => (p :: r).takeWhile fun q => q.2 / 64 == p.2 / 64

/-- The dense byte a command reads next: CPYI and CPYX have read the bytes that they hold back (R288). -/
def Cmd.readAt (m : Cmd) : Nat := if m.op = .cpyi ∨ m.op = .cpyx then m.done + m.buf.length else m.done

/-- Of n bytes from a pad address on, those of whole 8-byte units, each of which is written in one step; where they end the command,
all (R288). -/
def wholeUnits (a n : Nat) (last : Bool) : Nat := if last then n else n - (a + n) % 8

/-- The next bytes of a memory command: those of one line, at most 128. -/
def Cmd.nextRun (m : Cmd) (es : Nat) : List (Nat × Nat) := m.lineRun es (m.gaddr es m.readAt / 128) 128 m.readAt

/-- The stored page of an address as the side log compares pages: the cache's page, else 64 KiB (R247). -/
def State.samePage (s : State) (die a b : Nat) : Bool :=
  match (s.caches.getD die []).find? fun m => m.covers a with
  | some m => m.covers b
  | none => a / 2 ^ 16 == b / 2 ^ 16

/-- Some sector of a page is parked on the tile (R247). -/
def State.pageParked (s : State) (x : Seat) (va : Nat) : Bool :=
  (s.tile (x.id / 4)).sideLog.any fun e => s.samePage x.die va e.va

/-- One write to memory as a command makes it: bytes, or elements to combine with (R242). -/
structure MemWrite where
  va : Nat
  bytes : List (Nat × Byte)
  poison : Bool
  combine : Option (Nat × Nat × Nat)
  /-- as which master (R333) -/
  master : Nat
  deriving DecidableEq, Repr

/-- One element combined into memory: size, operation, element code, old and new value (R242). Float adds round by RNE,
keep subnormals and follow R46. -/
def combineElem (size sub code old v : Nat) : Nat :=
  match elemOf code with
  | .int w sg =>
    match sub with
    | 0 => (old + v) % 2 ^ w
    | 1 => if sg then (if signExtend w old ≤ signExtend w v then old else v) else min old v
    | _ => if sg then (if signExtend w old ≤ signExtend w v then v else old) else max old v
  | _ =>
    let x := decodeElem false code old
    let y := decodeElem false code v
    let r := match sub with
      | 0 => Ext.add false x y
      | 1 => Ext.minimum x y
      | _ => Ext.maximum x y
    roundElem code .rne 0 false r % 2 ^ (8 * size)

/-- The bytes a combination leaves, element by element. -/
def combineBytes (size sub code : Nat) (old : Nat → Byte) : Nat → List (Nat × Byte) → List (Nat × Byte)
  | 0, _ => []
  | n + 1, ws =>
    match ws with
    | [] => []
    | w :: _ =>
      let v := leNat ((ws.take size).map (·.2))
      let o := leNat ((List.range size).map fun i => old (w.1 + i))
      cellsAt w.1 (leBytes size (combineElem size sub code o v)) ++ combineBytes size sub code old n (ws.drop size)

/-- Several elements at one address combine one after the other. -/
def combineAll (size sub code : Nat) (read : Nat → Byte) (ws : List (Nat × Byte)) : List (Nat × Byte) :=
  let steps := (List.range (ws.length / size)).map fun i => (ws.drop (i * size)).take size
  steps.foldl (fun acc e =>
    let old (a : Nat) : Byte := match acc.reverse.find? (·.1 == a) with | some w => w.2 | none => read a
    acc ++ combineBytes size sub code old 1 e) []

/-- A write performed at its home (R330, R331, R335); addresses are physical. -/
def State.perform (s : State) (m pa0 va0 : Nat) (w : MemWrite) : Except Nat State :=
  let ws := w.bytes.map fun b => (pa0 + b.1 - va0, b.2)
  match w.combine with
  | none => s.writeSector m (lastWrites ws) w.poison
  | some (size, sub, code) =>
    if !s.allows (s.homeOf pa0) m true true then .error 0x11
    else if s.poisonedAt pa0 then .error 0x13
    else s.writeSector m (lastWrites (combineAll size sub code (fun a => (s.readPa a 1).headD 0) ws)) w.poison

/-- Park a sector; raised: DISCARD_WRITE is raised for it (R247). -/
def State.park (s : State) (x : Seat) (m : Cmd) (w : MemWrite) (raised : Bool) : State :=
  let t := s.tile (x.id / 4)
  s.putTile { t with sideLog := t.sideLog ++
    [{ seat := x.id, cmd := m.serial, va := w.va, bytes := w.bytes, poison := w.poison, combine := w.combine, raised := raised
       master := w.master }] }

/-- SUBSTCNT rises, up to its limit (R331, R389). -/
def Seat.countSubst (x : Seat) (n : Nat) : Seat :=
  { x with sys := { x.sys with substcnt := BitVec.ofNat 32 (min (x.sys.substcnt.toNat + n) (2 ^ 32 - 1)) } }

/-- How often a run of bytes reads its sector: once more wherever its address does not rise (R331). -/
def readsOf : List Nat → Nat
  | a :: b :: r => (if a < b then 0 else 1) + readsOf (b :: r)
  | _ => 1

/-- What comes of one sector of a command. -/
inductive SectorResult where
  /-- delivered or parked: the command goes on -/
  | went (s : State)
  /-- the channel holds (R246, R247) -/
  | held
  | ended (s : State)
  deriving Repr

/-- An outbound sector: performed, or parked, or the command ends; at its home the access table is asked before the discard mark
(R247, R248, R323, R330); adv counts are delivered. Links to the home that carry no traffic hold the channel (R388). -/
def State.sendSector (s : State) (x : Seat) (m : Cmd) (w : MemWrite) (adv : Nat) : SectorResult :=
  let n := w.bytes.length
  let log := (s.tile (x.id / 4)).sideLog.length
  let parkIt (t : State) (raise : Bool) : SectorResult :=
    if Config.sideLogSectors ≤ log then .held
    else
      let y := if raise then x.latch 0x12 7 m.pc (BitVec.ofNat 64 w.va) else x
      .went ((t.park x m w raise).putSeat (y.deliver m adv 0))
  match s.translate x true false w.va with
  | .fault e => .ended (s.endCmd x m e w.va)
  | .cell _ => .ended (s.endCmd x m 0x11 w.va)
  | .untranslated => parkIt s false
  | .pa pa _ disc =>
    let t := s.touch x w.va
    if !s.homeUp x.die pa then .held
    else if !s.allows (s.homeOf pa) w.master true w.combine.isSome then .ended (t.endCmd x m 0x11 w.va)
    else if disc then parkIt t true
    else if s.pageParked x w.va then parkIt t false
    else match t.perform w.master pa w.va w with
      | .error e => .ended (t.endCmd x m e w.va)
      | .ok u => .went (u.putSeat (x.deliver m adv n))

/-- An earlier command of the channel has this sector parked: a read of it waits for the replay (R227, R252). -/
def State.parkedAhead (s : State) (x : Seat) (ch va : Nat) : Bool :=
  (s.tile (x.id / 4)).sideLog.any fun e => e.seat == x.id && e.va / 64 == va / 64 &&
    x.copy.cmds.any fun m => m.serial == e.cmd && m.ch == ch

/-- Bytes of one sector read for a command (R323, R330, R331): the bytes and the seat with its substitution counted, or
none where the channel holds, as it does while the links to the home carry no traffic (R388). -/
def State.fetchSector (s : State) (x : Seat) (ch : Nat) (vas : List Nat) : Except Nat (Option (List Byte × Seat)) :=
  match vas with
  | [] => .ok (some ([], x))
  | va :: _ =>
    match s.translate x false false va with
    | .fault e => .error e
    | .cell _ => .error 0x11
    | .untranslated => .ok none
    | .pa pa et disc =>
      if s.parkedAhead x ch va || !s.homeUp x.die pa then .ok none
      else match s.readSector (chanMaster x.id ch) (pa / 64 * 64) 64 et disc with
      | .error e => .error e
      | .ok r => .ok (some (vas.map fun v => r.1.getD (v % 64) 0, if r.2 then x.countSubst (readsOf vas) else x))

/-- One sector of a CPYI; bytes of an unfinished 8-byte unit are held back (R288). A poisoned granule that the command does not cover
whole ends it (R179; DEDUCED, log entry 28). -/
def State.cpyiSector (s : State) (x : Seat) (m : Cmd) (run : List (Nat × Nat)) : SectorResult :=
  let va := (run.map (·.2)).headD 0
  match s.fetchSector x m.ch (run.map (·.2)) with
  | .error e => .ended ((s.touch x va).endCmd x m e va)
  | .ok none => .held
  | .ok (some (new, y)) =>
    let bs := m.buf ++ new
    let a := m.p + m.done
    let n := wholeUnits a bs.length (m.readAt + new.length == m.len)
    if x.enginePartial m.p (m.p + m.len) a bs.length then .ended (s.endCmd x m 0x22 a)
    else
      let z := (y.updCmd m.serial fun k => { k with buf := bs.drop n }).engineWrite m.p a (bs.take n)
      .went ((s.touch x va).putSeat (z.deliver m n n))

/-- One sector of a CPYO or CPYR. -/
def State.cpyoSector (s : State) (x : Seat) (m : Cmd) (run : List (Nat × Nat)) : SectorResult :=
  let src := x.padBytes (m.p + m.done) run.length
  let es := elemSize (elemCode m.snap)
  s.sendSector x m
    { va := (run.map (·.2)).headD 0, bytes := (run.map (·.2)).zip src
      poison := x.poisoned (m.p + m.done) run.length
      combine := if m.op = .cpyr then some (es, (controlWord m.ctl).sub, elemCode m.snap) else none
      master := chanMaster x.id m.ch } run.length

/-- One cell of a CPYL (R243); poison of its source is carried to the cell (R239). -/
def State.cpylCell (s : State) (x : Seat) (m : Cmd) : SectorResult :=
  let es := s.cmdElem x .cpyl m.snap m.g
  let va := m.gaddr es m.done
  match s.translate x true true va with
  | .fault e => .ended (s.endCmd x m e va)
  | .cell _ =>
    match s.cellAt x va with
    | none => .ended (s.endCmd x m 0x0F va)
    | some (r, i, _) =>
      if !s.allows (some (.lattice x.die)) (chanMaster x.id m.ch) true false then .ended (s.endCmd x m 0x11 va)
      else if s.cellBad x.die r.num i then .ended (s.endCmd x m 0x13 va)
      else
        let v : BitVec 512 := BitVec.ofNat 512 (x.padNat (m.p + m.done) es)
        if r.type = 3 ∧ isNan64 (v.extractLsb' 0 64) then .ended (s.endCmd x m 0x15 va)
        else
          let t := (s.putSeat (x.deliver m es es)).raise x.die r i (joinCell r.type (s.cell x.die r i) v)
          .went (if x.poisoned (m.p + m.done) es then { t with cellPoison := t.cellPoison ++ [(x.die, r.num, i)] } else t)
  | _ => .ended (s.endCmd x m 0x0F va)

/-- The value offset of the dense group at a dense byte of a CPYX (R240). -/
def Cmd.valueOff (m : Cmd) (es b : Nat) : Nat :=
  let d0 := (hField m.snap 3).toNat
  let d1 := (hField m.snap 4).toNat
  let d2 := (hField m.snap 5).toNat
  let o := b / es
  let row := o / d0
  o % d0 / 2 + row % d1 * (hField m.snap 7).toNat + row / d1 % d2 * (hField m.snap 8).toNat +
    row / (d1 * d2) * (hField m.snap 9).toNat

/-- The addresses of a group's two values, and of its index byte (R240). -/
def Cmd.valueVas (m : Cmd) (es b : Nat) : List Nat :=
  (List.range (2 * es)).map fun i => (m.g + es * m.valueOff es b + i) % 2 ^ 57
def Cmd.indexVas (m : Cmd) (es b : Nat) : List Nat := [(m.g + (hField m.snap 14).toNat + m.valueOff es b / 4) % 2 ^ 57]

/-- The addresses that the groups from dense byte b on read in one interleave line, at most n groups (R288). -/
def Cmd.planeLine (m : Cmd) (es : Nat) (vas : Nat → List Nat) (line : Nat) : Nat → Nat → List Nat
  | 0, _ => []
  | n + 1, b =>
    if m.len ≤ b then [] else
    let l := (vas b).filter fun a => a / 128 == line
    if l.isEmpty then [] else l ++ m.planeLine es vas line n (b + 4 * es)

/-- The bytes that are needed of a plane: those read before, and where one is missing, the command's part of its line, read in
one step (R288). -/
def State.fillPlane (s : State) (x : Seat) (m : Cmd) (vas : Nat → List Nat) (buf : List (Nat × Byte)) :
    Except (Nat × Nat) (Option (List (Nat × Byte) × Seat)) :=
  let es := elemSize (elemCode m.snap)
  let need := vas m.readAt
  match need.find? fun a => !(buf.any fun c => c.1 == a) with
  | none => .ok (some (buf, x))
  | some a =>
    let line := m.planeLine es vas (a / 128) 512 m.readAt
    let here := line.filter fun v => v / 64 == a / 64
    let there := line.filter fun v => v / 64 != a / 64
    let old := buf.filter fun c => need.contains c.1
    match s.fetchSector x m.ch here with
    | .error e => .error (e, a)
    | .ok none => .ok none
    | .ok (some (bs, y)) =>
      match s.fetchSector y m.ch there with
      | .ok (some (cs, z)) => .ok (some (here.zip bs ++ there.zip cs ++ old, z))
      | _ => .ok (some (here.zip bs ++ old, y))

/-- A plane's bytes of the group, whose values may lie in two lines. -/
def State.planeBytes (s : State) (x : Seat) (m : Cmd) (vas : Nat → List Nat) (buf : List (Nat × Byte)) :
    Except (Nat × Nat) (Option (List (Nat × Byte) × Seat)) :=
  match s.fillPlane x m vas buf with
  | .ok (some (b, y)) => s.fillPlane y m vas b
  | r => r

/-- Bytes of a buffer at addresses. -/
def bufferBytes (buf : List (Nat × Byte)) (vas : List Nat) : List Byte :=
  vas.map fun a => match buf.find? (·.1 == a) with | some c => c.2 | none => 0

/-- One dense group of a CPYX: two values and their nibble (R240). -/
def State.cpyxGroup (s : State) (x : Seat) (m : Cmd) : SectorResult :=
  let es := elemSize (elemCode m.snap)
  match s.planeBytes x m (m.valueVas es) m.vals with
  | .error (e, a) => .ended (s.endCmd x m e a)
  | .ok none => .held
  | .ok (some (vals, y)) =>
    match s.planeBytes y m (m.indexVas es) m.idxs with
    | .error (e, a) => .ended (s.endCmd x m e a)
    | .ok none => .held
    | .ok (some (idxs, z)) =>
      let b := m.readAt
      let v := bufferBytes vals (m.valueVas es b)
      let k := ((bufferBytes idxs (m.indexVas es b)).headD 0).toNat
      let nib := k / (if m.valueOff es b / 2 % 2 = 1 then 16 else 1) % 16
      let at' (i : Nat) : List Byte :=
        if i = nib / 4 then v.drop es else if i = nib % 4 then v.take es else List.replicate es 0
      let bs := m.buf ++ at' 0 ++ at' 1 ++ at' 2 ++ at' 3
      let a := m.p + m.done
      let n := wholeUnits a bs.length (b + 4 * es == m.len)
      if x.enginePartial m.p (m.p + m.len) a bs.length then .ended (s.endCmd x m 0x22 a)
      else
        let w := z.updCmd m.serial fun k => { k with vals := vals, idxs := idxs, buf := bs.drop n }
        let t := s.touchAll x ((if vals = m.vals then [] else m.valueVas es b) ++ (if idxs = m.idxs then [] else m.indexVas es b))
        .went (t.putSeat ((w.engineWrite m.p a (bs.take n)).deliver m n n))

/-- Bytes from pad to pads, at most to the end of a granule of the destinations, whose offsets are the same; poison is carried (R239,
R263, R288). The target ports' access tables are asked when the
bytes reach them (R239, R335). -/
def State.padStep (s : State) (x : Seat) (m : Cmd) (src : Seat × Nat) (dst : List (Seat × Nat)) : SectorResult :=
  let n := min (m.len - m.done) (64 - ((dst.map (·.2)).headD 0 + m.done) % 64)
  let bs := src.1.padBytes (src.2 + m.done) n
  match s.portRefusal x m with
  | some a => .ended (s.endCmd x m 0x11 a)
  | none =>
    match dst.find? fun d => d.1.enginePartial d.2 (d.2 + m.len) (d.2 + m.done) n with
    | some d => .ended (s.endCmd x m 0x22 (d.2 + m.done))
    | none =>
      let put (t : State) (d : Seat × Nat) : State :=
        match t.seat? d.1.id with
        | none => t
        | some y => t.putSeat (y.engineCopy d.2 m.done bs src.1 src.2)
      let t := dst.foldl put s
      let u := if m.done + n = m.len then t.visitDone x.id m else t
      match u.seat? x.id with
      | some y => .went (u.putSeat (y.deliver m n n))
      | none => .held

/-- A word that the command has yet to read fails its parity: the engine waits for the rebuild (R177, R178). -/
def State.sourceFails (s : State) (x : Seat) (m : Cmd) : Bool :=
  match m.op with
  | .cpys =>
    match s.clusterSeat x (clusterSlot (BitVec.ofNat 64 m.g)) with
    | some y => y.parityFails (m.g % 2 ^ 19 + m.done) (m.len - m.done)
    | none => false
  | _ => m.reads.any fun r => x.parityFails (m.rest r).1 (m.rest r).2

/-- The next sector of a started command. -/
def State.deliverNext (s : State) (x : Seat) (m : Cmd) : SectorResult :=
  let es := elemSize (elemCode m.snap)
  if s.sourceFails x m then .held else
  match m.op with
  | .cpyi => s.cpyiSector x m (sectorRun (m.nextRun es))
  | .cpyo => s.cpyoSector x m (sectorRun (m.nextRun es))
  | .cpyr => s.cpyoSector x m (sectorRun (m.nextRun es))
  | .cpyx => s.cpyxGroup x m
  | .cpyl => s.cpylCell x m
  | .cpys =>
    match s.clusterSeat x (clusterSlot (BitVec.ofNat 64 m.g)), s.clusterSeat x (clusterSlot (BitVec.ofNat 64 m.p)) with
    | some a, some b =>
      s.padStep x m (a, clusterOffset (BitVec.ofNat 64 m.g)) [(b, clusterOffset (BitVec.ofNat 64 m.p))]
    | _, _ => .held
  | .mcst =>
    s.padStep x m (x, m.g)
      ((mcstSlots (BitVec.ofNat 64 m.p)).filterMap fun i => (s.clusterSeat x i).map fun y => (y, m.p % 2 ^ 19))
  | _ => .held

/-- The bytes of one line are one step at their home: a second sector of the line follows the first (R288). -/
def State.deliverLine (s : State) (x : Seat) (m : Cmd) : Option State :=
  match s.deliverNext x m with
  | .held => none
  | .ended t => some t
  | .went t =>
    match t.seat? x.id with
    | none => some t
    | some y =>
      match y.copy.cmds.find? (·.serial == m.serial) with
      | none => some t
      | some k =>
        let es := elemSize (elemCode m.snap)
        let mem := m.op == .cpyi || m.op == .cpyo || m.op == .cpyr
        if mem && k.readAt < k.len && k.gaddr es k.readAt / 128 == m.gaddr es m.readAt / 128 &&
            k.gaddr es k.readAt / 64 != m.gaddr es m.readAt / 64 then
          match t.deliverNext y k with
          | .went u => some u
          | .ended u => some u
          | .held => none
        else some t

/-! ### Translation arrives (R246, R320, R326, R328) -/

/-- The memory processor's lease, one millisecond (R327). -/
def leaseTime : Nat := 1000000

/-- An entry as R325 lays it down; one of a reserved size is not installed. -/
def Mapping.valid (m : Mapping) : Bool :=
  m.size ≤ 3 && m.va % pageBytes m.size == 0 && m.pa % pageBytes m.size == 0 && m.va + pageBytes m.size ≤ Config.virtualSize

/-- Two pages have an address in common. -/
def Mapping.meets (a b : Mapping) : Bool := overlap a.va (pageBytes a.size) b.va (pageBytes b.size)

/-- The page stands as the memory processor holds it, or is new and meets no other (R326). -/
def State.mapPage (s : State) (m : Mapping) : Option (State × Mapping) :=
  match s.page m.va with
  | some p => if p.pend then none else some (s, p)
  | none => if m.valid && !(s.pages.any fun p => p.meets m) then some ({ s.moveIn m with pages := s.pages ++ [m] }, m) else none

/-- An entry enters a cache as the most recently used; a full cache loses the least recently used one (R325, R326). -/
def State.install (s : State) (die : Nat) (m : Mapping) : State :=
  let e : Mapping := { m with lease := s.chorus + leaseTime }
  { s with caches := s.caches.setIfInBounds die ((e :: (s.caches.getD die []).filter fun p => !p.meets m).take 8192) }

/-- The memory processor renews the extents over a page on a die pair whose lease has ended; an eager one over a page with an unmap
pending becomes lazy (R328). -/
def State.renewExtents (s : State) (die : Nat) (m : Mapping) : State :=
  let meets (e : Extent) (p : Mapping) : Bool := overlap e.base e.len p.va (pageBytes p.size)
  let renew (e : Extent) : Extent :=
    if e.kind ≠ 2 ∧ e.lease ≤ s.chorus ∧ meets e m then
      if e.kind = 0 && s.pages.any fun p => p.pend && meets e p then
        { e with kind := 1, pbase := 0, lease := s.chorus + leaseTime }
      else { e with lease := s.chorus + leaseTime }
    else e
  s.rewriteExtents memMaster (·.die == die) (·.map renew)

/-- Bytes of a rank table's entries (R256). -/
def Cmd.tableBytes (m : Cmd) : Nat := 8 * (hField m.snap 3).toNat

/-- The first byte of each sector of memory that a started A2AV has yet to read for the segment at its position, the own one at
position 0 (R260). -/
def Seat.sendSectors (x : Seat) (m : Cmd) : List Nat :=
  let p := (hField m.snap 3).toNat
  let j := (m.rank + m.pos) % p
  let c := x.countTable (hField m.snap 14).toNat p
  if m.op = .a2av ∧ 2 ^ 63 ≤ m.g ∧ m.phase = 1 ∧ m.pos < p then
    (virtualSectors (m.g % 2 ^ 57 + (c.take j).foldl (· + ·) 0 + m.sub) (c.getD j 0 - m.sub)).map (·.1)
  else []

/-- The virtual addresses that the next step of a command accesses: those of the rank table before a collective or SENDO starts,
then those of its next bytes; the fields a command ignores name none (R255, R256). -/
def Seat.awaits (x : Seat) (m : Cmd) : List Nat :=
  let es := elemSize (elemCode m.snap)
  match m.op with
  | .cpyi | .cpyo | .cpyr => if m.started && m.done < m.len then [m.gaddr es m.readAt] else []
  | .cpyx => if m.started && m.done < m.len then m.valueVas es m.readAt ++ m.indexVas es m.readAt else []
  | .a2av | .ared | .agth | .sendo =>
    if m.started then x.sendSectors m else (virtualSectors (shapeBase m.snap) m.tableBytes).map (·.1)
  | _ => []

/-- The virtual addresses that an A2AV past its phase 1 writes next: of its own segment, then of the segments it receives (R260). -/
def Cmd.receives (m : Cmd) : List Nat :=
  let at' (i n : Nat) : Nat := (m.p % 2 ^ 57 + (m.counts.take i).sum + n) % 2 ^ 57
  if m.op ≠ .a2av ∨ m.p < 2 ^ 63 ∨ m.phase ≠ 1 then []
  else if m.pos = 0 then (if m.sub < m.counts.getD m.rank 0 then [at' m.rank m.sub] else [])
  else ((List.range m.counts.length).filter fun i => m.got.getD i 0 < m.counts.getD i 0).map fun i => at' i (m.got.getD i 0)

/-- A page cannot be mapped: commands of the die pair that hold on it, or have parked sectors of it, end PAGE_FAULT, an A2AV too that
has to write it while the side log is full (R246 to R248, R320, R328), and a sequencer that waits for it takes its trap (R56, R141). -/
def State.unmappable (s : State) (die va : Nat) : State :=
  let fail (t : State) (k : Nat × Nat) : State :=
    match t.seat? k.1 with
    | none => t
    | some x =>
      match x.copy.cmds.find? (·.serial == k.2) with
      | none => t
      | some m =>
        let parked := (t.parked x m.serial).find? fun e => t.onePage va e.va
        let front := (x.front m.ch).map (·.serial) == some m.serial
        let write := m.op == .cpyo || m.op == .cpyr
        let full := Config.sideLogSectors ≤ (t.tile (x.id / 4)).sideLog.length
        let held := ((x.awaits m).find? fun a => t.onePage va a && t.translate x write false a == .untranslated).or
          ((if full then m.receives else []).find? fun a => t.onePage va a && t.translate x true false a == .untranslated)
        match parked, held with
        | some e, _ => t.endCmd x m 0x10 e.va
        | none, some a => if front && m.fault.isNone then t.endCmd x m 0x10 a else t
        | none, none => t
  let all := ((s.seats.filter fun x => x.die == die).map fun x =>
    (x.copy.cmds.filter (·.fault.isNone)).map fun m => (x.id, m.serial)).flatten
  let t := all.foldl fail s
  let trap (g : Gang) : Gang :=
    match g.held with
    | some (a, f) => if g.seqDie = die ∧ s.onePage va a then { g with held := none, seqTrap := some f } else g
    | none => g
  { t with gangs := t.gangs.map trap }

/-- The area that holds the journal's mirror and the save slabs, 4,096 of them (R358, R373, log entry 12). -/
def Mapping.reserved (m : Mapping) : Bool := overlap m.pa (pageBytes m.size) (mirrorBase - 4096 * 2 ^ 20) (4097 * 2 ^ 20)

/-- TRANSLATION_INSTALL: the memory processor answers for a page of a die pair; it maps no page onto the reserved area (R358), and
installs no entry that names an address without memory: the accesses that need it end PAGE_FAULT (R320, R325, R326, R328). -/
def execTranslationInstall (die va : Nat) (ans : Option PageAnswer) (s : State) : Out :=
  eventOut s (
    let backs (m : Mapping) : Bool := s.backed m.pa (pageBytes m.size)
    if 8 ≤ die ∨ !s.diepres.getLsbD die then none
    else match ans with
      | none => if (s.page va).all fun p => !backs p then some (s.unmappable die va) else none
      | some a =>
        let m : Mapping :=
          { va := a.va, pa := a.pa, size := a.size, r := a.r, w := a.w, et := a.et, disc := a.disc, pend := false, lease := 0 }
        if !m.covers va || !m.valid || m.reserved then none
        else match s.mapPage m with
          | none => none
          | some (t, p) =>
            if backs p then some ((t.install die p).renewExtents die p) else some (s.unmappable die va))

/-! ### Replay of parked sectors (R247) -/

/-- The first parked sector whose page takes writes now, or turns out to be discarded with no DISCARD_WRITE raised (R330). -/
def State.replayable (s : State) (t : Tile) : Option Parked :=
  t.sideLog.find? fun e =>
    match s.seat? e.seat with
    | none => false
    | some x => match s.translate x true false e.va with
      | .pa _ _ disc => !disc || !e.raised
      | .fault _ => true
      | _ => false

/-- A parked sector replays: it is performed, or its command ends; on a discarded page DISCARD_WRITE is raised and it stays
(R244, R247, R248, R330). -/
def State.replayOne (s : State) (tile : Nat) (e : Parked) : Option State := do
  let t := s.tile tile
  let x ← s.seat? e.seat
  let u := s.putTile { t with sideLog := t.sideLog.erase e }
  match x.copy.cmds.find? (·.serial == e.cmd) with
  | none => some u
  | some m =>
    match s.translate x true false e.va with
    | .pa pa _ disc =>
      let h := s.touch x e.va
      if !s.homeUp x.die pa then none
      else if !s.allows (s.homeOf pa) e.master true e.combine.isSome then some (h.endCmd x m 0x11 e.va)
      else if disc then
        let v := h.putTile { t with sideLog := t.sideLog.map fun d => if d = e then { d with raised := true } else d }
        if e.raised then none else some (v.putSeat (x.latch 0x12 7 m.pc (BitVec.ofNat 64 e.va)))
      else
        match (u.touch x e.va).perform e.master pa e.va
            { va := e.va, bytes := e.bytes, poison := e.poison, combine := e.combine, master := e.master } with
        | .ok v => some (v.putSeat (x.discharge m e.bytes.length))
        | .error c => some (h.endCmd x m c e.va)
    | .fault c => some (s.endCmd x m c e.va)
    | _ => none

/-- The sector behind a parked one, where it is the other sector of the same line and command (R288). -/
def lineMate (e : Parked) : List Parked → Option Parked
  | d :: f :: r =>
    if d = e then (if f.seat == e.seat && f.cmd == e.cmd && f.va / 128 == e.va / 128 && f.va / 64 != e.va / 64 then some f else none)
    else lineMate e (f :: r)
  | _ => none

/-- SIDE_LOG_REPLAY: parked sectors replay in the order they were parked, those of one line in one step (R247, R288). -/
def execSideLogReplay (tile : Nat) (s : State) : Out :=
  eventOut s do
    let e ← s.replayable (s.tile tile)
    let t ← s.replayOne tile e
    match lineMate e (s.tile tile).sideLog with
    | some f => if (t.tile tile).sideLog.contains f then some ((t.replayOne tile f).getD t) else some t
    | none => some t

/-! ### Completion (R245) and CPYK (R249) -/

/-- A copy is complete: every byte delivered, every outbound byte performed. -/
def State.copyDone (s : State) (x : Seat) (m : Cmd) : Bool :=
  m.started && m.fault.isNone && m.done == m.len && (s.parked x m.serial).isEmpty

/-- Bytes of a command that are not delivered yet, parked ones aside (R249); of an A2AV past its phase 1 those of the segments it
receives, whose other counts phase 1 has discharged (R260), and of an ARED those that some rank has not brought. -/
def Cmd.undelivered (m : Cmd) : Nat :=
  match m.op with
  | .a2av => if m.phase = 1 then m.counts.sum - m.got.sum else m.len
  | .agth => m.len - m.got.sum
  | .ared => if m.started then m.len - m.got.foldl min m.len else m.len
  | _ => m.len - m.done

/-- The retirement of the command a CPYK named: the result takes its place in the landing (R249). A collective is remembered for the
ranks that have yet to meet it (R257). -/
def State.kill (s : State) (k : Nat) : Option State := do
  let x ← s.seat? k
  let (_, serial, d, issued) ← x.copy.kills.head?
  let y : Seat := { x with copy := { x.copy with kills := x.copy.kills.tail } }
  let result (v : Nat) (z : Seat) : Seat :=
    { z with landings := z.landings.map fun l =>
        if l.slot == 7 && l.due == issued + 10 && l.eff == .sReg d (BitVec.allOnes 64) then
          { l with eff := .sReg d (BitVec.ofNat 64 v) } else l }
  match x.copy.cmds.find? (·.serial == serial) with
  | none => some (s.putSeat (result 0 y))
  | some m =>
    let parked := ((s.parked x serial).map fun e => e.bytes.length).foldl (· + ·) 0
    let r := m.undelivered + parked + m.lost
    let f := if m.fault.isSome then 2 ^ 63 else 0
    let z := if m.op = .a2av ∨ m.op = .ared ∨ m.op = .agth then
        { y with copy := { y.copy with past := y.copy.past ++ [m] } } else y
    some ((s.dropParked x serial fun _ => true).retire (result (f + r) z) m)

/-- Every outstanding command of the seat waits on a pad of its own that is THREAD, or RETURNING before it issued; one that has
ended in a fault is not outstanding (R229). -/
def Seat.stuck (x : Seat) : Bool :=
  let out := x.copy.cmds.filter (·.fault.isNone)
  (!out.isEmpty || !x.copy.waits.isEmpty) && (out.all fun m => !m.started && !x.padsServe m) &&
  (x.copy.waits.all fun w => match w.deposit with
    | some bs => !x.engineOwned w.pad bs.length
    | none => false)

/-- The execution at the head of a seat's queue. -/
def Seat.head (x : Seat) : Option Item :=
  match x.queue with
  | .exec i :: _ => some i
  | _ => none

/-- COPY_DEADLOCK: the tile finds a quota hold that can never end (R229). -/
def execCopyDeadlock (k : Nat) (s : State) : Out :=
  eventOut s do
    let x ← s.seat? k
    let (slot, why) ← x.held
    let it ← x.head
    if s.cursor.isNone && x.run == .run && why == 1 && x.stuck then
      some (s.stopSeat { x.stopWith (it.frame copyBad slot it.pc false) with held := none })
    else none

end Sys2Proof.Machine
end

