-- ==== Sys2Proof/Machine/Ctl.lean ====
section
/-! DEFINITION. The CTL operations of the sequencer (R118 to R130) and the seat control of the tile: YIELD, SKPZ, SKPE,
SYSR, SYSW, FMTW (R124, R131, R184). -/

namespace Sys2Proof.Machine

/-! ### Branches (R118 to R120) -/

/-- A branch: the sequencer decides now; two delay bundles follow (R112, R119). -/
def Gang.branchTo (live : Gang) (pc : Nat) (taken : Bool) (target : Nat) : Gang :=
  { live with flow := .branch { remain := 2, taken := taken, target := target, branch := pc, reth := false } }

def execBr (cc : BitVec 4) (ga gb : RField) (disp : BitVec 7) (lit : Option Word32) (s : State) : Out :=
  seqOp (fun c => do
    let x ← if cc = 6 then pure 0 else c.src ga
    let y ← if cc = 6 then pure 0 else c.src gb
    return c.live.branchTo c.base.pc (cond cc.toNat x y) (targetNat (branchTarget c.base.pc disp lit))) s

def execBrv (cc : BitVec 4) (gb : RField) (disp : BitVec 7) (lit : Option Word32) (s : State) : Out :=
  seqOp (fun c => do
    let x ← if cc = 6 then pure 0 else c.voteVal
    let y ← if cc = 6 then pure 0 else c.src gb
    return c.live.branchTo c.base.pc (cond cc.toNat x y) (targetNat (branchTarget c.base.pc disp lit))) s

def execJmp (disp : BitVec 7) (lit : Option Word32) (s : State) : Out :=
  seqOp (fun c => return c.live.branchTo c.base.pc true (targetNat (branchTarget c.base.pc disp lit))) s

def execJmpReg (ga : RField) (s : State) : Out :=
  seqOp (fun c => do
    let x ← c.src ga
    return c.live.branchTo c.base.pc true x.toNat) s

/-- The link: the bundle after both delay bundles, into G31 with latency 1 (R116, R119). -/
def Gang.link (live : Gang) (slot pc : Nat) : Gang := live.landG slot 1 31 (BitVec.ofNat 64 (pc + 3))

def execCall (disp : BitVec 7) (lit : Option Word32) (s : State) : Out :=
  seqOp (fun c =>
    return (c.live.link c.slot c.base.pc).branchTo c.base.pc true (targetNat (branchTarget c.base.pc disp lit))) s

def execCallReg (ga : RField) (s : State) : Out :=
  seqOp (fun c => do
    let x ← c.src ga
    return (c.live.link c.slot c.base.pc).branchTo c.base.pc true x.toNat) s

def execRet (s : State) : Out :=
  seqOp (fun c => do
    let x ← c.src 31
    return c.live.branchTo c.base.pc true x.toNat) s

/-! ### Loops (R101, R102, R121 to R123) -/

/-- A loop table entry's fields (R101). -/
structure LoopEntry where
  first : Nat
  last : Nat
  kind : Nat
  src : Nat
  cnt : Word32
  zero : Bool
  deriving DecidableEq, Repr

def loopEntry (w : BitVec 128) : LoopEntry where
  first := (w.extractLsb' 0 24).toNat
  last := (w.extractLsb' 32 24).toNat
  kind := (w.extractLsb' 56 2).toNat
  src := (w.extractLsb' 58 2).toNat
  cnt := w.extractLsb' 96 32
  zero := w.extractLsb' 24 8 == 0 && w.extractLsb' 60 36 == 0

/-- The checks of R101 and R122 on an entry. -/
def LoopEntry.ok (e : LoopEntry) (g : Gang) : Bool :=
  e.zero && e.src != 3 && e.kind != 3 && !(e.src == 0 && e.cnt == 0) && e.first ≤ e.last && e.last < g.kernel.bundles &&
  e.first == g.pc + 1 && (match g.loops with | [] => true | l :: _ => e.last ≤ l.last)

/-- Rounds of a level with n work indices (R103). -/
def loopLimit (g : Gang) (kind n : Nat) : Nat :=
  match kind with
  | 1 => (n + g.c - 1) / g.c
  | 2 => (n + g.d - 1) / g.d
  | _ => n

/-- The trip count by SRC (R122). -/
def SCtx.trips (c : SCtx) (e : LoopEntry) : Except TrapInfo Nat :=
  match e.src with
  | 0 => .ok e.cnt.toNat
  | 1 => do
    let v ← c.src ((e.cnt.extractLsb' 0 5).setWidth 6)
    return v.toNat % 2 ^ 32
  | _ => do
    let h ← c.hsrc (e.cnt.extractLsb' 4 4).toNat
    return (hField h (e.cnt.extractLsb' 0 4).toNat).toNat

/-- LOOP: a number that the table does not hold is no entry (DEDUCED, log entry 14). The trip count is read, then the
level pushed: a seventh raises LOOP_DEPTH, and a zero count passes the body over (R102). Loop entry reads the bundle map (R56). -/
def execLoop (n : BitVec 6) (s : State) : Out :=
  seqOp (fun c =>
    match c.base.kernel.loopTab[n.toNat]? with
    | none => .error { cause := 0x02, addr := 0 }
    | some w =>
      let e := loopEntry w
      if !e.ok c.base then .error { cause := 0x02, addr := 0 }
      else do
        let t ← c.trips e
        if 6 ≤ c.base.loops.length then throw { cause := 0x06, addr := 0 }
        let lim := loopLimit c.base e.kind t
        if lim = 0 then return { c.live with flow := .goto (e.last + 1) false }
        let l : LoopLevel :=
          { index := 0, limit := lim, entry := n.toNat, kind := e.kind, trips := t, first := e.first, last := e.last }
        return { c.live with loops := l :: c.live.loops, next := none }) s

/-- LBRK ends the top k levels and goes to the bundle after the outermost of them. With fewer levels on the stack it
raises LOOP_DEPTH once the bundle's other slots have executed (R123). -/
def execLbrk (k : BitVec 3) (s : State) : Out :=
  seqOp (fun c =>
    if c.base.loops.length < k.toNat then .ok { c.live with flow := .depth }
    else
      let last := ((c.base.loops[k.toNat - 1]?).map (·.last)).getD 0
      .ok { c.live with loops := c.base.loops.drop k.toNat, flow := .goto (last + 1) true }) s

/-! ### Ending, trapping, handlers (R126 to R130) -/

def execHalt (s : State) : Out := seqOp (fun c => return { c.live with flow := .halt }) s

/-- TRAP and BRK raise their cause once the rest of the bundle has executed (R128). -/
def execTrap (code : BitVec 7) (s : State) : Out :=
  seqOp (fun c => return { c.live with flow := .trap 0x1C code.toNat }) s

def execBrk (code : BitVec 7) (s : State) : Out :=
  seqOp (fun c => return { c.live with flow := .trap 0x1D code.toNat }) s

/-- The handler table, by rising cause (R129). -/
def insertHandler (c t : Nat) : List (Nat × Nat) → List (Nat × Nat)
  | [] => [(c, t)]
  | x :: r => if c < x.1 then (c, t) :: x :: r else if c = x.1 then (c, t) :: r else x :: insertHandler c t r

def execHndl (cause : RField) (disp : BitVec 7) (lit : Option Word32) (s : State) : Out :=
  seqOp (fun c =>
    return { c.live with
      handlers := insertHandler cause.toNat (targetNat (branchTarget c.base.pc disp lit)) c.live.handlers }) s

def execHndlRemove (cause : RField) (s : State) : Out :=
  seqOp (fun c => return { c.live with handlers := c.live.handlers.filter (·.1 != cause.toNat) }) s

/-- RETH outside handler level raises ILLEGAL_FIELD; at handler level it has two delay bundles, and the return follows
them (R130, R371). -/
def execReth (s : State) : Out :=
  seqOp (fun c =>
    if c.base.level then
      .ok { c.live with flow := .branch { remain := 2, taken := true, target := 0, branch := c.base.pc, reth := true } }
    else .error { cause := 0x02, addr := 0 }) s

/-! ### Seat control (R105, R124, R125) -/

/-- YIELD offers the issue slot once its bundle has retired (R94, R124). -/
def execYield (s : State) : Out := seatOp (fun c => return { c.live with yields := true }) s

/-- An operation that skipping and discarding seats execute too (R105). -/
def seatAlways (body : Ctx → Except TrapInfo Seat) (s : State) : Out :=
  match s.cursor with
  | some (.seat k slot base) =>
    match s.seat? k with
    | none => .refused .noExecution
    | some live =>
      match body { s := s, base := base, live := live, slot := slot } with
      | .error e => .next (s.takeTrap base e slot)
      | .ok x => .next (s.putSeat x)
  | _ => .refused .noExecution

/-- SKPZ raises the depth; a seat that does not skip (a discarding one counts as skipping, R104) and whose MT is zero
begins to skip (R105). -/
def execSkpz (s : State) : Out :=
  seatAlways (fun c =>
    if 8 ≤ c.base.skipDepth then .error { cause := 0x07, addr := 0 }
    else
      let d := c.base.skipDepth + 1
      .ok { c.live with
        skipDepth := d, skipLevel := if !c.base.suppressed && c.base.mt == 0 then d else c.base.skipLevel }) s

/-- SKPE lowers the depth and ends the skip of its region (R105). -/
def execSkpe (s : State) : Out :=
  seatAlways (fun c =>
    if c.base.skipDepth = 0 then .error { cause := 0x07, addr := 0 }
    else .ok { c.live with
      skipDepth := c.base.skipDepth - 1
      skipLevel := if c.base.skipDepth = c.base.skipLevel then 0 else c.base.skipLevel }) s

/-! ### System registers (R113, R114, R131) -/

/-- GANGCFG (R114). -/
def Seat.gangcfg (x : Seat) : Word64 :=
  (0 : BitVec 16) ++ x.cfg.dieMask ++ BitVec.ofNat 4 x.cfg.seqDie ++ BitVec.ofNat 4 x.cfg.d ++ (0 : BitVec 4) ++
  BitVec.ofNat 4 x.e ++ BitVec.ofNat 8 x.cfg.c ++ BitVec.ofNat 8 x.m ++ BitVec.ofNat 8 x.cfg.seqNum

/-- SEATID (R114). -/
def Seat.seatid (x : Seat) : Word64 := (0 : BitVec 53) ++ BitVec.ofNat 3 x.prio ++ (0 : BitVec 6) ++ BitVec.ofNat 2 x.num

/-- WHEELPOS (R296). -/
def Seat.wheelpos (x : Seat) : Word64 :=
  (0 : BitVec 35) ++ BitVec.ofNat 10 x.sync.wheelCnt ++ BitVec.ofNat 10 x.sync.wheelStride ++ BitVec.ofNat 9 x.sync.wheelFirst

/-- A system register as the seat reads it (R113); none for a number the table does not list. THRSTAT's LEVEL is the
die pair's present level (R399). -/
def Ctx.sysreg (c : Ctx) (n : Nat) : Option Word64 :=
  let x := c.base
  match n with
  | 0x00 => some (BitVec.ofNat 64 x.die)
  | 0x01 => some (BitVec.ofNat 64 x.tile)
  | 0x02 => some x.seatid
  | 0x03 => some x.gangcfg
  | 0x04 => some (if x.sys.chk then 1 else 0)
  | 0x05 => some (x.sys.monlimit.setWidth 64)
  | 0x06 => some (BitVec.ofNat 64 c.s.chorus)
  | 0x07 => some x.wheelpos
  | 0x08 => some x.sys.frame.cause
  | 0x09 => some x.sys.frame.f0
  | 0x0A => some x.sys.frame.f1
  | 0x0B => some x.sys.frame.f2
  | 0x0C => some x.sys.frame.f3
  | 0x0D => some x.sys.hndlbase
  | 0x0E => some (x.sys.substcnt.setWidth 64)
  | 0x0F => let t := c.s.tile (x.id / 4); some (t.skink ++ t.timing)
  | 0x10 => some x.sys.fiAcc
  | 0x11 => some x.sys.fiLatch
  | 0x12 => some x.sys.ensample
  | 0x13 =>
    some ((x.sys.thrstat &&& ~~~(0x70000 : Word64)) ||| (BitVec.ofNat 64 (c.s.power.level.getD x.die 0 % 8) <<< 16))
  | _ => none

/-- SYSR (R131, R132). -/
def execSysr (d : RField) (num : BitVec 6) (s : State) : Out :=
  seatOp (fun c =>
    match c.sysreg num.toNat with
    | some v => .ok (c.live.landS c.slot 2 d.toNat v)
    | none => .error { cause := 0x02, addr := 0 }) s

/-- FI_ACC arms a flip of a bit of an entry of the seat's own banks, eight issue cycles on; the logical row becomes the
physical row it names now, in the ROW field of the pending value (R373, R383). An armed write that finds nothing to
flip leaves ARM at 0. -/
def Seat.writeFiAcc (x : Seat) (base : Seat) (v : Word64) : Seat :=
  let keep : Word64 := v &&& 0x1FFFC7F
  if v.getLsbD 24 then
    match base.mat.banks[(v.extractLsb' 22 2).toNat]? with
    | some b =>
      if (v.extractLsb' 0 7).toNat < 72 then
        let row := ((v.extractLsb' 16 6).toNat + b.h) % 64
        let phys := (keep &&& ~~~(0x3F0000 : Word64)) ||| (BitVec.ofNat 64 row <<< 16)
        { x with sys := { x.sys with fiAcc := keep, fiPend := some (phys, base.cycle + 8) } }
      else { x with sys := { x.sys with fiAcc := keep &&& ~~~(0x1000000 : Word64) } }
    | none => { x with sys := { x.sys with fiAcc := keep &&& ~~~(0x1000000 : Word64) } }
  else { x with sys := { x.sys with fiAcc := keep, fiPend := none } }

/-- ENSAMPLE: an interval outside 10 to 24 leaves EN at 0; IDX and DROP are read-only (R400). -/
def Seat.writeEnsample (x : Seat) (v : Word64) : Seat :=
  let intv := (v.extractLsb' 1 5).toNat
  let en : Word64 := if v.getLsbD 0 && 10 ≤ intv && intv ≤ 24 then 1 else 0
  let kept := x.sys.ensample &&& 0x00FFFF0000000000
  { x with sys := { x.sys with ensample := kept ||| (v &&& 0x7F03E) ||| en } }

/-- SYSW at the end of its bundle; reserved bits and read-only registers are ignored (R6, R113, R131). -/
def execSysw (a : RField) (num : BitVec 6) (s : State) : Out :=
  seatOp (fun c => do
    let v ← c.base.src a
    let x := c.live
    match num.toNat with
    | 0x04 => return { x with sys := { x.sys with chk := v.getLsbD 0 } }
    | 0x0D => return { x with sys := { x.sys with hndlbase := v } }
    | 0x10 => return x.writeFiAcc c.base v
    | 0x11 => return { x with sys := { x.sys with fiLatch := v &&& 0x80FFFFFF } }
    | 0x12 => return x.writeEnsample v
    | n => if n < 0x14 then return x else throw { cause := 0x02, addr := 0 }) s

/-- Values FMTW refuses (R184, R185). -/
def fmtBad (v : Word64) : Bool :=
  v.extractLsb' 35 29 != 0 || v.getLsbD 23 || v.extractLsb' 14 2 != 0 ||
  v.extractLsb' 0 4 == 0xF || v.extractLsb' 4 4 == 0xF || v.extractLsb' 8 4 == 0xF || v.extractLsb' 16 4 == 0xF ||
  5 ≤ (v.extractLsb' 20 3).toNat || 2 ≤ (v.extractLsb' 12 2).toNat || v.extractLsb' 24 2 == 3

/-- FMTW schedules the value for the fourth execution after this one and returns the old FMT (R185, R186). -/
def execFmtw (d a : RField) (s : State) : Out :=
  seatOp (fun c => do
    let v ← c.base.src a
    if fmtBad v then throw { cause := 0x23, addr := 0 }
    let x := c.live.landS c.slot 1 d.toNat c.base.regs.fmt
    return { x with regs := { x.regs with fmtPend := x.regs.fmtPend ++ [(v, 4)] } }) s

end Sys2Proof.Machine
end

