-- ==== Sys2Proof/Machine/Engine.lean ====
section
/-! DEFINITION. The start of commands and the routing and collective engines: rank tables, ROUTE, A2AV, ARED, AGTH,
RROT, injection of SENDO, completion (R254 to R266). -/

namespace Sys2Proof.Machine

/-! ### Rank entries (R256) -/

def rankDev (e : Nat) : Nat := e / 2 ^ 48
def rankTag (e : Nat) : Nat := e / 2 ^ 32 % 2 ^ 16
def rankE (e : Nat) : Nat := e / 2 ^ 24 % 2 ^ 8
def rankM (e : Nat) : Nat := e / 2 ^ 16 % 2 ^ 8

/-- TAG, DIDX and MIDX of an entry as one number, by which an ordered message names its receiver. -/
def participantOf (e : Nat) : Nat := e / 2 ^ 16 % 2 ^ 32

/-- PODID.DEV, where it is set (R409). -/
def State.devNo (s : State) : Option Nat := if s.podid.getLsbD 12 then some (s.podid.toNat % 2 ^ 12) else none

/-- An entry names this device (R256, R409). -/
def State.here (s : State) (e : Nat) : Bool := rankDev e == 0xFFFF || s.devNo == some (rankDev e)

/-- The collective tag of a seat's launch; a saved gang keeps its. -/
def State.tagOf (s : State) (x : Seat) : Option Nat := do
  let g ← (s.gang? x.gang).or ((s.saved.find? fun v => v.gang.id == x.gang).map (·.gang))
  let l ← s.launches.find? (·.num == g.launch)
  return l.tag

def State.isNamed (s : State) (n : Nat) (x : Seat) : Bool :=
  s.tagOf x == some (n / 2 ^ 16) && x.e == n / 2 ^ 8 % 2 ^ 8 && x.m == n % 2 ^ 8

/-- The resident seat that a participant number names. -/
def State.participant (s : State) (n : Nat) : Option Seat := s.seats.find? (s.isNamed n)

/-- An entry that R256 refuses. -/
def badRank (e : Nat) : Bool := e % 2 ^ 16 != 0 || 7 < rankE e || 63 < rankM e

/-! ### Memory sides of the engines (R246 to R248, R256, R260) -/

/-- The device number is set: the peer ports are open (R409). -/
def State.podOpen (s : State) : Bool := s.podid.getLsbD 12

def State.input (s : State) (i : Nat) : SwitchInput := s.inputs.getD i SwitchInput.reset

/-- The port that a device is reached through: open, its link up, and the device in its reach map (R409, R416). -/
def State.portTo (s : State) (dev : Nat) : Option Nat :=
  (List.range 12).find? fun p => s.podOpen && (s.input (p + 1)).up && (s.rmap.getD p 0).getLsbD dev

/-- Traffic comes in through a peer port (R409, R416). -/
def State.portIn (s : State) (p : Nat) : Bool := p < 12 && s.podOpen && (s.input (p + 1)).up

/-- Peer port p may be used: its reach map names a device (R409). -/
def State.portUsed (s : State) (p : Nat) : Bool := s.podOpen && s.rmap.getD p 0 != 0

/-- The id of a peer port, under which what arrives through it acts (R333). -/
def portMaster (p : Nat) : Nat := 0x4820 + p

/-- Bytes read by sectors: none where a sector is not translated. -/
def State.readParts (s : State) (x : Seat) (ch : Nat) : List (Nat × Nat) → Except (Nat × Nat) (Option (List Byte × Seat))
  | [] => .ok (some ([], x))
  | p :: r =>
    match s.fetchSector x ch ((List.range p.2).map (p.1 + ·)) with
    | .error e => .error (e, p.1)
    | .ok none => .ok none
    | .ok (some (bs, y)) =>
      match s.readParts y ch r with
      | .ok (some (cs, z)) => .ok (some (bs ++ cs, z))
      | o => o

/-- The bytes of an interleave line from an address on up to the segment's end, read in one step, unless the last read brought them
already; with the seat, and the sectors looked up (R260, R288). -/
def State.readLine (s : State) (x : Seat) (ch b e : Nat) (buf : List (Nat × Byte)) :
    Except (Nat × Nat) (Option (List (Nat × Byte) × Seat × List Nat)) :=
  if buf.any (·.1 == b % 2 ^ 57) then .ok (some (buf, x, []))
  else
    let vs := virtualSectors b (min (b / 128 * 128 + 128) e - b)
    match s.readParts x ch vs with
    | .error r => .error r
    | .ok none => .ok none
    | .ok (some (bs, y)) => .ok (some ((vs.flatMap fun p => (List.range p.2).map (p.1 + ·)).zip bs, y, vs.map (·.1)))

/-- n bytes of a segment that ends at e, at most 128 (R260, R288). -/
def State.readStream (s : State) (x : Seat) (m : Cmd) (a n e : Nat) :
    Except (Nat × Nat) (Option (List Byte × Seat × List Nat)) :=
  let at' (b k : Nat) : List Nat := (List.range k).map fun i => (b + i) % 2 ^ 57
  let k := min n (128 - a % 128)
  let keep (y : Seat) (l : List (Nat × Byte)) : Seat := y.updCmd m.serial fun m => { m with vals := l }
  match s.readLine x m.ch a e m.vals with
  | .error r => .error r
  | .ok none => .ok none
  | .ok (some (l, y, vs)) =>
    let first := bufferBytes l (at' a k)
    if n ≤ k then .ok (some (first, keep y l, vs))
    else match s.readLine y m.ch (a + k) e l with
      | .error r => .error r
      | .ok none => .ok none
      | .ok (some (l', z, ws)) => .ok (some (first ++ bufferBytes l' (at' (a + k) (n - k)), keep z l', vs ++ ws))

/-- An area of an A2AV: n bytes at an offset of a segment that ends at another (R260), with the seat after the reads and the sectors
looked up. -/
def State.readArea (s : State) (x : Seat) (m : Cmd) (off n last : Nat) : Except (Nat × Nat) (Option (List Byte × Seat × List Nat)) :=
  if m.g < 2 ^ 63 then .ok (some (x.padBytes (m.g % 2 ^ 19 + off) n, x, []))
  else s.readStream x m (m.g % 2 ^ 57 + off) n (m.g % 2 ^ 57 + last)

/-- The source of an area's poison: the pads, at the area's place. -/
def areaPoison (x : Seat) (area off n : Nat) : Bool := area < 2 ^ 63 && n != 0 && x.poisoned (area % 2 ^ 19 + off) n

/-- The outbound sectors of a write in order; held if one holds (R247). -/
def sendParts (k serial master : Nat) (poison : Bool) : List (Nat × List Byte) → State → SectorResult
  | [], s => .went s
  | p :: r, s =>
    match s.seat? k with
    | none => .held
    | some x =>
      match x.copy.cmds.find? (·.serial == serial) with
      | none => .held
      | some m =>
        match s.sendSector x m { va := p.1, bytes := cellsAt p.1 p.2, poison := poison, combine := none, master := master } 0 with
        | .went t => sendParts k serial master poison r t
        | o => o

/-- Bytes written into the receive area of an A2AV as a part of the bytes from off on, start of them before: delivered in the
pads, or performed or parked in memory (R179, R244, R260). -/
def State.writeArea (s : State) (x : Seat) (m : Cmd) (master off start total : Nat) (bs : List Byte) (poison : Bool) :
    SectorResult :=
  if m.p < 2 ^ 63 then
    let lo := m.p % 2 ^ 19 + off
    let a := lo + start
    if x.enginePartial lo (lo + total) a bs.length then .ended (s.endCmd x m 0x22 a)
    else
      let y := x.engineWrite lo a bs
      let z := if poison && !bs.isEmpty then y.markPoison a bs.length else y
      .went (s.putSeat (z.discharge m bs.length))
  else
    let a := m.p % 2 ^ 57 + off + start
    sendParts x.id m.serial master poison
      ((sectorsOf a bs.length).map fun p => (p.1 % 2 ^ 57, (bs.drop (p.1 - a)).take p.2)) s

/-! ### Collectives (R257, R260, R261) -/

def CmdOp.collective (o : CmdOp) : Bool := o == .a2av || o == .ared || o == .agth

/-- P, N, AUX of a command's image (R255). -/
def Cmd.ranksN (m : Cmd) : Nat := (hField m.snap 3).toNat
def Cmd.aux (m : Cmd) : Nat := (hField m.snap 14).toNat
/-- Bytes of one rank's part of an ARED or AGTH. -/
def Cmd.part (m : Cmd) : Nat := elemSize (elemCode m.snap) * (hField m.snap 4).toNat

/-- Matched commands agree in opcode, P, N, ELEM and AUX where these are read (R257). -/
def Cmd.agrees (m k : Cmd) : Bool :=
  m.op == k.op && m.ranksN == k.ranksN &&
  (m.op == .a2av || (hField m.snap 4 == hField k.snap 4 && elemCode m.snap == elemCode k.snap)) &&
  (m.op == .agth || m.aux == k.aux)

/-- Two commands meet: one table and channel, and the same place in the issue order of each (R257). -/
def Cmd.meets (m k : Cmd) : Bool :=
  k.started && k.op.collective && shapeBase k.snap == shapeBase m.snap && k.ch == m.ch && k.nth == m.nth

/-- The command of a rank that meets a collective and agrees with it, once its engine has read the table (R257). -/
def State.matched (s : State) (m : Cmd) (rank : Nat) : Option (Seat × Cmd) := do
  let e ← m.ranks[rank]?
  if !s.here e then none
  let y ← s.participant (participantOf e)
  let k ← y.copy.cmds.find? fun k => m.meets k && m.agrees k && k.fault.isNone
  return (y, k)

/-- A command's rank table names a seat of this device. -/
def State.names (s : State) (m : Cmd) (y : Seat) : Bool :=
  m.ranks.any fun e => s.here e && s.isNamed (participantOf e) y

/-- One member of one gang, on whatever seat. -/
def Seat.sameMember (x y : Seat) : Bool := x.gang == y.gang && x.e == y.e && x.m == y.m

/-- The seats of the running gangs, and of the saved ones that will be resumed. -/
def State.allSeats (s : State) : List Seat := s.seats ++ (s.saved.filter (!·.failed)).flatMap (·.seats)

/-- A member changes, resident or saved. -/
def State.updMember (s : State) (y : Seat) (f : Seat → Seat) : State :=
  let g (z : Seat) : Seat := if y.sameMember z then f z else z
  { s with seats := s.seats.map g, saved := s.saved.map fun v => { v with seats := v.seats.map g } }

def State.resident (s : State) (y : Seat) : Bool := s.seats.any y.sameMember

/-- The commands of other members of this device that meet a collective: either table names the other's member; those of saved gangs
too, and those that CPYK has retired (R257). -/
def State.meeting (s : State) (x : Seat) (m : Cmd) : List (Seat × Cmd) :=
  ((s.allSeats.filter fun y => !x.sameMember y).map fun y =>
    ((y.copy.cmds ++ y.copy.past).filter fun k => m.meets k && (s.names m y || s.names k x)).map fun k => (y, k)).flatten

/-- Ranks of other seats of this device and their matched commands. -/
def State.peersOf (s : State) (m : Cmd) : List (Seat × Cmd) :=
  ((List.range m.ranksN).filter (· != m.rank)).filterMap (s.matched m)

/-- The A2AV of a rank whose counts a command hears: one that it meets, or that agreed with it and has ended since (R260). -/
def State.counter (s : State) (m : Cmd) (rank : Nat) : Option (Seat × Cmd) :=
  (s.matched m rank).or do
    let y ← s.participant (participantOf (← m.ranks[rank]?))
    let k ← y.copy.cmds.find? fun k => m.meets k && m.agrees k
    return (y, k)

/-- The counts that an A2AV sent to the ranks of this device in phase 1 have not all arrived (R260). -/
def State.countsLeft (s : State) (m : Cmd) : Bool :=
  m.op == .a2av && m.started && (List.range m.ranksN).any fun j =>
    j != m.rank && (s.matched m j).any fun p => p.2.phase == 0 && !p.2.heard.contains m.rank

/-- Ranks of other devices. -/
def State.farRanks (s : State) (m : Cmd) : List Nat :=
  (List.range m.ranksN).filter fun j => !s.here (m.ranks.getD j 0)

/-- The next rank a command sends to (R260, R261). -/
def Cmd.nextRank (m : Cmd) : Nat := (m.rank + m.pos) % m.ranksN

/-- Send counts of an A2AV (R260). -/
def Seat.sendCounts (x : Seat) (m : Cmd) : List Nat := x.countTable m.aux m.ranksN

def sumTo (l : List Nat) (n : Nat) : Nat := (l.take n).foldl (· + ·) 0

/-- Bytes that a collective sends to a rank (R260, R261). -/
def Seat.sendSize (x : Seat) (m : Cmd) (rank : Nat) : Nat :=
  if m.op = .a2av then (x.sendCounts m).getD rank 0 else m.part

/-- Bytes that it receives from a rank. -/
def Cmd.size (m : Cmd) (rank : Nat) : Nat := if m.op = .a2av then m.counts.getD rank 0 else m.part

/-- n bytes from a place in what a collective sends to a rank: of A2AV's segment, of ARED's and AGTH's source (R260, R261); with the
seat after the reads and the sectors looked up. -/
def State.payload (s : State) (x : Seat) (m : Cmd) (rank start n : Nat) : Except (Nat × Nat) (Option (List Byte × Seat × List Nat)) :=
  if m.op = .a2av then
    let c := x.sendCounts m
    s.readArea x m (sumTo c rank + start) n (sumTo c (rank + 1))
  else .ok (some ((m.buf.drop start).take n, x, []))

/-- Those bytes carry poison. -/
def payloadPoison (x : Seat) (m : Cmd) (rank start n : Nat) : Bool :=
  if m.op = .a2av then areaPoison x m.g (sumTo (x.sendCounts m) rank + start) n
  else n != 0 && x.poisoned (m.g + start) n

/-- Something leaves for another device (R410). -/
def State.tell (s : State) (p : PeerSend) : State := { s with peerOut := s.peerOut ++ [p] }

/-- Every device of another rank can be reached (R409). -/
def State.farPorts (s : State) (m : Cmd) : Bool := (s.farRanks m).all fun j => (s.portTo (rankDev (m.ranks.getD j 0))).isSome

/-- A collective's message to a rank of another device, through the port that leads there; none while there is none (R409, R410). -/
def State.tellRank (s : State) (m : Cmd) (rank : Nat) (part : PeerPart) : Option State :=
  let e := m.ranks.getD rank 0
  (s.portTo (rankDev e)).map fun p => s.tell (.bulk p e m.op.code m.ch part)

/-- Payload to a peer device, to be acknowledged (R279, R410). -/
def State.bulk (s : State) (x : Seat) (m : Cmd) (rank : Nat) (bs : List Byte) (poison : Bool) : Option State :=
  (s.putSeat { x with unacked := x.unacked + 1 }).tellRank m rank (.data bs poison)

/-- W stands at the bytes delivered contiguously; it passes the last of them once what the command sends has been performed too,
with the owner flip before it (R161, R231, R254). -/
def Cmd.landed (m : Cmd) : Nat :=
  let upTo := if m.op = .ared then m.got.foldl min m.part
    else
      let whole := (List.range m.ranksN).takeWhile fun i => m.got.getD i 0 == m.size i
      (whole.map m.size).sum + (if whole.length < m.ranksN then m.got.getD whole.length 0 else 0)
  if upTo = m.len ∧ m.pos < m.ranksN then m.len - 1 else upTo

/-- The command's delivered bytes are counted anew. -/
def Seat.recount (x : Seat) (serial ch : Nat) : Seat :=
  ((x.updCmd serial fun m => { m with done := max m.done m.landed }).flipOwners).syncW ch

/-- n more bytes of a rank's part have landed. -/
def Seat.hear (x : Seat) (m : Cmd) (rank n : Nat) : Seat :=
  (x.updCmd m.serial fun m => { m with got := m.got.set rank (m.got.getD rank 0 + n) }).recount m.serial m.ch

/-- A command past its local step passes the positions at which it sends nothing: empty parts, and ranks that have ended for want of capacity
(R260). -/
def State.advance (s : State) (k serial : Nat) : Nat → State
  | 0 => s
  | n + 1 =>
    match s.seat? k with
    | none => s
    | some x =>
      match x.copy.cmds.find? (·.serial == serial) with
      | none => s
      | some m =>
        if m.fault.isSome || m.pos == 0 then s
        else if m.ranksN ≤ m.pos then s.putSeat (x.recount serial m.ch)
        else if m.dead.contains m.nextRank || x.sendSize m m.nextRank == 0 then
          (s.putSeat (x.updCmd serial fun m => { m with pos := m.pos + 1, sub := 0 })).advance k serial n
        else s

/-- n bytes of the sender's present part have been performed at their receiver; the whole part ends the position. -/
def State.stepSender (s : State) (k serial n : Nat) : State :=
  match s.seat? k with
  | none => s
  | some x =>
    match x.copy.cmds.find? (·.serial == serial) with
    | none => s
    | some m =>
      if m.sub + n < x.sendSize m m.nextRank then s.putSeat (x.updCmd serial fun m => { m with sub := m.sub + n })
      else (s.putSeat (x.updCmd serial fun m => { m with pos := m.pos + 1, sub := 0 })).advance k serial (m.ranksN + 1)

/-- The next bytes for a rank of another device leave through its port, at most 64; an A2AV waits until the rank takes payload
(R260, R261, R410). -/
def State.sendPeer (s : State) (x : Seat) (m : Cmd) : Option State :=
  let j := m.nextRank
  let size := x.sendSize m j
  if m.ranksN ≤ m.pos || m.pos == 0 || s.here (m.ranks.getD j 0) || size ≤ m.sub || (m.op == .a2av && !m.ready.contains j) ||
      m.dead.contains j then none
  else
    let n := min (size - m.sub) 64
    match s.payload x m j m.sub n with
    | .error (c, a) => some (s.endCmd x m c a)
    | .ok none => none
    | .ok (some (bs, y, vs)) =>
      let z := y.updCmd m.serial fun m => { m with sub := m.sub + n }
      ((s.touchAll x vs).putSeat z).bulk z m j bs (payloadPoison x m j m.sub n)

/-! ### What a release waits for (R279, R284, R285), and what a halt cuts (R110, R251, R293, R424) -/

/-- A seat's pads lie within a scope of a seat: core is the scratchpad of its own tile (R285). -/
def inScope (scope : Nat) (x y : Seat) : Bool :=
  match scope with
  | 0 => x.id / 4 == y.id / 4
  | 1 => x.die == y.die && x.cluster == y.cluster
  | 2 => x.die == y.die
  | _ => true

/-- A rank's place lies within a scope: a seat of this device, or a peer device (R279, R285). -/
def State.rankInScope (s : State) (scope : Nat) (x : Seat) (m : Cmd) (j : Nat) : Bool :=
  let e := m.ranks.getD j 0
  if s.here e then
    match s.participant (participantOf e) with
    | some y => inScope scope x y
    | none => 3 ≤ scope
  else 4 ≤ scope

/-- What a collective has yet to send, or never sends because a rank cannot take it, lies, in part, within a scope; before its table
is read any rank may (R260, R279, R284). -/
def State.sendsWithin (s : State) (scope : Nat) (x : Seat) (m : Cmd) : Bool :=
  if !m.started then 1 ≤ scope
  else ((List.range m.ranksN).filter (1 ≤ ·)).any fun i =>
    let j := (m.rank + i) % m.ranksN
    (m.pos ≤ i || m.dead.contains j) && x.sendSize m j != 0 && s.rankInScope scope x m j

/-- A command that a release at a scope waits for: writes of its own that lie within the scope and are not performed yet. One
that ended in a fault is never performed, and parked sectors that it has dropped are never replayed, for which a release of any
scope waits (R247, R279, R284, R285, R301). -/
def State.waitsForCmd (s : State) (x : Seat) (r : Release) (m : Cmd) : Bool :=
  m.serial < r.cycle &&
  (m.lost != 0 || match m.op with
    | .cpys | .mcst => (s.clusterParts x m).any fun p => p.2.2 && inScope r.scope x p.1
    | .rrot => 1 ≤ r.scope && m.pos == 0
    | .cpyl => 2 ≤ r.scope
    | .cpyo | .cpyr => 3 ≤ r.scope
    | .a2av => (3 ≤ r.scope && 2 ^ 63 ≤ m.p && (m.phase == 0 || m.pos == 0)) || s.sendsWithin r.scope x m
    | .ared | .agth => s.sendsWithin r.scope x m
    | .sendo => 4 ≤ r.scope
    | _ => false)

/-- The seat has halted and its gang is to be saved (R375). -/
def State.halted (s : State) (x : Seat) : Bool :=
  x.run != .run && (match s.gang? x.gang with
    | some g => (match g.stop with
      | .haltSent .cancel | .haltSent .kill => false
      | .haltSent _ | .failed _ => true
      | _ => false)
    | none => false)

/-- A release of the seat that a save waits for waits for a command issued before it: such commands go on (R293, R375; DEDUCED, log
entry 28). -/
def State.owedTo (s : State) (x : Seat) (m : Cmd) : Bool :=
  x.sync.relq.any fun d => match d with
    | .release r =>
      let ks := x.copy.cmds.filter (s.waitsForCmd x r)
      m.serial < r.cycle && !ks.isEmpty && ks.all (·.fault.isNone)
    | .msg _ => false

/-- A command reads on: a draining seat's cut one does not, and neither do those of a seat that has halted to be saved (R110, R251,
R424). -/
def State.goesOn (s : State) (x : Seat) (m : Cmd) : Bool :=
  if s.halted x then s.owedTo x m else !(m.cut && s.draining x)

/-! ### A2AV, phase 1 and the own segment (R260) -/

/-- A command changes at a rank of this device, resident or saved, which passes the positions it need not send at. -/
def State.tellMember (s : State) (p : Seat × Cmd) (f : Cmd → Cmd) : State :=
  let t := s.updMember p.1 fun y => y.updCmd p.2.serial f
  if s.resident p.1 then t.advance p.1.id p.2.serial (p.2.ranksN + 1) else t

/-- The capacity is exceeded: the command ends, and the ranks that send to it know (R260). -/
def State.overCapacity (s : State) (x : Seat) (m : Cmd) : Option State := do
  let t ← (s.farRanks m).foldlM (fun t j => t.tellRank m j .full) (s.endCmd x m 0x21 (shapeBase m.snap))
  return ((s.meeting x m).filter fun p => m.agrees p.2 && p.2.fault.isNone).foldl (fun t p =>
    t.tellMember p fun k => { k with dead := m.rank :: k.dead }) t

/-- Phase 1 ends: offsets and discharge; the own segment is copied next (R260). -/
def State.endCounts (s : State) (x : Seat) (m : Cmd) : Option State :=
  let total := m.counts.foldl (· + ·) 0
  if m.len < total then s.overCapacity x m
  else some (s.putSeat ((x.discharge m (m.len - total)).updCmd m.serial fun m =>
    { m with phase := 1, pos := 0, sub := 0, got := List.replicate m.ranksN 0 }))

/-- A count is written into the receive counts; the last one ends phase 1 (R260). -/
def State.putCount (s : State) (x : Seat) (m : Cmd) (rank v : Nat) : Option State :=
  let a := m.aux + 4 * m.ranksN + 4 * rank
  if x.enginePartial (m.aux + 4 * m.ranksN) (m.aux + 8 * m.ranksN) a 4 then some (s.endCmd x m 0x22 a)
  else
    let y := x.engineWrite (m.aux + 4 * m.ranksN) a (leBytes 4 v)
    let f (m : Cmd) : Cmd := { m with counts := m.counts.set rank v, heard := rank :: m.heard }
    let z := y.updCmd m.serial f
    if (f m).heard.length = m.ranksN then (s.putSeat z).endCounts z (f m) else some (s.putSeat z)

/-- Bytes to the end of the granule or of the interleave line that the next bytes of a rank's part go to: the step by which parts
land (R288). -/
def Cmd.stepTo (m : Cmd) (a rank : Nat) : Nat :=
  let unit := if m.op = .a2av ∧ 2 ^ 63 ≤ m.p then 128 else 64
  min (m.size rank - m.got.getD rank 0) (unit - a % unit)

/-- Where a rank's part begins in the destination (R260, R261). -/
def Cmd.place (m : Cmd) (rank : Nat) : Nat :=
  match m.op with
  | .a2av => m.p % (if m.p < 2 ^ 63 then 2 ^ 19 else 2 ^ 57) + sumTo m.counts rank
  | .agth => m.p + rank * m.part
  | _ => m.p

/-- The own segment is copied: the command takes payload, and the ranks of other devices know (R260, R410). -/
def State.ownCopied (s : State) (x : Seat) (m : Cmd) : Option State := do
  let t ← (s.farRanks m).foldlM (fun t j => t.tellRank m j .ready)
    (s.putSeat (x.updCmd m.serial fun m => { m with pos := 1, sub := 0 }))
  return t.advance x.id m.serial (m.ranksN + 1)

/-- The next bytes of an A2AV's own segment; after the last of them it takes payload (R260). -/
def State.copyOwn (s : State) (x : Seat) (m : Cmd) : Option State :=
  let got := m.got.getD m.rank 0
  if m.size m.rank ≤ got then s.ownCopied x m
  else
    let n := m.stepTo (m.place m.rank + got) m.rank
    match s.payload x m m.rank got n with
    | .error (c, a) => some (s.endCmd x m c a)
    | .ok none => none
    | .ok (some (bs, y, vs)) =>
      match ((s.touchAll x vs).putSeat y).writeArea y m (chanMaster x.id m.ch) (sumTo m.counts m.rank) got (m.size m.rank) bs
          (payloadPoison x m m.rank got n) with
      | .held => none
      | .ended t => some t
      | .went t => (t.seat? x.id).map fun z =>
        t.putSeat ((z.updCmd m.serial fun m => { m with sub := m.sub + n }).hear m m.rank n)

/-- COPY_SECTOR_TRANSLATION (R232, R323): the command at the front of a channel moves its next bytes. -/
def execCopySectorTranslation (k c : Nat) (s : State) : Out :=
  eventOut s do
    let x ← s.seat? k
    let m ← x.front c
    if !m.started || m.fault.isSome || !s.goesOn x m then none
    if m.op.collective then
      (if s.sourceFails x m then none
      else if m.op == .a2av && m.phase == 1 && m.pos == 0 then s.copyOwn x m
      else s.sendPeer x m)
    else if m.done < m.len then s.deliverLine x m else none

/-! ### The start (R160, R163, R164, R239, R256, R280) -/

/-- The seats of a ring: the gang's members in the cluster by slot (R264). -/
def State.ring (s : State) (x : Seat) : List Seat := (List.range 8).filterMap (s.clusterSeat x)

/-- The own steps of a collective that has read its table (R260, R261). -/
def State.beginCollective (s : State) (x : Seat) (m : Cmd) : Option State :=
  match m.op with
  | .a2av =>
    let c := x.sendCounts m
    do
      let out ← (s.farRanks m).foldlM (fun (t : State) j => do
        let y ← t.seat? x.id
        t.bulk y m j (leBytes 4 (c.getD j 0)) false) s
      let y ← out.seat? x.id
      out.putCount y m m.rank (c.getD m.rank 0)
  | _ =>
    let src := x.padBytes m.g m.part
    let dst := if m.op = .agth then m.p + m.rank * m.part else m.p
    if m.g ≠ dst ∧ x.enginePartial dst (dst + m.part) dst m.part then some (s.endCmd x m 0x22 dst)
    else
      let y := if m.g = dst then x else x.engineCopy dst 0 src x m.g
      let z := y.updCmd m.serial fun m => { m with buf := src, pos := 1 }
      let w := if m.op = .agth || m.ranksN == 1 then z.discharge m m.part else z
      some ((s.putSeat (w.hear { m with pos := 1 } m.rank m.part)).advance x.id m.serial (m.ranksN + 1))

/-- Keys order by stamp, device, sequence (R414). -/
def OrdMsg.before (m h : OrdMsg) : Bool :=
  m.stamp < h.stamp || (m.stamp == h.stamp && (m.dev < h.dev || (m.dev == h.dev && m.seq < h.seq)))

/-- Queues stand in key order (R414). -/
def insertOrd (m : OrdMsg) : List OrdMsg → List OrdMsg
  | [] => [m]
  | h :: r => if m.before h then m :: h :: r else h :: insertOrd m r

/-- The stamp, device and sequence number of a SENDO that enters the chorus switch, and the message (R265, R414). -/
def State.inject (s : State) (x : Seat) (m : Cmd) : State :=
  let e := m.ranks.getD ((BitVec.ofNat 64 m.p).extractLsb' 32 16).toNat 0
  let w := controlWord m.ctl
  let msg : OrdMsg :=
    { stamp := m.stamp.getD s.chorus, dev := s.devNo.getD 0, seq := s.ordSeq.toNat
      dest := if s.here e then s.devNo.getD 0 else rankDev e, seat := participantOf e, addr := m.p % 2 ^ 19
      data := x.padBytes m.g 64, poison := x.poisoned m.g 64, sig := if w.sig then some w.sem else none
      src := some (x.id, m.serial), master := chanMaster x.id m.ch }
  let i := s.inputs.getD 0 SwitchInput.reset
  let t := s.putSeat (x.updCmd m.serial fun m => { m with sent := some s.ordSeq.toNat })
  { t with inputs := t.inputs.setIfInBounds 0 { i with queue := insertOrd msg i.queue }, ordSeq := t.ordSeq + 1 }

/-- An AGTH whose source overlaps its destination and is not the block of its own rank (R261; log entry 19). -/
def Cmd.strayBlock (m : Cmd) (rank : Nat) : Bool :=
  m.op == .agth && m.g != m.p + rank * m.part && overlap m.g m.part m.p m.len

/-- A member's command ends with COPY_BAD for its disagreement: at once where it is resident, else when it resumes (R257, R266). -/
def State.endMember (s : State) (p : Seat × Cmd) : State :=
  if s.resident p.1 then
    match s.seat? p.1.id with
    | some z => s.endCmd z p.2 0x21 (shapeBase p.2.snap)
    | none => s
  else s.updMember p.1 fun y => y.updCmd p.2.serial fun k => { k with odd := true }

/-- The table is read: the own rank, or COPY_BAD; matched commands that disagree end (R256, R257). A task that meets a rank of another
device this way cannot be rerun (R391). -/
def State.withTable (s : State) (x : Seat) (m : Cmd) (es : List Nat) : Option State :=
  let own := (List.range es.length).filter fun i =>
    s.here (es.getD i 0) && s.isNamed (participantOf (es.getD i 0)) x
  if es.any badRank ∨ own.length ≠ 1 ∨ m.strayBlock (own.headD 0) then some (s.endCmd x m 0x21 (shapeBase m.snap))
  else
    let f (m : Cmd) : Cmd :=
      { m with started := true, rank := own.headD 0, ranks := es, counts := List.replicate es.length 0
               got := List.replicate es.length 0 }
    let k := f m
    let z := x.updCmd m.serial f
    let y := if m.op.collective && !(s.farRanks k).isEmpty then { z with tied := true } else z
    let t := s.putSeat y
    if m.op = .sendo then some (t.inject y k)
    else
      let odd := (t.meeting y k).filter fun p => !k.agrees p.2
      if odd.isEmpty then t.beginCollective y k
      else some ((odd.filter (·.2.fault.isNone)).foldl State.endMember (t.endCmd y k 0x21 (shapeBase k.snap)))

/-- Eight-byte entries of a rank table. -/
def rankEntries : List Byte → Nat → List Nat
  | _, 0 => []
  | bs, n + 1 => leNat (bs.take 8) :: rankEntries (bs.drop 8) n

/-- A lattice operation or watch of the seat that comes before a CPYL is on its way to the replica of its die pair: the CPYL's
joins follow it in program order (R300, R306, R317; DEDUCED, log entry 25). -/
def State.unitBusy (s : State) (x : Seat) (m : Cmd) : Bool :=
  s.msgs.any fun k => k.src == x.id && k.cycle ≤ m.serial && match k.body with
    | .lattice _ _ _ => true
    | .watch _ => true
    | _ => false

/-- A sequentially consistent operation of the seat is on its way, which every access after it follows; SENDO's follows every
message before it (R294, R297). -/
def State.scHolds (s : State) (x : Seat) (m : Cmd) : Bool :=
  s.msgs.any fun k => k.src == x.id && (k.stamp.isSome || m.stamp.isSome)

/-- What stands before a command's first access: its place, owner states, scoreboard, a pending release, a sequentially consistent
operation, for a CPYL the lattice operations before it. -/
def State.mayStart (s : State) (x : Seat) (m : Cmd) : Bool :=
  !m.started && m.fault.isNone && !m.lacksStamp && !x.startDeferred m && x.padsServe m && s.remoteServe x m && x.scoreClear m &&
  s.goesOn x m && !s.scHolds x m && (m.op != .cpyl || !s.unitBusy x m)

def State.startCmd (s : State) (x : Seat) (m : Cmd) : Option State :=
  if !s.mayStart x m then none
  else match s.portRefusal x m with
    | some a => some (s.endCmd x m 0x11 a)
    | none =>
      if m.op.collective || m.op == .sendo then
        match s.readParts x m.ch (virtualSectors (shapeBase m.snap) (8 * m.ranksN)) with
        | .error (c, a) => some (s.endCmd x m c a)
        | .ok none => none
        | .ok (some (bs, y)) =>
          if s.sourceFails x m then none
          else ((s.touchAll x (x.awaits m)).putSeat y).withTable y m (rankEntries bs m.ranksN)
      else if s.sourceFails x m then none
      else
        let buf := if m.op = .rrot then x.padBytes m.g 4096 else []
        some (s.putSeat (x.updCmd m.serial fun m => { m with started := true, buf := buf }))

/-- COMMAND_START (R239, R256): the command at the front of a channel begins. -/
def execCommandStart (k c : Nat) (s : State) : Out :=
  eventOut s do
    let x ← s.seat? k
    let m ← x.front c
    s.startCmd x m

/-! ### ROUTE (R258, R259) -/

/-- Eight-byte output entries: expert, gate, token, choice, flags (R258). -/
def routeEntry (k : Nat) (flags : Nat) (e : Nat × Nat) : Nat :=
  e.1 + e.2 / k * 2 ^ 32 + e.2 % k * 2 ^ 48 + flags * 2 ^ 56

/-- The output of ROUTE from its input words: entries sorted stably by expert and token, counts, offsets, overflow bits
(R259). -/
def routeOutput (k experts cap : Nat) (words : List Nat) : List Byte :=
  let es := words.zipIdx
  let expert (e : Nat × Nat) : Nat := e.1 % 2 ^ 16
  let of (i : Nat) : List (Nat × Nat) := es.filter fun e => expert e == i
  let keep (i : Nat) : Nat := if cap = 0 then (of i).length else min (of i).length cap
  let kept := ((List.range experts).map fun i => (of i).take (keep i)).flatten
  let dropped := ((List.range experts).map fun i => (of i).drop (keep i)).flatten
  let bad := es.filter fun e => experts ≤ expert e
  let entries := kept.map (routeEntry k 0) ++ dropped.map (routeEntry k 1) ++ bad.map (routeEntry k 2)
  let counts := (List.range experts).map keep
  let offs := (List.range experts).map fun i => sumTo counts i
  let full := ((List.range experts).filter fun i => keep i < (of i).length).foldl (fun n i => n + 2 ^ i) 0
  (entries.map (leBytes 8)).flatten ++ (counts.map (leBytes 4)).flatten ++ (offs.map (leBytes 4)).flatten ++
    leBytes (8 * ((experts + 63) / 64)) full

/-- ROUTE_OUTPUT_WRITE (R259): the whole output, and W passes it at once; poison of the input is carried to the output.
-/
def execRouteOutputWrite (k c : Nat) (s : State) : Out :=
  eventOut s do
    let x ← s.seat? k
    let m ← x.front c
    if m.op == .route && m.started && m.fault.isNone && m.done < m.len && !s.sourceFails x m && s.goesOn x m then
      let n := (hField m.snap 13).toNat * (hField m.snap 3).toNat
      let words := (List.range n).map fun i => leNat (x.padBytes (m.g + 4 * i) 4)
      let out := routeOutput (hField m.snap 3).toNat (hField m.snap 4).toNat m.aux words
      let y := x.engineWrite m.p m.p out
      let z := if n ≠ 0 ∧ x.poisoned m.g (4 * n) then y.markPoison m.p m.len else y
      if x.enginePartial m.p (m.p + m.len) m.p m.len then some (s.endCmd x m 0x22 m.p)
      else some (s.putSeat (z.deliver m m.len m.len))
    else none

/-! ### Arrivals (R260, R261, R264) -/

/-- What a rank's sender on this device has for a receiver, if its position is that receiver, nothing keeps it from reading, and the
links between them carry traffic (R13, R177, R260, R261, R388, R424). -/
def State.sender (s : State) (x : Seat) (m : Cmd) (rank : Nat) : Option (Seat × Cmd) := do
  let p ← s.matched m rank
  if p.2.pos < p.2.ranksN && p.2.nextRank == m.rank && p.2.pos != 0 && p.2.sub < p.1.sendSize p.2 m.rank &&
      !s.sourceFails p.1 p.2 && s.goesOn p.1 p.2 && s.pathUp p.1.id x.id then some p else none

/-- The command at the front of a channel, if it is this collective, started, and has a part of the rank to come. -/
def Seat.listening (x : Seat) (op : CmdOp) (c phase rank : Nat) : Option Cmd := do
  let m ← x.front c
  if m.op == op && m.started && m.fault.isNone && m.phase == phase && rank < m.ranksN then some m else none

/-- A2AV_COUNT_ARRIVAL (R260): a rank of this device answers from its own send counts, over links that carry traffic, once their
parity is sound (R13, R177, R388); that of another comes through a peer port (R409). -/
def execA2avCountArrival (k c rank : Nat) (peer : BitVec 32) (s : State) (port : Nat := 0) : Out :=
  eventOut s do
    let x ← s.seat? k
    let m ← x.listening .a2av c 0 rank
    if m.heard.contains rank then none
    if s.here (m.ranks.getD rank 0) then
      let p ← s.counter m rank
      if p.1.parityFails p.2.aux (4 * p.2.ranksN) || !s.pathUp p.1.id x.id then none
      s.putCount x m rank ((p.1.sendCounts p.2).getD m.rank 0)
    else if s.portIn port then s.putCount x m rank peer.toNat else none

/-- Elements combined into the destination, one step each (R261). -/
def combineInto (sub code size : Nat) : List Byte → List Byte → Nat → List Byte
  | _, _, 0 => []
  | old, new, n + 1 =>
    leBytes size (combineElem size sub code (leNat (old.take size)) (leNat (new.take size))) ++
      combineInto sub code size (old.drop size) (new.drop size) n

/-- Bytes of an element of rank's part combined into an ARED's destination; poison of either is carried (R239, R261). -/
def Seat.combinePart (x : Seat) (m : Cmd) (a : Nat) (bs : List Byte) (poison : Bool) : Seat :=
  let es := elemSize (elemCode m.snap)
  let data := combineInto m.aux (elemCode m.snap) es (x.padBytes a bs.length) bs (bs.length / es)
  let y := x.writeBytes (cellsAt a data)
  if poison || x.poisoned a bs.length then y.markPoison a bs.length else y

/-- The next bytes of a rank's part land in a receiver (R239, R244, R254, R260, R261). -/
def State.landPart (s : State) (x : Seat) (m : Cmd) (master rank : Nat) (bs : List Byte) (poison : Bool) : SectorResult :=
  let got := m.got.getD rank 0
  let a := m.place rank + got
  let heard (t : State) : SectorResult :=
    match t.seat? x.id with
    | some y => .went (t.putSeat (y.hear m rank bs.length))
    | none => .held
  match m.op with
  | .a2av =>
    match s.writeArea x m master (sumTo m.counts rank) got (m.size rank) bs poison with
    | .went t => heard t
    | o => o
  | .agth =>
    if x.enginePartial (m.place rank) (m.place rank + m.part) a bs.length then .ended (s.endCmd x m 0x22 a)
    else
      let y := x.engineWrite (m.place rank) a bs
      heard (s.putSeat ((if poison then y.markPoison a bs.length else y).discharge m bs.length))
  | _ =>
    let old := m.got.foldl min m.part
    let new := (m.got.set rank (got + bs.length)).foldl min m.part
    heard (s.putSeat ((x.combinePart m a bs poison).discharge m (new - old)))

/-- A part's bytes are taken by the receiver's port: its access table holds the master (R239, R333, R335); the A2AV whose
receive area lies in memory asks the home controllers instead. -/
def State.portTakes (s : State) (x : Seat) (m : Cmd) (master : Nat) : Bool :=
  (m.op == .a2av && 2 ^ 63 ≤ m.p) || s.allows (some (.port x.die x.tile)) master true (m.op == .ared)

/-- So do the home controllers that n bytes of a part in memory reach. -/
def State.homesTake (s : State) (x : Seat) (m : Cmd) (master a n : Nat) : Bool :=
  m.op != .a2av || m.p < 2 ^ 63 || (virtualSectors a n).all fun p =>
    match s.translate x true false p.1 with
    | .pa pa _ _ => s.allows (s.homeOf pa) master true false
    | _ => true

/-- A word of an ARED's destination that the combination reads fails its parity (R177). -/
def sumFails (x : Seat) (m : Cmd) (a n : Nat) : Bool := m.op == .ared && x.parityFails a n

/-- The next bytes of a part of a rank on this device, at most to the end of a granule or line; a refusal ends the sender's command
with ACCESS (R239, R335). -/
def State.localPart (s : State) (x : Seat) (m : Cmd) (rank : Nat) : Option State := do
  let p ← s.sender x m rank
  let a := m.place rank + m.got.getD rank 0
  let n := m.stepTo a rank
  if sumFails x m a n then none
  else if !s.portTakes x m (chanMaster p.1.id p.2.ch) then some (s.endCmd p.1 p.2 0x11 a)
  else
    match s.payload p.1 p.2 m.rank p.2.sub n with
    | .error (c, a) => some (s.endCmd p.1 p.2 c a)
    | .ok none => none
    | .ok (some (bs, y, vs)) =>
      let t := (s.touchAll p.1 vs).putSeat y
      match t.landPart x m (chanMaster x.id m.ch) rank bs (payloadPoison p.1 p.2 m.rank p.2.sub n) with
      | .held => none
      | .ended t => some t
      | .went t => some (t.stepSender p.1.id p.2.serial n)

/-- What comes from a rank of another device through a peer port (R257, R260, R261, R335, R409): bytes of its part, whose performance
the rank is told once they are whole, as it is told a refusal, which leaves the receiver as it was; its readiness, the performance of
what was sent to it, or how it ended. -/
def State.farPart (s : State) (x : Seat) (m : Cmd) (rank port : Nat) (peer : PeerPart) : Option State :=
  let bad := some (s.endCmd x m 0x21 (shapeBase m.snap))
  match peer with
  | .data bs poison =>
    let es := if m.op = .ared then elemSize (elemCode m.snap) else 1
    let got := m.got.getD rank 0
    let a := m.place rank + got
    if bs.isEmpty || m.size rank < got + bs.length || bs.length % es != 0 || (m.op == .a2av && (m.phase == 0 || m.pos == 0)) ||
        sumFails x m a bs.length then none
    else if !s.portTakes x m (portMaster port) || !s.homesTake x m (portMaster port) a bs.length then s.tellRank m rank .refused
    else match s.landPart x m (portMaster port) rank bs poison with
      | .held => none
      | .ended t => some t
      | .went t => if got + bs.length = m.size rank then t.tellRank m rank .performed else some t
  | .ready =>
    if m.op == .a2av && !m.ready.contains rank then
      some (s.putSeat (x.updCmd m.serial fun m => { m with ready := rank :: m.ready }))
    else none
  | .performed =>
    if m.pos != 0 && m.pos < m.ranksN && m.nextRank == rank && m.sub == x.sendSize m rank then some (s.stepSender x.id m.serial 0)
    else none
  | .mismatch => bad
  | .full =>
    if m.op == .a2av && !m.dead.contains rank then
      some ((s.putSeat (x.updCmd m.serial fun m => { m with dead := rank :: m.dead })).advance x.id m.serial (m.ranksN + 1))
    else none
  | .refused => if m.pos != 0 && m.nextRank == rank && m.sub != 0 then some (s.endCmd x m 0x11 (m.place m.rank)) else none

/-- The arrival of a rank's part of a collective. -/
def partArrival (op : CmdOp) (k c rank : Nat) (peer : PeerPart) (port : Nat) (s : State) : Out :=
  eventOut s do
    let x ← s.seat? k
    let m ← x.front c
    if m.op != op || !m.started || m.fault.isSome || m.ranksN ≤ rank then none
    if s.here (m.ranks.getD rank 0) then
      (if op == .a2av && (m.phase == 0 || m.pos == 0) then none else s.localPart x m rank)
    else if s.portIn port then s.farPart x m rank port peer else none

/-- A2AV_SEGMENT_ARRIVAL (R260). -/
def execA2avSegmentArrival (k c rank : Nat) (peer : PeerPart) (s : State) (port : Nat := 0) : Out :=
  partArrival .a2av k c rank peer port s

/-- ARED_CONTRIBUTION (R261, R262): the order of ranks is the order of these events. -/
def execAredContribution (k c rank : Nat) (peer : PeerPart) (s : State) (port : Nat := 0) : Out :=
  partArrival .ared k c rank peer port s

/-- AGTH_BLOCK_ARRIVAL (R261). -/
def execAgthBlockArrival (k c rank : Nat) (peer : PeerPart) (s : State) (port : Nat := 0) : Out :=
  partArrival .agth k c rank peer port s

/-- The seat whose pad a ring rotation brings: the neighbour on the other side of its direction (R264). -/
def State.ringSource (s : State) (x : Seat) (dir : Nat) : Option Seat :=
  let r := s.ring x
  let i := r.findIdx (·.id == x.id)
  r[if dir = 0 then (i + r.length - 1) % r.length else (i + 1) % r.length]?

/-- A change of an RROT; once its pad is whole and the sent one read in full, it has delivered all (R161, R264). -/
def State.rrotDone (s : State) (k serial : Nat) (f : Cmd → Cmd) : Option State := do
  let x ← s.seat? k
  let y := x.updCmd serial f
  let m ← y.copy.cmds.find? (·.serial == serial)
  if m.done == 0 && !m.heard.isEmpty && m.pos == 1 then some (s.putSeat (y.deliver m m.len m.len)) else some (s.putSeat y)

/-- RROT_PAD_ARRIVAL (R264); a refusal of the receiving port ends the sender's command with ACCESS (R239, R335). -/
def execRrotPadArrival (k c : Nat) (s : State) : Out :=
  eventOut s do
    let x ← s.seat? k
    let m ← x.front c
    if !(m.op == .rrot && m.started && m.fault.isNone && m.heard.isEmpty) then none
    let y ← s.ringSource x (m.snap.toNat % 16)
    let q ← y.copy.cmds.find? fun q =>
      q.op == .rrot && q.started && q.ch == m.ch && q.nth == m.nth && q.pos == 0 && q.snap == m.snap
    if y.id != x.id && !s.allows (some (.port x.die x.tile)) (chanMaster y.id q.ch) true false then
      some (s.endCmd y q 0x11 m.p)
    else
      let t := s.putSeat ((x.engineCopy m.p 0 q.buf y q.g).updCmd m.serial fun m => { m with heard := [0] })
      (t.rrotDone y.id q.serial fun q => { q with pos := 1 }).map fun t => (t.rrotDone x.id m.serial id).getD t

/-! ### Completion (R245, R254, R260, R264) -/

/-- Every byte is delivered, and what the command sent is performed. -/
def State.complete (s : State) (x : Seat) (m : Cmd) : Bool :=
  m.started && m.fault.isNone && (s.parked x m.serial).isEmpty &&
  (match m.op with
    | .a2av => m.phase == 1 && m.ranksN ≤ m.pos && !s.countsLeft m &&
      (List.range m.ranksN).all fun i => m.got.getD i 0 == m.size i
    | .ared | .agth => m.ranksN ≤ m.pos && (List.range m.ranksN).all fun i => m.got.getD i 0 == m.part
    | .rrot => !m.heard.isEmpty && m.pos == 1
    | .sendo => m.done == m.len
    | _ => m.done == m.len)

/-- An A2AV that sent to a rank without capacity ends once its other segments are performed (R260). -/
def Seat.refused (x : Seat) (m : Cmd) : Bool :=
  m.op == .a2av && m.started && m.fault.isNone && m.phase == 1 && m.ranksN ≤ m.pos &&
  m.dead.any fun j => (x.sendCounts m).getD j 0 != 0

/-- COPY_COMPLETION (R245): the first command of a channel that is complete; or a peer device's word on a SENDO that has left for it:
its message is written, or its port refused it, which ends the command with ACCESS (R265, R335). -/
def execCopyCompletion (k c : Nat) (s : State) (peer : Option Bool := none) : Out :=
  eventOut s do
    let x ← s.seat? k
    let finish (m : Cmd) : State :=
      s.retire (x.updCmd m.serial fun m => { m with done := m.len }) { m with done := m.len }
    match peer with
    | some written =>
      let m ← x.copy.cmds.find? fun m => m.ch == c && m.op == .sendo && !m.heard.isEmpty && m.fault.isNone
      if !s.podOpen then none
      if written then some (finish m) else some (s.endCmd x m 0x11 (m.p % 2 ^ 19))
    | none =>
      match x.copy.cmds.find? fun m => m.ch == c && s.complete x m with
      | some m => some (finish m)
      | none =>
        let m ← x.copy.cmds.find? fun m => m.ch == c && x.refused m && !s.countsLeft m
        some (s.endCmd x m 0x21 (shapeBase m.snap))

/-- CPYK_RETIRE (R249); the counts that the command has sent arrive first (R260). -/
def execCpykRetire (k : Nat) (s : State) : Out :=
  eventOut s do
    let x ← s.seat? k
    let (_, serial, _, _) ← x.copy.kills.head?
    if x.copy.cmds.any fun m => m.serial == serial && s.countsLeft m then none else s.kill k

end Sys2Proof.Machine
end

