-- ==== Sys2Proof/Machine/Uni.lean ====
section
/-! DEFINITION. The UNI operations on the G and H registers (R133 to R137, R139). HBIND and HVAL, which read device
memory, stand in Handle.lean. -/

namespace Sys2Proof.Machine

/-- A three-register operation: two sources, a result with a latency (R116, R133). -/
def uniArith (d a b : RField) (lat : Nat) (f : Word64 → Word64 → Word64) (s : State) : Out :=
  seqOp (fun c => do
    let x ← c.src a
    let y ← c.src b
    return c.live.landG c.slot lat d.toNat (f x y)) s

def execUniAdd (_o : BitVec 1) (d a b : RField) (s : State) : Out := uniArith d a b 1 (· + ·) s
def execUniSub (_o : BitVec 1) (d a b : RField) (s : State) : Out := uniArith d a b 1 (· - ·) s
def execUniAnd (_o : BitVec 1) (d a b : RField) (s : State) : Out := uniArith d a b 1 (· &&& ·) s
def execUniOr (_o : BitVec 1) (d a b : RField) (s : State) : Out := uniArith d a b 1 (· ||| ·) s
def execUniXor (_o : BitVec 1) (d a b : RField) (s : State) : Out := uniArith d a b 1 (· ^^^ ·) s
def execUniShl (_o : BitVec 1) (d a b : RField) (s : State) : Out :=
  uniArith d a b 1 (fun x y => x <<< shiftAmount y) s
def execUniShr (_o : BitVec 1) (d a b : RField) (s : State) : Out :=
  uniArith d a b 1 (fun x y => x >>> shiftAmount y) s
def execUniSra (_o : BitVec 1) (d a b : RField) (s : State) : Out :=
  uniArith d a b 1 (fun x y => x.sshiftRight (shiftAmount y)) s
def execUniMul (_o : BitVec 1) (d a b : RField) (s : State) : Out := uniArith d a b 3 (· * ·) s
def execUniMulh (_o : BitVec 1) (d a b : RField) (m : BitVec 1) (s : State) : Out := uniArith d a b 3 (mulHigh m) s
def execUniMin (_o : BitVec 1) (d a b : RField) (s : State) : Out := uniArith d a b 1 minSigned s
def execUniMax (_o : BitVec 1) (d a b : RField) (s : State) : Out := uniArith d a b 1 maxSigned s
def execMinu (_o : BitVec 1) (d a b : RField) (s : State) : Out := uniArith d a b 1 minUnsigned s
def execMaxu (_o : BitVec 1) (d a b : RField) (s : State) : Out := uniArith d a b 1 maxUnsigned s

/-- ADDI (R134). -/
def execUniAddi (_o : BitVec 1) (d a : RField) (imm : BitVec 7) (lit : Option Word32) (s : State) : Out :=
  seqOp (fun c => do
    let x ← c.src a
    return c.live.landG c.slot 1 d.toNat (x + immediate imm lit)) s

/-- LI (R134). -/
def execUniLi (_o : BitVec 1) (d : RField) (imm : BitVec 7) (lit : Option Word32) (s : State) : Out :=
  seqOp (fun c => return c.live.landG c.slot 1 d.toNat (immediate imm lit)) s

/-- li.hi keeps the low half, read with the bundle's reads (R134). -/
def execUniLiHi (_o : BitVec 1) (d : RField) (imm : BitVec 7) (lit : Option Word32) (s : State) : Out :=
  seqOp (fun c => do
    let x ← c.src d
    return c.live.landG c.slot 1 d.toNat ((immediate imm lit).extractLsb' 0 32 ++ x.extractLsb' 0 32)) s

/-- CLZ of 64 bits (R133). -/
def execUniClz (_o : BitVec 1) (d a : RField) (s : State) : Out :=
  seqOp (fun c => do
    let x ← c.src a
    return c.live.landG c.slot 1 d.toNat (BitVec.ofNat 64 (clzBits 64 x.toNat))) s

/-- SEL by the vote register (R133). -/
def execUniSel (_o : BitVec 1) (d a b : RField) (s : State) : Out :=
  seqOp (fun c => do
    let x ← c.src a
    let y ← c.src b
    let v ← c.voteVal
    return c.live.landG c.slot 1 d.toNat (if v != 0 then x else y)) s

/-- A parameter word of the launch; one it does not supply reads zero (R135). -/
def execLdp (_o : BitVec 1) (d : RField) (imm : BitVec 7) (s : State) : Out :=
  seqOp (fun c => return c.live.landG c.slot 4 d.toNat (c.base.params.getD imm.toNat 0)) s

/-- Mask of the gang's die pairs (R114). -/
def dieMaskOf (dies : List Nat) : Nat := dies.foldl (fun m d => m ||| 2 ^ d) 0

/-- A gang fact (R135). -/
def Gang.fact (g : Gang) (sel : Nat) : Nat :=
  match sel with
  | 0 => g.c
  | 1 => g.d
  | 2 => dieMaskOf g.dies
  | 3 => g.seqDie
  | 4 => g.seqNum
  | 5 => g.loops.length
  | 6 => g.pc
  | _ => if g.level then 1 else 0

def execGidx (_o : BitVec 1) (d : RField) (imm : BitVec 7) (s : State) : Out :=
  seqOp (fun c => return c.live.landG c.slot 1 d.toNat (BitVec.ofNat 64 (c.base.fact imm.toNat))) s

/-- VOTE names the register and the operation; the members reduce it when the bundle completes (R100, R137). -/
def execVote (_o : BitVec 1) (d a f : RField) (s : State) : Out :=
  seqOp (fun c => return { c.live with votePend := some (d.toNat, a, f.toNat) }) s

/-- HLD: a record number the launch does not hold raises ILLEGAL_FIELD at execution (R139). -/
def execHld (_o : BitVec 1) (d : RField) (imm : BitVec 7) (s : State) : Out :=
  seqOp (fun c =>
    match c.base.tensors[imm.toNat]? with
    | some r => .ok (c.live.land c.slot 8 (.hReg d.toNat r))
    | none => .error { cause := 0x02, addr := 0 }) s

/-- HGET: m = 0 zero-extends, m = 1 sign-extends (R139). -/
def execHget (_o : BitVec 1) (d a b : RField) (m : BitVec 1) (s : State) : Out :=
  seqOp (fun c => do
    let h ← c.hsrc a.toNat
    let f := hField h b.toNat
    return c.live.landG c.slot 2 d.toNat (if m = 1 then f.signExtend 64 else f.setWidth 64)) s

/-- HSET writes one field (R139). -/
def execHset (_o : BitVec 1) (d a b : RField) (s : State) : Out :=
  seqOp (fun c => do
    let x ← c.src a
    return c.live.land c.slot 2 (.hField d.toNat b.toNat (x.setWidth 32))) s

/-- HCPY copies a shape register (R139). -/
def execHcpy (_o : BitVec 1) (d a : RField) (s : State) : Out :=
  seqOp (fun c => do
    let h ← c.hsrc a.toNat
    return c.live.land c.slot 2 (.hReg d.toNat h)) s

end Sys2Proof.Machine
end

