-- ==== Sys2Proof/Machine/Handle.lean ====
section
/-! DEFINITION. Legacy handles: HBIND and HVAL read the launch's descriptor table from device memory (R141). -/

namespace Sys2Proof.Machine

/-- The descriptor entry of a handle, none for a slot beyond the table. The sequencer reads as the gang's first member
(DEDUCED, log entry 15). A read that cannot be served raises its cause with the entry's address; one whose page does not
stand waits until the memory processor maps it, and raises PAGE_FAULT where it cannot. -/
def SCtx.handle (c : SCtx) (v : Word64) : Except TrapInfo (Option HReg) :=
  let slot := (v.extractLsb' 12 20).toNat
  let k := c.base.kernel
  if k.descSlots ≤ slot then .ok none
  else
    let va := k.descVa + 64 * slot
    match c.s.readNat (c.base.members.headD 0) va 64 with
    | .error e => .error (trapAt (if e = 0x10 then 0 else e) (BitVec.ofNat 64 va))
    | .ok n =>
      let h := BitVec.ofNat 512 n
      let gen := hField h 15
      .ok (if gen.getLsbD 12 && gen.extractLsb' 0 12 == v.extractLsb' 0 12 then some h else none)

def execHbind (_o : BitVec 1) (d a : RField) (s : State) : Out :=
  seqOp (fun c => do
    let v ← c.src a
    match ← c.handle v with
    | some h => return c.live.land c.slot 8 (.hReg d.toNat h)
    | none => throw (trapAt 0x18 (v &&& 0xFFFFFFFF))) s

def execHval (_o : BitVec 1) (d a : RField) (s : State) : Out :=
  seqOp (fun c => do
    let v ← c.src a
    let h ← c.handle v
    return c.live.landG c.slot 8 d.toNat (if h.isSome then 1 else 0)) s

end Sys2Proof.Machine
end

