-- ==== Sys2Proof/Machine/Lattice.lean ====
section
/-! DEFINITION. Lattice operations of the ADR slot, and what the lattice units do: serving operations, deposits,
timeouts, exchange rounds (R302 to R317). -/

namespace Sys2Proof.Machine

/-! ### Issue (R310 to R315) -/

/-- The lattice extent of an address with the region's cell, or EXTENT (R304, R311). -/
def Ctx.latCell (c : Ctx) (ea : Word64) : Except TrapInfo (Region × Nat × Nat) :=
  match c.base.extent ea.toNat with
  | some e =>
    if e.kind = 2 then
      match c.s.cellAt c.base ea.toNat with
      | some r => .ok r
      | none => .error (trapAt 0x0F ea)
    else .error (trapAt 0x0F ea)
  | none => .error (trapAt 0x0F ea)

/-- The lattice address: a multiple of 8, or of the cell size where the operation needs a whole GCNT cell (R311). -/
def alignedCell (type : Nat) (whole : Bool) (ea : Word64) : Except TrapInfo Unit :=
  if ea.toNat % (if type = 6 && whole then 64 else 8) ≠ 0 then .error (trapAt 0x0B ea) else .ok ()

def MsgBody.isLattice : MsgBody → Bool
  | .lattice _ _ _ => true
  | _ => false

/-- Posted lattice operations not yet performed: on their way, deferred, or of this bundle (R312). -/
def Ctx.posted (c : Ctx) : Nat :=
  let own (m : Msg) : Bool := m.src == c.base.id && m.body.isLattice
  (c.s.msgs.filter own).length + (c.live.outbox.filter own).length +
    (c.live.sync.relq.filter fun d => match d with | .msg m => own m | _ => false).length

/-- At 16 posted operations the seat holds its tile (R312). -/
def Ctx.needPosted (c : Ctx) : Except TrapInfo Unit := if 16 ≤ c.posted then .error holdTile else .ok ()

/-- LJOIN, LSTM and LINC by opcode: checks, then the message to the die pair's unit (R311, R313). -/
def latticeOp (op : Nat) (sc : Bool) (t : Tag) (rt base : RField) (lit : Option Word32) (s : State) : Out :=
  tileOp t (fun c => do
    if sc && c.base.sync.wheelCnt == 0 then throw (trapAt 0x20 0)
    let ea ← c.ea base (plainOffset lit)
    let v ← c.base.src rt
    let (r, _, _) ← c.latCell ea
    alignedCell r.type (op == 0x1F) ea
    if op = 0x1F ∧ r.type ≠ 6 then throw (trapAt 0x15 ea)
    if op ≠ 0x1F ∧ r.type = 3 ∧ isNan64 v then throw (trapAt 0x15 ea)
    c.needPosted
    c.needRelease
    let m := c.msg t c.base.id ea (.lattice op ea.toNat v)
    return (c.live.send { m with stamp := if sc then c.base.sync.scStamps.head? else none }, none)) s

def execLjoin (t : Tag) (rt base : RField) (_step : BitVec 5) (lit : Option Word32) (s : State) : Out :=
  latticeOp 0x1D false t rt base lit s
def execLjoinSc (t : Tag) (rt base : RField) (_step : BitVec 5) (lit : Option Word32) (s : State) : Out :=
  latticeOp 0x1D true t rt base lit s
def execLstm (t : Tag) (rt base : RField) (_step : BitVec 5) (lit : Option Word32) (s : State) : Out :=
  latticeOp 0x1E false t rt base lit s
def execLinc (t : Tag) (rt base : RField) (_step : BitVec 5) (lit : Option Word32) (s : State) : Out :=
  latticeOp 0x1F false t rt base lit s

/-- TMO, SEM and offset of LLD and LWAIT (R310). -/
def watchTmo (l : Word32) : Nat := (l.extractLsb' 26 6).toNat
def watchSem (l : Word32) : Nat := (l.extractLsb' 20 6).toNat
def watchOffset (l : Word32) : Int := (l.extractLsb' 0 20).toInt

/-- LLD and LWAIT: checks, then an entry and the request to the unit (R311, R314, R315). -/
def watchOp (lld : Bool) (t : Tag) (rt base : RField) (lit : Word32) (s : State) : Out :=
  tileOp t (fun c => do
    let ea ← c.ea base (watchOffset lit)
    let a ← c.base.src rt
    let thr ← if lld then pure 0 else c.base.src (rt + 1)
    if c.base.copy.quota = 0 then throw (trapAt 0x21 0)
    if c.base.sync.sems.length ≤ watchSem lit then throw illegalField
    let (r, _, _) ← c.latCell ea
    let n := depositSize r.type
    if !c.base.inRange a.toNat n then throw (trapAt 0x0A a)
    alignedCell r.type true ea
    if a.toNat % 16 ≠ 0 then throw (trapAt 0x0B a)
    if !lld && r.type == 3 && isNan64 thr then throw (trapAt 0x15 ea)
    let x ← c.needEntries c.live 1
    c.needRelease
    let w : Wait :=
      { id := c.base.cycle, slot := c.slot, pc := (c.base.cur.map (·.pc)).getD 0, cycle := c.base.cycle, va := ea.toNat
        pad := a.toNat, sem := watchSem lit, lld := lld, thr := thr
        deadline := if watchTmo lit = 0 then 0 else c.s.chorus + 2 ^ watchTmo lit
        lto := Fmt.lto c.base.regs.fmt, size := n, arr := if t.r = 1 then some c.standing.bar.toNat else none
        watching := false, deposit := none }
    let y : Seat := { x with copy := { x.copy with waits := x.copy.waits ++ [w] } }
    return (y.send { c.msg { t with r := 0 } c.base.id ea (.watch w.id) with op0 := a, op1 := thr }, none)) s

def execLld (t : Tag) (rt base : RField) (_step : BitVec 5) (lit : Word32) (s : State) : Out :=
  watchOp true t rt base lit s
def execLwait (t : Tag) (rt base : RField) (_step : BitVec 5) (lit : Word32) (s : State) : Out :=
  watchOp false t rt base lit s

/-! ### At the unit (R306, R311, R313 to R315) -/

/-- What an operation makes of a cell; none for a store that is not a rise (R313). -/
def latticeNew (op type die slot : Nat) (c : BitVec 512) (v : Word64) : Option (BitVec 512) :=
  let wide : BitVec 512 := if type = 6 then setSlot 0 slot v else v.setWidth 512
  match op with
  | 0x1D => some (joinCell type c wide)
  | 0x1E =>
    if type = 6 then (if (cellLane c slot).toNat ≤ v.toNat then some (setSlot c slot v) else none)
    else if leq64 type (cellLane c 0) v then some wide else none
  | _ => some (setSlot c die (BitVec.ofNat 64 (satUnsigned 64 ((cellLane c die).toNat + v.toNat)).toNat))

/-- An operation served at the replica of its seat's die pair: ACCESS, POISON and NONMONOTONE are raised in the seat
(R311, R313); then the operation retires. -/
def State.serveLattice (s : State) (x : Seat) (m : Msg) (op va : Nat) (v : Word64) : State :=
  let done (t : State) (cause : Option Nat) : State :=
    match t.seat? x.id with
    | none => t
    | some y =>
      let z := match cause with
        | some e => y.latch e m.slot m.pc m.ea
        | none => y
      t.putSeat (match m.arr with | some b => z.arrive b m.slot m.pc | none => z)
  match s.cellAt x va with
  | none => done s none
  | some (r, i, slot) =>
    if !s.allows (some (.lattice x.die)) x.id true false then done s (some 0x11)
    else if s.cellBad x.die r.num i then done s (some 0x13)
    else match latticeNew op r.type x.die slot (s.cell x.die r i) v with
      | some c => done (s.raise x.die r i c) none
      | none => done s (some 0x14)

def Seat.updWait (x : Seat) (id : Nat) (f : Wait → Wait) : Seat :=
  { x with copy := { x.copy with waits := x.copy.waits.map fun w => if w.id == id then f w else w } }

/-- The wait is an open watch on a cell of a die pair's replica. -/
def State.watches (s : State) (x : Seat) (w : Wait) (die region i : Nat) : Bool :=
  w.watching && x.die == die && (s.cellAt x w.va).map (fun c => (c.1.num, c.2.1)) == some (region, i)

/-- A cell of a replica is poisoned: open watches that name it raise POISON (R306). -/
def State.poisonCell (s : State) (die region i : Nat) : State :=
  if s.cellBad die region i then s
  else { s with
    cellPoison := s.cellPoison ++ [(die, region, i)]
    seats := s.seats.map fun x => (x.copy.waits.filter fun w => s.watches x w die region i).foldl (fun y w => y.refuseWait w 0x13) x }

/-- The unit serves an LLD or registers an LWAIT's watch and tests it (R314, R315). -/
def State.serveWait (s : State) (x : Seat) (w : Wait) : State :=
  match s.cellAt x w.va with
  | none => s.putSeat (x.refuseWait w 0x0F)
  | some (r, i, _) =>
    if !s.allows (some (.lattice x.die)) x.id false true then s.putSeat (x.refuseWait w 0x11)
    else if s.cellBad x.die r.num i then s.putSeat (x.refuseWait w 0x13)
    else
      let c := s.cell x.die r i
      if w.lld then s.putSeat (x.updWait w.id fun w => { w with deposit := some (depositBytes r.type 0 c) })
      else if passes r.type w.thr c then s.putSeat (s.deposit x w (depositBytes r.type 1 c))
      else s.putSeat (x.updWait w.id fun w => { w with watching := true })

/-- A message is served: it leaves, and where it went to its seat's own slot the accesses after it may go on (R286). -/
def State.takeMsg (s : State) (m : Msg) : State :=
  let t := { s with msgs := s.msgs.filter (·.serial != m.serial) }
  match m.ownAccess with
  | some o => t.setSeat m.src fun x => { x with sync := { x.sync with own := x.sync.own.erase o } }
  | none => t

/-- A message to the lattice unit. -/
def Msg.toUnit (m : Msg) : Bool := match m.body with | .lattice _ _ _ => true | .watch _ => true | _ => false

/-- A CPYL issued earlier still has cells to join. It is a lattice operation of the seat (R285), so the seat's later ones reach
the replica after its joins (R300, R306, R317); at a halt marker the CPYL is cut, and the operations before the halt position
go on (R293; DEDUCED, log entry 25). -/
def Seat.joinsFirst (x : Seat) (cycle : Nat) : Bool :=
  x.run != .marked && x.copy.cmds.any fun m => m.op == .cpyl && m.serial < cycle && m.fault.isNone && m.done < m.len

/-- LATTICE_OP_ARRIVAL: a seat's requests reach its die pair's unit in program order (R306, R313). -/
def execLatticeOpArrival (i : Nat) (s : State) : Out :=
  eventOut s do
    let m ← s.msgs[i]?
    if m.stamp.isSome || !m.toUnit || (s.msgs.take i).any fun k => k.src == m.src && k.toUnit then none
    let x ← s.seat? m.src
    if x.joinsFirst m.cycle then none
    match m.body with
    | .lattice op va v => some ((s.takeMsg m).serveLattice x m op va v)
    | .watch id =>
      let w ← x.copy.waits.find? (·.id == id)
      some ((s.takeMsg m).serveWait x w)
    | _ => none

/-- All outstanding LLDs and LWAITs, by seat and issue. -/
def State.waits (s : State) : List (Nat × Wait) := (s.seats.map fun x => x.copy.waits.map fun w => (x.id, w)).flatten

/-- LLD_DEPOSIT: a value read is deposited once the pads take it (R314). -/
def execLldDeposit (i : Nat) (s : State) : Out :=
  eventOut s do
    let (k, w) ← s.waits[i]?
    let x ← s.seat? k
    let bs ← w.deposit
    if x.engineOwned w.pad bs.length && x.depositClear w bs.length then some (s.putSeat (s.giveDeposit x w bs)) else none

/-- A watch whose deadline has passed: a deposit with ST = 2; FMT.LTO raises LATTICE_TIMEOUT (R315). -/
def State.expire (s : State) (x : Seat) (w : Wait) (type : Nat) (c : BitVec 512) : Seat :=
  let y := s.deposit x w (depositBytes type 2 c)
  if w.lto then y.latch 0x16 w.slot w.pc (BitVec.ofNat 64 w.va) else y

/-- A wait's request goes to the unit again, in its place among the seat's lattice operations (R300, R316). -/
def State.watch (s : State) (x : Seat) (w : Wait) : State :=
  s.post { serial := 0, src := x.id, dst := x.id, pc := w.pc, slot := w.slot, ea := BitVec.ofNat 64 w.va, arr := none, stamp := none
           body := .watch w.id, op0 := BitVec.ofNat 64 w.pad, op1 := w.thr, cycle := w.cycle }

/-- LWAIT_TIMEOUT: an open watch at its deadline (R315). -/
def execLwaitTimeout (i : Nat) (s : State) : Out :=
  eventOut s do
    let (k, w) ← s.waits[i]?
    let x ← s.seat? k
    let (r, j, _) ← s.cellAt x w.va
    if w.watching && w.deadline != 0 && w.deadline ≤ s.chorus && !s.cellBad x.die r.num j then
      some (s.putSeat (s.expire x w r.type (s.cell x.die r j)))
    else none

/-! ### Exchange (R307 to R309) -/

/-- Offset and MAP of a die pair's round (R307). -/
def State.roundReg (s : State) (die r : Nat) : Word64 := (s.lxRound.getD die lxRoundReset).getD r 0

def State.mapNibble (s : State) (die r d : Nat) : Nat := (s.roundReg die r).toNat / 16 ^ d % 16

/-- The partner of a die pair in a round: the entry is symmetric and names a live die pair (R307). -/
def State.partner (s : State) (die r : Nat) : Option Nat :=
  let e := s.mapNibble die r die
  if e < 8 ∧ e ≠ die ∧ s.mapNibble e r e = die ∧ s.diepres.getLsbD e then some e else none

/-- A die pair sends its marked cells of a round to its partner and clears the marks (R308). A poisoned cell stays
behind (R306). With none to send nothing is asked of the partner; a refusal skips it, keeps the marks and is logged to the
scheduler, once a round (R335). -/
def State.sendRound (s : State) (r : Nat) (die : Nat) : State :=
  match s.partner die r with
  | none => s
  | some e =>
    if s.rounds die ≤ r || !s.meshUp die e then s
    else
      let mine := s.marks.filter fun m => m.1 == die && m.2.1 == r && !s.cellBad die m.2.2.1 m.2.2.2
      let no := Notice.refused die e s.chorus
      if mine.isEmpty then s
      else if !s.allows (some (.lattice e)) (0x4800 + die) true false then
        if s.notices.contains no then s else { s with notices := s.notices ++ [no] }
      else
        let sent := mine.filterMap fun m =>
          (s.regions.find? (·.num == m.2.2.1)).map fun g =>
            ({ src := die, dst := e, region := g.num, idx := m.2.2.2, val := s.cell die g m.2.2.2 } : Exchange)
        { s with exchange := s.exchange ++ sent, marks := s.marks.filter fun m => !mine.contains m }

/-- The round starts at chorus times t with t mod PERIOD at its OFFSET (R307). -/
def State.roundDue (s : State) (die r : Nat) : Bool :=
  let p := ((s.lxPeriod.getD die 0).extractLsb' 0 16).toNat
  p != 0 && s.chorus % p == ((s.roundReg die r).extractLsb' 32 16).toNat

/-- EXCHANGE_ROUND (R308). -/
def execExchangeRound (r : Nat) (s : State) : Out :=
  eventOut s (
    let due := (List.range 8).filter fun d => s.diepres.getLsbD d && s.roundDue d r
    if r < 8 && !due.isEmpty then some (due.foldl (fun t d => t.sendRound r d) s) else none)

/-- EXCHANGE_RECEIVE: the cell is joined into the replica (R308); a poisoned cell is not joined into (R306). -/
def execExchangeReceive (i : Nat) (s : State) : Out :=
  eventOut s do
    let x ← s.exchange[i]?
    let t : State := { s with exchange := s.exchange.eraseIdx i }
    match s.regions.find? (·.num == x.region) with
    | none => some t
    | some g =>
      if s.cellBad x.dst x.region x.idx ∨ !s.diepres.getLsbD x.dst then some t
      else some (t.raise x.dst g x.idx (joinCell g.type (s.cell x.dst g x.idx) x.val))

end Sys2Proof.Machine
end

