-- ==== Sys2Proof/Machine/Remote.lean ====
section
/-! DEFINITION. Messages between seats, remote data, refusals, signals, rebuilds, and the sequentially consistent
operations and releases (R162, R165, R168, R177, R178, R205, R272, R276, R279 to R283, R289, R297 to R299). -/

namespace Sys2Proof.Machine

/-! ### Order of messages (R289) -/

/-- A bank of one span is a bank of another (R154). -/
def sameBank (p q : Nat × Nat) : Bool :=
  (granules p.1 p.2).any fun g => (granules q.1 q.2).any fun h => g % 32 == h % 32

/-- Two messages from one tile to one bank of a tile keep their order (R289). -/
def Msg.ordered (m k : Msg) : Bool :=
  m.src / 4 == k.src / 4 && m.dst / 4 == k.dst / 4 &&
  (match m.body.span, k.body.span with
    | some p, some q => sameBank p q
    | _, _ => false)

def MsgBody.isSignal : MsgBody → Bool
  | .sem _ _ => true
  | .bar _ _ => true
  | _ => false

/-- A message issued before another comes before it: one of its tile and bank, a signal before a signal of its tile (R272, R289).
-/
def Msg.before (k m : Msg) : Bool :=
  k.ordered m || (k.body.isSignal && m.body.isSignal && k.src / 4 == m.src / 4 && k.dst / 4 == m.dst / 4)

/-- An earlier message must be served before the i-th: one that comes before it, on its way or deferred in a release queue, or a
sequentially consistent operation of its seat (R272, R280, R289, R294). -/
def State.blocked (s : State) (i : Nat) (m : Msg) : Bool :=
  ((s.msgs.take i).any fun k => k.before m || (k.src == m.src && k.stamp.isSome)) ||
  (s.seats.any fun y => y.sync.relq.any fun d => match d with | .msg k => k.serial < m.serial && k.before m | _ => false)

/-! ### Service at the target bank (R162, R165, R168 to R171, R179) -/

/-- A refusal on its way back. -/
def State.refuse (s : State) (m : Msg) (cause : Nat) (entry : Option Nat) : State :=
  { s with reports := s.reports ++
    [{ seat := m.src, overflow := false, cause := cause, addr := m.ea, pc := m.pc, slot := m.slot, entry := entry }] }

def State.reply (s : State) (m : Msg) (entry : Nat) (dst : Land) : State :=
  { s with replies := s.replies ++ [{ seat := m.src, entry := entry, dst := dst }] }

/-- A posted operation retires when it is performed: its arrival (R59). -/
def State.retired (s : State) (m : Msg) : State :=
  match m.arr, s.seat? m.src with
  | some b, some x => s.putSeat (x.arrive b m.slot m.pc)
  | _, _ => s

/-- What a remote read's destination takes: a register value, the lanes of a V register, an edge. -/
def Land.fill (d : Land) (v : Word64) (lanes : VReg × VReg) (edge : BitVec 1024) : Land :=
  match d with
  | .sReg n _ => .sReg n v
  | .vReg n _ _ => .vReg n lanes.1 lanes.2
  | .aEdge _ => .aEdge edge
  | .bEdge _ => .bEdge edge
  | e => e

/-- The destination of a seat's remote read. -/
def State.readDst (s : State) (k entry : Nat) : Land :=
  match (s.seat? k).bind fun x => x.remotes.find? (·.id == entry) with
  | some r => r.dst
  | none => .remote entry

/-- A read served: its data, or SCRATCH_ECC for a poisoned granule of the parts it reads (R167, R179). -/
def State.serveRead (s : State) (y : Seat) (m : Msg) (a n entry : Nat) (parts : List (Nat × Nat))
    (v : List Byte → Word64 × (VReg × VReg) × BitVec 1024) : State :=
  if !s.allows (some (.port y.die y.tile)) m.src false true then s.refuse m 0x11 (some entry)
  else if parts.any fun p => y.poisoned p.1 p.2 then s.refuse m 0x22 (some entry)
  else
    let r := v (y.padBytes a n)
    s.reply m entry ((s.readDst m.src entry).fill r.1 r.2.1 r.2.2)

/-- The lanes of a VLDR's bytes. -/
def lanesAt (lanes : List Nat) (bs : List Byte) : VReg × VReg :=
  packElems 32 (lanes.map fun i => (i, leNat ((bs.drop (4 * i)).take 4)))

/-- A message served at its target (R162, R169 to R171, R205, R334). -/
def State.serve (s : State) (y : Seat) (m : Msg) : State :=
  let writeOk (a n : Nat) (both : Bool) (ws : List (Nat × Byte)) : Option Nat :=
    if !s.allows (some (.port y.die y.tile)) m.src true both then some 0x11
    else if !y.threadOwned a n then some 0x09
    else if y.partialPoison ws then some 0x22
    else none
  match m.body with
  | .store a bs =>
    match writeOk a (((bs.map fun b => b.1 + 1 - a).foldl max 1)) false bs with
    | some c => s.refuse m c none
    | none => (s.putSeat (y.writeBytes bs)).retired m
  | .load a n e => s.serveRead y m a n e [(a, n)] fun bs => (loadedWord n bs, (0, 0), 0)
  | .vload a lanes n e => s.serveRead y m a n e (lanes.map fun i => (a + 4 * i, 4)) fun bs => (0, lanesAt lanes bs, 0)
  | .edge a e _ => s.serveRead y m a 128 e [(a, 128)] fun bs => (0, (0, 0), BitVec.ofNat 1024 (leNat bs))
  | .amo a n f v cmp e _ =>
    match writeOk a n true [] with
    | some c => s.refuse m c (some e)
    | none =>
      if y.poisoned a n then s.refuse m 0x22 (some e)
      else
        let old := leNat (y.padBytes a n)
        let new := amoFn f (8 * n) old (v.toNat % 2 ^ (8 * n)) (cmp.toNat % 2 ^ (8 * n))
        (s.putSeat (y.writeBytes (cellsAt a (leBytes n new)))).reply m e
          ((s.readDst m.src e).fill (BitVec.ofNat 64 old) (0, 0) 0)
  | _ => s

/-- A request that joins a multicast group (R205). -/
def MsgBody.isMulticast : MsgBody → Bool
  | .edge _ _ b => b
  | _ => false

/-- A message reads bytes of its target: a word among them whose parity fails waits for its rebuild (R177, R178). -/
def MsgBody.waitsParity (b : MsgBody) (y : Seat) : Bool :=
  match b with
  | .store _ _ => false
  | b => match b.span with
    | some p => y.parityFails p.1 p.2
    | none => false

/-- A message reaches its target: the links carry traffic, the bytes it reads are sound in parity, and the seat's accesses that
follow it may go on (R156, R177, R286, R388). -/
def State.meet (s : State) (m : Msg) : Option (State × Seat) := do
  let t := s.takeMsg m
  let y ← t.seat? m.dst
  if !s.pathUp m.src m.dst || m.body.waitsParity y then none
  return (t, y)

/-- REMOTE_MESSAGE_ARRIVAL (R168, R289). -/
def execRemoteMessageArrival (i : Nat) (s : State) : Out :=
  eventOut s do
    let m ← s.msgs[i]?
    if m.body.span.isNone || m.body.isMulticast || m.stamp.isSome || s.blocked i m then none
    let (t, y) ← s.meet m
    some (t.serve y m)

/-- A request may join the group of another: for the same 128 bytes of one seat, from another tile, and nothing before it is to
be served first (R205). -/
def State.joins (s : State) (m : Msg) (p : Msg × Nat) : Bool :=
  p.1.body.isMulticast && p.1.dst == m.dst && p.1.body.span == m.body.span && p.1.src / 4 != m.src / 4 && !s.blocked p.2 p.1

/-- The requests of one multicast group: the i-th message and those of a list of others, which have arrived with it, one of each
tile (R205). -/
def State.group (s : State) (i : Nat) (also : List Nat) : Option (List Msg) := do
  let m ← s.msgs[i]?
  let ks ← also.mapM fun j => (s.msgs[j]?).map fun k => (k, j)
  if m.body.isMulticast && !s.blocked i m && (ks.all (s.joins m)) && (ks.map fun k => k.1.src / 4).Nodup then
    some (m :: ks.map (·.1))
  else none

/-- MULTICAST_GROUP_READ: one read serves the requests of the group that have arrived; one that arrives later starts a group
of its own (R205). -/
def execMulticastGroupRead (i : Nat) (s : State) (also : List Nat := []) : Out :=
  eventOut s do
    let ms ← s.group i also
    ms.foldlM (fun t m => do
      let (u, y) ← t.meet m
      return u.serve y m) s

/-- REMOTE_DATA_ARRIVAL: the data stands in its entry (R165, R204). -/
def execRemoteDataArrival (i : Nat) (s : State) : Out :=
  eventOut s do
    let r ← s.replies[i]?
    let x ← s.seat? r.seat
    let y : Seat := { x with remotes := x.remotes.map fun e =>
      if e.id == r.entry then { e with arrived := true, dst := r.dst } else e }
    some { s.putSeat y with replies := s.replies.eraseIdx i }

/-- A report reaches its seat: the cause is raised there; a refused read lands nothing and frees its entry (R162, R276). -/
def State.takeReport (s : State) (i : Nat) (overflow : Bool) : Option State := do
  let r ← s.reports[i]?
  if r.overflow != overflow then none
  let x ← s.seat? r.seat
  let y := match r.entry with
    | some e => { x with
        remotes := x.remotes.filter (·.id != e), landings := x.landings.filter fun l => l.eff != Land.remote e }
    | none => x
  some { s.putSeat (y.latch r.cause r.slot r.pc r.addr) with reports := s.reports.eraseIdx i }

/-- REMOTE_REFUSAL_RETURN (R162). -/
def execRemoteRefusalReturn (i : Nat) (s : State) : Out := eventOut s (s.takeReport i false)

/-- SIGNAL_OVERFLOW_REPORT (R276). -/
def execSignalOverflowReport (i : Nat) (s : State) : Out := eventOut s (s.takeReport i true)

/-- REMOTE_SIGNAL_ARRIVAL: the count or the arrivals of the target; an overflow travels back (R270 to R272, R276). -/
def execRemoteSignalArrival (i : Nat) (s : State) : Out :=
  eventOut s do
    let m ← s.msgs[i]?
    if s.blocked i m || !s.pathUp m.src m.dst then none
    let y ← s.seat? m.dst
    let report (c : Nat) : Report :=
      { seat := m.src, overflow := true, cause := c, addr := m.ea, pc := m.pc, slot := m.slot, entry := none }
    let apply (r : Seat × Bool) (c : Nat) : State :=
      let t := (s.takeMsg m).putSeat r.1
      if r.2 then { t with reports := t.reports ++ [report c] } else t
    match m.body with
    | .sem j k => some (apply (y.addSem j k.toNat) 0x0E)
    | .bar j k => some (apply (y.addArrivals j k.toNat) 0x0D)
    | _ => none

/-! ### Parity and the scrubber (R177 to R179) -/

/-- Group, bank and word column of a seat-relative byte address (R154, R155, R177). -/
def Seat.column (x : Seat) (a : Nat) : Nat × Nat × Nat :=
  (x.pads.phys.getD (a / 4096) 0 / 32, a / 64 % 32, a / 8 % 8)

/-- An odd number of bits: horizontal parity sees them (R177). -/
def oddBits (v : BitVec 64) : Bool := popcBits 64 v.toNat % 2 == 1

/-- Bits that an upset changes in a word, added to those of earlier upsets. -/
def addUpset (a : Nat) (v : BitVec 64) : List (Nat × BitVec 64) → List (Nat × BitVec 64)
  | [] => [(a, v)]
  | u :: r =>
    if a < u.1 then (a, v) :: u :: r
    else if a = u.1 then (if u.2 ^^^ v = 0 then r else (a, u.2 ^^^ v) :: r)
    else u :: addUpset a v r

/-- Bits of a 64-bit word of the pads change. -/
def Seat.flipWord (x : Seat) (a : Nat) (v : BitVec 64) : Seat :=
  { x with pads := { x.pads with
    bytes := putCells x.pads.bytes (cellsAt a (leBytes 8 ((BitVec.ofNat 64 (x.padNat a 8)) ^^^ v).toNat)) } }

/-- Bits that an upset changes in a word of a pad that no seat holds, added to those of earlier upsets. -/
def addStray (a : Nat × Nat) (v : BitVec 64) (l : List ((Nat × Nat) × BitVec 64)) : List ((Nat × Nat) × BitVec 64) :=
  let new := (((l.find? (·.1 == a)).map (·.2)).getD 0) ^^^ v
  let rest := l.filter (·.1 != a)
  if new = 0 then rest else rest ++ [(a, new)]

/-- An upset comes about: in a word of a seat's pads, of a pad that no seat holds, or in a vertical parity row (R177); none where
there is no such place. -/
def State.upset (s : State) (tile : Nat) (u : Upset) : Option State :=
  match u with
  | .word k a v => do
    let x ← s.seat? k
    if x.id / 4 = tile ∧ a % 8 = 0 ∧ a + 8 ≤ 4096 * x.pads.count ∧ v ≠ 0 then
      let y := x.flipWord a v
      return s.putSeat { y with pads := { y.pads with upset := addUpset a v y.pads.upset } }
    else none
  | .stray q o v =>
    let t := s.tile tile
    if q < Config.padsPerTile ∧ o < 4096 ∧ o % 8 = 0 ∧ v ≠ 0 ∧
        (s.seats.all fun y => y.id / 4 != tile || !y.pads.phys.contains q) = true then
      some (s.putTile { t with stray := addStray (q, o) v t.stray })
    else none
  | .parity g b c v =>
    let t := s.tile tile
    if g < 4 ∧ b < 32 ∧ c < 8 ∧ v ≠ 0 then
      let old := (t.parErr.find? fun e => e.1 == (g, b, c)).map (·.2)
      let new := (old.getD 0) ^^^ v
      let rest := t.parErr.filter fun e => e.1 != (g, b, c)
      some (s.putTile { t with parErr := if new = 0 then rest else rest ++ [((g, b, c), new)] })
    else none

/-- A seat leaves its pads: bits that are upset stay upset in them (R177). -/
def State.leavePads (s : State) (x : Seat) : State :=
  let t := s.tile (x.id / 4)
  s.putTile { t with stray :=
    x.pads.upset.foldl (fun l u => addStray (x.pads.phys.getD (u.1 / 4096) 0, u.1 % 4096) u.2 l) t.stray }

/-- A seat takes its pads, every word of which has been written (R158, R177, R376). -/
def State.takePads (s : State) (x : Seat) : State :=
  let t := s.tile (x.id / 4)
  s.putTile { t with stray := t.stray.filter fun u => !x.pads.phys.contains u.1.1 }

/-- Group, bank and word column of an offset in a physical pad (R154, R177). -/
def padColumn (a : Nat × Nat) : Nat × Nat × Nat := (a.1 / 32, a.2 / 64 % 32, a.2 / 8 % 8)

/-- The upset words of a tile: their column, their seat and address, none where no seat holds the pad, and the bits. -/
def State.upsets (s : State) (tile : Nat) : List ((Nat × Nat × Nat) × Option (Nat × Nat) × BitVec 64) :=
  ((s.seats.filter (·.id / 4 == tile)).map fun x => x.pads.upset.map fun u => (x.column u.1, some (x.id, u.1), u.2)).flatten ++
  (s.tile tile).stray.map fun u => (padColumn u.1, none, u.2)

/-- Group and bank of the words of a tile whose parity fails. -/
def State.failingGroups (s : State) (tile : Nat) : List (Nat × Nat) :=
  (((s.upsets tile).filter fun u => oddBits u.2.2).map fun u => (u.1.1, u.1.2.1)).eraseDups

/-- The granules of a bank's group lose their data: those of every seat of the tile (R155, R178). -/
def State.poisonGroup (s : State) (tile group bank : Nat) : State :=
  { s with seats := s.seats.map fun y =>
      if y.id / 4 = tile then
        (List.range y.pads.count).foldl (fun z q =>
          if y.pads.phys.getD q 0 / 32 = group then
            (z.markPoison (4096 * q + 64 * bank) 1).markPoison (4096 * q + 64 * bank + 2048) 1
          else z) y
      else y }

/-- A column is written again: its words and its parity agree. So they do too where a column was poisoned and not rebuilt, of which
R178 says nothing (DESIGN CHOICE, log entry 32). -/
def State.settleColumn (s : State) (tile : Nat) (key : Nat × Nat × Nat) : State :=
  let t := s.tile tile
  let u := s.putTile { t with
    parErr := t.parErr.filter fun e => e.1 != key, stray := t.stray.filter fun w => padColumn w.1 != key }
  { u with seats := u.seats.map fun y =>
      if y.id / 4 = tile then { y with pads := { y.pads with upset := y.pads.upset.filter fun w => y.column w.1 != key } }
      else y }

/-- One column of a group (R178): syn is what the parity rows and the words tell of it. -/
def State.rebuildColumn (s : State) (tile : Nat) (key : Nat × Nat × Nat) : State :=
  let ws := (s.upsets tile).filter (·.1 == key)
  let stored := (((s.tile tile).parErr.find? fun e => e.1 == key).map (·.2)).getD 0
  let syn := ws.foldl (fun v w => v ^^^ w.2.2) stored
  let at' (t : State) (f : Option (Nat × Nat)) (g : Nat → Seat → Seat) : State :=
    match f with
    | some (k, a) => t.setSeat k (g a)
    | none => t
  match ws.filter fun w => oddBits w.2.2 with
  | [f] => (at' s f.2.1 fun a x => x.flipWord a syn).settleColumn tile key
  | [] => if syn = 0 then s else (s.poisonGroup tile key.1 key.2.1).settleColumn tile key
  | fs => (fs.foldl (fun t f => at' t f.2.1 fun a x => x.markPoison a 8) s).settleColumn tile key

/-- The eight columns of a group (R178). -/
def State.rebuildGroup (s : State) (tile : Nat) (g : Nat × Nat) : State :=
  (List.range 8).foldl (fun t c => t.rebuildColumn tile (g.1, g.2, c)) s

/-- Number of a tile's margin record: die, cluster, slot (R385). -/
def recordNo (tile : Nat) : Nat := tile / 64 * 72 + tile % 64 / 8 * 9 + tile % 8

/-- A tile's margin record; the tables start with the nominal values (R384, R385; log entry 2). -/
def MarginRec.fresh (n : Nat) : MarginRec :=
  { num := n, exec := 0, repl := 0, sknk := 0, drift := 0, trim := 0, ceil := 0, freq := 2500, win := 0, eccn := 0
    subst := false, fenced := false, log := [] }

def State.record (s : State) (n : Nat) : MarginRec := (s.margin.find? (·.num == n)).getD (MarginRec.fresh n)

def insertRecord (r : MarginRec) : List MarginRec → List MarginRec
  | [] => [r]
  | x :: l => if r.num < x.num then r :: x :: l else if r.num = x.num then r :: l else x :: insertRecord r l

def State.putRecord (s : State) (r : MarginRec) : State := { s with margin := insertRecord r s.margin }

/-- AXOLOTL_REBUILD: the groups of a tile in which a word's parity fails are rebuilt or poisoned, and the errors counted (R178);
and the cells of its die pair's cell store that cannot be rebuilt are poisoned in that replica, where open watches on them raise
POISON (R306). -/
def execAxolotlRebuild (tile : Nat) (lost : List (Nat × Nat)) (s : State) : Out :=
  eventOut s (
    let gs := s.failingGroups tile
    if 512 ≤ tile || (gs.isEmpty && lost.isEmpty) ||
        !lost.all (fun c : Nat × Nat => s.regions.any fun (r : Region) => r.num == c.1 && c.2 < r.cells) then none
    else
      let t := gs.foldl (fun t g => t.rebuildGroup tile g) s
      let u := lost.foldl (fun u (c : Nat × Nat) => u.poisonCell (tile / 64) c.1 c.2) t
      some (u.putTile { u.tile tile with ecc := (u.tile tile).ecc + gs.length }))

/-- SCRUB: upsets that have come about since, and the scrubber goes to the next of the banks' 256 rows; a word there whose
parity fails brings AXOLOTL_REBUILD (R177). -/
def execScrub (tile : Nat) (s : State) (upset : List Upset := []) : Out :=
  eventOut s (
    if 512 ≤ tile then none
    else (upset.foldlM (fun (t : State) u => t.upset tile u) s).map fun t =>
      let u := t.tile tile
      t.putTile { u with scrubRow := (u.scrubRow + 1) % 256 })

/-! ### Releases (R279, R280, R285) -/

/-- A message that a release at a scope waits for (R279). -/
def State.waitsForMsg (s : State) (x : Seat) (r : Release) (m : Msg) : Bool :=
  m.src == x.id && m.serial < r.below &&
  (match m.body with
    | .lattice _ _ _ => 2 ≤ r.scope
    | .store _ _ | .amo _ _ _ _ _ _ _ | .sem _ _ | .bar _ _ =>
      (match s.seat? m.dst with
        | some y => inScope r.scope x y
        | none => 3 ≤ r.scope)
    | _ => false)

/-- Every prior access of a release but the seat's own pad writes and acknowledgements is performed (R279). -/
def State.accessesDone (s : State) (x : Seat) (r : Release) : Bool :=
  !(s.msgs.any (s.waitsForMsg x r)) && !(x.copy.cmds.any (s.waitsForCmd x r)) &&
  !((s.tile (x.id / 4)).sideLog.any fun e => e.seat == x.id)

/-- The messages before the next release of a queue, and the rest. -/
def flushRelq : List Deferred → List Msg × List Deferred
  | .msg m :: r => let p := flushRelq r; (m :: p.1, p.2)
  | l => ([], l)

def isPad : Land → Bool | .pad _ _ => true | _ => false

/-- Own pad writes issued before a release (R279). -/
def Seat.padPending (x : Seat) (r : Release) : Bool := x.landings.any fun l => isPad l.eff && l.issued < r.cycle

/-- Every access and command of a seat is performed in the package and complete (R283). -/
def State.drainedHere (s : State) (x : Seat) : Bool :=
  x.copy.cmds.isEmpty && x.copy.waits.isEmpty && x.sync.relq.isEmpty &&
  !(s.msgs.any fun m => m.src == x.id) && !(x.remotes.any fun r => !r.arrived) &&
  !((s.tile (x.id / 4)).sideLog.any fun e => e.seat == x.id)

/-- Every access and command of a seat is performed at pod scope and complete (R283). -/
def State.drained (s : State) (x : Seat) : Bool := s.drainedHere x && x.unacked == 0

/-- The bundle at the head of a seat's queue holds an FSC. -/
def Item.isFsc (i : Item) : Bool :=
  i.words.any fun w => w.1 == 0 && (decode .ctl w.2.1 w.2.2).toOption == some .fsc

/-- The seat stands at an FSC. -/
def Seat.atFsc (x : Seat) : Bool := match x.queue with | .exec i :: _ => i.isFsc | _ => false

/-- A request for the acknowledgement of a seat's pod-scope release. -/
def PeerSend.asksFor (k : Nat) : PeerSend → Bool
  | .release _ j => j == k
  | _ => false

/-- The peers of a seat's traffic are asked to acknowledge it, once, through every port that leads to one (R279, R299, R409). -/
def State.askPeers (s : State) (k : Nat) : Option State :=
  let ps := (List.range 12).filter fun p => s.portUsed p && (s.input (p + 1)).up
  if ps.isEmpty || s.peerOut.any (PeerSend.asksFor k) then none else some { s with peerOut := s.peerOut ++ ps.map fun p => .release p k }

/-- RELEASE_PERFORMED: the oldest release of a seat; what was deferred behind it is sent (R279, R280). A release at pod
scope with traffic to peers first asks for their acknowledgement, and so does an FSC whose other accesses are performed
(R283). The release of an SC SENDO that follows another SC operation of its bundle comes after that one (R286, R297). -/
def execReleasePerformed (k : Nat) (s : State) : Out :=
  eventOut s do
    let x ← s.seat? k
    match x.sync.relq with
    | .release r :: rest =>
      if !s.accessesDone x r || x.padPending r then none
      else if r.scope = 4 ∧ x.unacked ≠ 0 then s.askPeers k
      else
        let p := flushRelq rest
        let ready := if x.sync.scNeed ≠ 0 ∧ p.2.isEmpty then some s.chorus else x.sync.scReady
        some ((s.putSeat { x with sync := { x.sync with relq := p.2, scReady := ready } }).sendAll p.1)
    | _ =>
      match x.copy.cmds.find? Cmd.lacksStamp with
      | some m =>
        if x.sync.scNeed ≠ 0 then none
        else
          let r : Release := { scope := 4, below := s.serial, cycle := m.serial }
          some (s.putSeat { x with sync := { x.sync with scNeed := 1, scReady := none, scStamps := [], relq := [.release r] } })
      | none => if x.atFsc && s.drainedHere x && x.unacked != 0 then s.askPeers k else none

/-- PEER_RELEASE_ACK: the peers asked have acknowledged a pod-scope release, and the acknowledgement carries its chorus time; or a
peer asks, and this device answers once it has delivered the peer's messages (R279, R298, R409, R410). -/
def execPeerReleaseAck (k time : Nat) (s : State) (asks : Option PeerAsk := none) : Out :=
  eventOut s do
    match asks with
    | some a =>
      if !s.portIn a.port || (s.inputs.toList.any fun i => i.queue.any fun m => m.src.isNone && m.dev == a.dev) then none
      else some (s.tell (.released a.port a.dev a.seat s.chorus))
    | none =>
      let x ← s.seat? k
      if x.unacked = 0 ∨ !(s.peerOut.any fun q => match q with | .release p j => j == k && s.portIn p | _ => false) then none
      some { s.putSeat { x with unacked := 0 } with
        floor := max s.floor time, peerOut := s.peerOut.filter fun p => !p.asksFor k }

/-! ### Sequential consistency (R295 to R299) -/

/-- A chorus time stands at one of the seat's wheel positions (R295, R296). -/
def Seat.atPosition (x : Seat) (t : Nat) : Bool :=
  (List.range x.sync.wheelCnt).any fun i => (x.sync.wheelFirst + i * x.sync.wheelStride) % 512 == t % 512

/-- The least time above a bound at a position (R297). -/
def Seat.nextPosition (x : Seat) (bound : Nat) : Option Nat :=
  ((List.range 512).find? fun i => x.atPosition (bound + 1 + i)).map fun i => bound + 1 + i

/-- The stamp that a seat whose release is performed takes next: its first position above that time and the floor (R297,
R298). -/
def Seat.nextStamp (x : Seat) (floor : Nat) : Option Nat := do
  let r ← x.sync.scReady
  if x.sync.scNeed ≤ x.sync.scStamps.length then none
  else x.nextPosition (max (max r floor) (x.sync.scStamps.getLast?.getD 0))

/-- SC_STAMP: once the release is performed, the operation is stamped (R297, R298). -/
def execScStamp (k : Nat) (s : State) : Out :=
  eventOut s do
    let x ← s.seat? k
    let t ← x.nextStamp s.floor
    if s.chorus < t then none
    match x.copy.cmds.find? Cmd.lacksStamp with
    | some m => some (s.putSeat ({ x with sync := { x.sync with scNeed := 0, scReady := none } }.updCmd m.serial fun m =>
        { m with stamp := some t }))
    | none => some (s.putSeat { x with sync := { x.sync with scStamps := x.sync.scStamps ++ [t] } })

/-- An operation with a smaller key is still to be performed, whatever its target: one on its way, one that is stamped and has not
been issued or injected, or one of another seat whose stamp will be smaller. All targets see the SC order, so that no seat sees
two operations the other way round (R294, R297). -/
def State.smallerKey (s : State) (m : Msg) (t : Nat) : Bool :=
  (s.msgs.any fun q => q.stamp.any (· < t)) ||
  (s.seats.any fun y => y.id != m.src && ((y.sync.scStamps.any (· < t)) || (y.nextStamp s.floor).any (· < t) ||
    y.copy.cmds.any fun q => q.isSc && q.sent.isNone && q.fault.isNone && q.stamp.any (· < t)))

/-- The oldest operation of a seat that carries a stamp, once nothing that the seat sent before it is on its way. -/
def State.scFirst (s : State) (k : Nat) : Option Msg :=
  (s.msgs.find? (·.src == k)).filter fun m => m.stamp.isSome

/-- SC_PERFORM: 64 ns after its stamp, after every SC operation with a smaller key and every access of its seat
before it (R294, R297). -/
def execScPerform (k : Nat) (s : State) : Out :=
  eventOut s do
    let m ← s.scFirst k
    let t ← m.stamp
    if s.chorus < t + 64 || s.smallerKey m t || s.blocked (s.msgs.findIdx (· == m)) m then none
    match m.body with
    | .lattice op va v =>
      let x ← s.seat? m.src
      if x.joinsFirst m.cycle then none
      some ((s.takeMsg m).serveLattice x m op va v)
    | .amo _ _ _ _ _ _ _ =>
      let (t, y) ← s.meet m
      some (t.serve y m)
    | _ => none

/-- An SC operation of the seat is not yet performed, or its old value has not arrived (R297). -/
def State.scBusy (s : State) (x : Seat) : Bool :=
  (s.msgs.any fun m => m.src == x.id && m.stamp.isSome) || (x.remotes.any fun r => r.sc && !r.arrived) ||
  (x.copy.cmds.any fun m => m.isSc && m.sent.isNone && m.fault.isNone)

/-- HEARTBEAT: the start of a wheel revolution, which every drained seat has then passed since its drain (R283, R299). Pad writes
of a seat that waits at an FSC have landed by then (R208). -/
def execHeartbeat (s : State) : Out :=
  eventOut s (
    if s.chorus % 512 ≠ 0 then none
    else
      let beat (x : Seat) : Seat :=
        let y := if x.atFsc then x.landWhere (fun l => isPad l.eff) else x
        if s.drained x && !(y.landings.any fun l => isPad l.eff) then
          { y with sync := { y.sync with fscDrain := y.sync.fscDrain <|> some s.chorus } }
        else x
      some { s with seats := s.seats.map beat })

end Sys2Proof.Machine
end

