-- ==== Sys2Proof/Machine/Sequencer.lean ====
section
/-! DEFINITION. The sequencer: fetch, the checks of a bundle, the position, broadcast, and the completion of blocking
bundles (R54 to R58, R62 to R67, R86 to R88, R97 to R102, R106, R107, R112, R120, R432). -/

namespace Sys2Proof.Machine

/-! ### The header word (R57) -/

namespace Header
/-- Slot i is mentioned. -/
def cm (h : Word32) (i : Nat) : Bool := h.getLsbD (24 + i)
def rpt (h : Word32) : Nat := (h.extractLsb' 16 8).toNat
def rs (h : Word32) : Bool := h.getLsbD 15
def stl (h : Word32) : Nat := (h.extractLsb' 12 3).toNat
def b (h : Word32) : Bool := h.getLsbD 11
def clr (h : Word32) : Bool := h.getLsbD 10
def ns (h : Word32) : Bool := h.getLsbD 9
def bar (h : Word32) : BitVec 4 := h.extractLsb' 5 4
def low (h : Word32) : BitVec 5 := h.extractLsb' 0 5
/-- Issue cycles of one execution (R68). -/
def cycles (h : Word32) : Nat := 1 + stl h
/-- A repeating bundle (R66). -/
def repeats (h : Word32) : Bool := rs h || rpt h != 0
end Header

/-! ### Slot words and standing operations (R59, R62) -/

/-- The opcode of a slot word (R59). -/
def opOf (w : Word32) : Nat := (w.extractLsb' 23 6).toNat

/-- A standing NOP (R62). -/
def Standing.nop : Standing := { word := 0, lit := 0, bar := 0, acc := 0 }

abbrev Words := List (Nat × Word32 × Word32)

/-- The word of a mentioned slot, with its literal. -/
def wordAt (ws : Words) (i : Nat) : Option (Word32 × Word32) := (ws.find? (·.1 == i)).map (·.2)

/-- The bundle mentions one of the opcodes in the slot. -/
def mentions (ws : Words) (i : Nat) (codes : List Nat) : Bool :=
  match wordAt ws i with
  | some w => codes.contains (opOf w.1)
  | none => false

/-- CTL operations that execute at the sequencer (R66). -/
def seqCodes : List Nat := [0x01, 0x02, 0x03, 0x04, 0x05, 0x06, 0x07, 0x0B, 0x0C, 0x0D, 0x0E, 0x1B]
/-- BR, BRV, JMP, CALL, RET, RETH (R86, R120). -/
def branchCodes : List Nat := [0x01, 0x02, 0x03, 0x04, 0x05, 0x0E]
/-- BARW, SEMW, WPW, FSC (R100). -/
def blockCodes : List Nat := [0x12, 0x15, 0x16, 0x18]
/-- CTL operations that neither a repeating nor a delay bundle may mention (R66, R86). -/
def barredCodes : List Nat := 0x08 :: (seqCodes ++ blockCodes)
/-- VOTE in UNI; LLD and LWAIT in ADR (R86). -/
def voteCode : Nat := 0x12
def waitCodes : List Nat := [0x20, 0x21]

/-- The standing operation of slot i at the first execution of a bundle, rep being the repeat it starts at (R62, R67). -/
def Standing.next (h : Word32) (ws : Words) (rep i : Nat) (o : Standing) : Standing :=
  match wordAt ws i with
  | some (w, l) =>
    if opOf w = 0 then .nop
    else
      { word := w, lit := if w.getLsbD 31 then l else 0, bar := Header.bar h
        acc := if Header.ns h then 0 else BitVec.ofInt 32 (rep * stepOf (Slot.ofNum i) w) }
  | none =>
    if Header.clr h || opOf o.word == 0 then .nop
    else { o with acc := o.acc + BitVec.ofInt 32 (stepOf (Slot.ofNum i) o.word) }

/-- Every slot at the first execution of a bundle (R62). -/
def standNext (h : Word32) (ws : Words) (rep : Nat) (v : Vector Standing 8) : Vector Standing 8 :=
  Vector.ofFn fun i => Standing.next h ws rep i.val (v.getD i.val .nop)

/-- One-shot operations execute on the first execution only (R63). -/
def Standing.issues (o : Standing) (rep : Nat) : Bool := opOf o.word != 0 && (rep == 0 || !o.word.getLsbD 30)

/-- After the last execution of a bundle one-shot operations become NOP, and all of them where sticky state clears (R63,
R64). -/
def standAfter (clear : Bool) (v : Vector Standing 8) : Vector Standing 8 :=
  v.map fun o => if clear || o.word.getLsbD 30 then .nop else o

/-! ### Fetch (R55, R56, R58) -/

/-- A code word; or the address whose page is not mapped yet, none where the word cannot be read. The sequencer reads as the
gang's first member (log entry 15). -/
def State.codeWord (s : State) (g : Gang) (va : Nat) : Except (Option Nat) Word32 :=
  match s.readNat (g.members.headD 0) va 4 with
  | .ok n => .ok (BitVec.ofNat 32 n)
  | .error e => .error (if e = 0x10 then some va else none)

/-- The header of the bundle at the program counter, with its place in the code: behind the bundle before it, or as the
bundle map says on a taken branch, on loop entry and on resumption (R56). -/
def State.header (s : State) (g : Gang) : Except (Option Nat) (Nat × Word32) := do
  if g.kernel.bundles ≤ g.pc then throw none
  let off ← match g.off with
    | some o => pure o
    | none => (s.codeWord g (g.kernel.mapVa + 4 * g.pc)).map BitVec.toNat
  if g.kernel.codeWords ≤ off then throw none
  return (off, ← s.codeWord g (g.kernel.codeVa + 4 * off))

/-- The slot words and literals of the slots, from a place in the code. -/
def State.slotWords (s : State) (g : Gang) : List Nat → Nat → Except (Option Nat) Words
  | [], _ => .ok []
  | i :: r, off => do
    if g.kernel.codeWords ≤ off then throw none
    let w ← s.codeWord g (g.kernel.codeVa + 4 * off)
    if w.getLsbD 31 then
      if g.kernel.codeWords ≤ off + 1 then throw none
      let l ← s.codeWord g (g.kernel.codeVa + 4 * (off + 1))
      return (i, w, l) :: (← s.slotWords g r (off + 2))
    else return (i, w, 0) :: (← s.slotWords g r (off + 1))

/-- Code words of a bundle's slots, literals included (R55). -/
def wordsLen (ws : Words) : Nat := (ws.map fun w => if w.2.1.getLsbD 31 then 2 else 1).foldl (· + ·) 0

/-- The place behind a bundle: its header, its slot words and their literals (R55). -/
def State.behind (s : State) (g : Gang) (off : Nat) (h : Word32) : Option Nat :=
  ((s.slotWords g ((List.range 8).filter (Header.cm h)) (off + 1)).map fun ws => off + 1 + wordsLen ws).toOption

/-- The sequencer's reads outside an operation (R116, R140). -/
def State.seqCtx (s : State) (g : Gang) : SCtx := { s := s, base := g, live := g, slot := 0, chk := s.checker g }

def DecodeFault.cause : DecodeFault → Nat
  | .illegalOp => 0x01
  | .illegalField => 0x02

/-- The decode fault of a mentioned slot (R87 to R89). -/
def wordFault (sl : Slot) (ws : Words) : Option Nat :=
  match wordAt ws sl.num with
  | some (w, l) =>
    match decode sl w l with
    | .error e => some (DecodeFault.cause e)
    | .ok _ => none
  | none => none

/-- A delay bundle is next (R86). -/
def Gang.inDelay (g : Gang) : Bool := match g.delay with | some d => d.remain != 0 | none => false

/-- The bundle is the last of the body of an active level. -/
def Gang.atLast (g : Gang) : Bool := g.loops.any (·.last == g.pc)

/-- A standing VOTE, LLD or LWAIT that the bundle re-issues (R86). -/
def Gang.standsWait (g : Gang) (h : Word32) (ws : Words) : Bool :=
  let stands (i : Nat) (codes : List Nat) : Bool :=
    (wordAt ws i).isNone && codes.contains (opOf (g.standing.getD i .nop).word)
  !Header.clr h && (stands 1 [voteCode] || stands 2 waitCodes)

/-- ILLEGAL_DELAY: the content of a delay bundle, and of a branch bundle; RETH counts as a branch in the check of R120
too (DEDUCED, log entry 26). -/
def Gang.delayBad (g : Gang) (h : Word32) (ws : Words) : Bool :=
  (g.inDelay && (mentions ws 0 barredCodes || mentions ws 1 [voteCode] || mentions ws 2 waitCodes || g.standsWait h ws ||
    Header.b h || Header.repeats h || g.atLast)) ||
  (mentions ws 0 branchCodes && (Header.b h || g.atLast))

/-- FETCH; cause 0 where the word's page is not mapped yet and the fetch waits for it (R56). -/
def fetchTrap (why : Option Nat) : TrapInfo :=
  match why with
  | some va => trapAt 0 (BitVec.ofNat 64 va)
  | none => trapAt 0x1B 0

/-- Fetch and the checks of R88, in order: the bundle's header, words and executions; or the trap with its slot. A
bundle passed over has no executions left, and only its header is checked (R58, R87). ILLEGAL_BUNDLE and ILLEGAL_DELAY
name slot 0, as header faults do (R367), whichever slot they come from (DEDUCED, log entry 26). An RS count that is read too
early raises UNDERSIZED_STALL (R116, R140) after all of R88's checks, which the bundle's words meet even where the count so
far is zero (DESIGN CHOICE, log entry 32). -/
def State.fetch (s : State) (g : Gang) : Except (TrapInfo × Nat) (Word32 × Words × Nat) :=
  match s.header g with
  | .error e => .error (fetchTrap e, 0)
  | .ok (off, h) =>
    let read := (s.seqCtx g).hsrc (Header.rpt h / 16)
    let late := Header.rs h && (match read with | .error _ => true | .ok _ => false)
    let n := if Header.rs h then (hField (g.h.getD (Header.rpt h / 16) 0) (Header.rpt h % 16)).toNat else Header.rpt h + 1
    let lowBad := Header.low h != 0
    if n ≤ g.rep && !late then (if lowBad then .error (trapAt 0x03 0, 0) else .ok (h, [], n))
    else
      match s.slotWords g ((List.range 8).filter (Header.cm h)) (off + 1) with
      | .error e => .error (fetchTrap e, 0)
      | .ok ws =>
        if lowBad then .error (trapAt 0x03 0, 0)
        else if Header.repeats h && (mentions ws 0 barredCodes || mentions ws 1 [voteCode]) then .error (trapAt 0x03 0, 0)
        else
          match wordFault .ctl ws with
          | some c => .error (trapAt c 0, 0)
          | none =>
            match wordFault .uni ws with
            | some c => .error (trapAt c 0, 1)
            | none =>
              if g.delayBad h ws then .error (trapAt 0x04 0, 0)
              else
                match late, read with
                | true, .error e => .error (e, 0)
                | _, _ => .ok (h, ws, n)

/-- The frame of a fault found at fetch: a target that cannot be fetched is reported at its branch (R120, R368). -/
def Gang.fetchFault (g : Gang) (t : TrapInfo) (slot : Nat) : Gang :=
  match g.delay with
  | some d =>
    if d.remain ≠ 0 then g.trapSeq t slot g.pc
    else if t.cause = 0x1B then g.trapSeq { t with addr := BitVec.ofNat 64 d.target } slot d.branch
    else { g with delay := none }.trapSeq t slot g.pc
  | none => g.trapSeq t slot g.pc

/-- A fault found at fetch, or a fetch that waits for a page and takes FETCH should it not be mapped (R56). -/
def Gang.fetchStop (g : Gang) (t : TrapInfo) (slot : Nat) : Gang :=
  if t.cause = 0 then { g with held := (g.fetchFault (trapAt 0x1B 0) slot).seqTrap.map fun f => (t.addr.toNat, f) }
  else g.fetchFault t slot

/-- The page that a read of the sequencer waits for is mapped (R56, R141). -/
def State.pageReady (s : State) (g : Gang) : Bool := g.held.all fun h => (s.vaToPa h.1).isSome

/-- The target of a taken branch has been fetched: the branch is done. -/
def Gang.arrived (g : Gang) : Gang := if g.inDelay then g else { g with delay := none }

/-! ### The position (R102, R112, R122, R123, R130) -/

/-- Control at the end of a bundle: the levels whose LAST it is end an iteration, from the top down (R102, R122). -/
def loopEnd (pc : Nat) : List LoopLevel → List LoopLevel × Nat
  | [] => ([], pc + 1)
  | l :: r =>
    if l.last = pc then
      if l.index + 1 < l.limit then ({ l with index := l.index + 1 } :: r, l.first) else loopEnd pc r
    else (l :: r, pc + 1)

/-- The bundle ends an iteration of the top level. -/
def Gang.endsIteration (g : Gang) : Bool := match g.loops with | l :: _ => l.last == g.pc | [] => false

/-- What handler entry set aside returns (R130, R371). -/
def Gang.unset (g : Gang) : Gang :=
  match g.asideState with
  | some a =>
    { g with
      pc := a.pc, off := none, rep := a.rep, reps := 0, loops := a.loops, delay := a.delay, standing := a.standing, edge := a.edge
      level := false, asideState := none, seqTrap := a.pend, stop := if a.ended then .ended else g.stop }
  | none => g

/-- The bundle stands in a taken branch's delay, or in that of a RETH. -/
def Gang.transfers (g : Gang) : Bool := match g.delay with | some d => d.taken || d.reth | none => false

/-- The position after the last execution of a bundle that does not transfer control itself; a bundle that follows in
sequence stands behind this one, and the place of any other is read from the bundle map: of a taken branch's target and of a
loop's first bundle, as R56 has it, and also of FIRST at a back edge, of the bundle behind a loop that LBRK, a zero count or a
last iteration leaves, and of a handler's first bundle (R56; DESIGN CHOICE, log entry 32). Behind a branch that is not
taken a bundle passed over may be the LAST of a level, and ends its iteration (R58, R102). -/
def Gang.onward (g : Gang) (pc : Nat) : Gang :=
  let e := loopEnd pc g.loops
  match g.delay with
  | some d =>
    if !g.transfers && e.1 != g.loops then
      { g with delay := none, loops := e.1, pc := e.2, off := if e.2 = pc + 1 then g.next else none }
    else if 1 < d.remain then { g with delay := some { d with remain := d.remain - 1 }, pc := pc + 1, off := g.next }
    else if d.reth then { g with delay := none }.unset
    else if d.taken then { g with delay := some { d with remain := 0 }, pc := d.target, off := none }
    else { g with delay := none, pc := pc + 1, off := g.next }
  | none => { g with loops := e.1, pc := e.2, off := if e.2 = pc + 1 then g.next else none }

/-- The bundle is the second delay bundle of a taken branch, or of a RETH. -/
def Gang.endsBranch (g : Gang) : Bool := match g.delay with | some d => d.remain == 1 && d.taken && !d.reth | none => false
def Gang.endsReth (g : Gang) : Bool := match g.delay with | some d => d.remain == 1 && d.reth | none => false

/-- A bundle passed over at this position ends an iteration of the top level. A delay bundle of a taken branch that is the LAST
of a level does not: the level stays as it is, control goes to the target, and no boundary stands between branch and
target (R58, R86, R102, R107, R112; DESIGN CHOICE, log entry 32). -/
def Gang.passEnds (g : Gang) : Bool := g.endsIteration && !g.transfers

/-- A bundle passed over with a zero count: it stands at its place, and may end an iteration or a branch, which clears
sticky state (R58, R64). Nothing has executed: a boundary before it is one behind it too (R107, R397). -/
def Gang.passOver (g : Gang) : Gang :=
  let clear := g.endsIteration || g.endsBranch
  { g with
    rep := 0, reps := 0, edge := g.edge || g.passEnds
    standing := if clear then standAfter true g.standing else g.standing }.onward g.pc

/-! ### Broadcast (R97 to R99, R432) -/

/-- The standing UNI operation, and whether it is a VOTE that executes now. -/
def Gang.uni (g : Gang) : Standing := g.standing.getD 1 .nop
def Gang.votes (g : Gang) : Bool := g.uni.issues g.rep && opOf g.uni.word == voteCode

/-- A blocking bundle (R100). -/
def Gang.blocks (g : Gang) : Bool := g.votes || (g.rep == 0 && mentions g.words 0 blockCodes)

/-- The execution of the bundle at the sequencer's position, as members receive it. A bundle with a wait is a boundary
whether or not its B bit is set (R278); it clears sticky state only as R64 says. -/
def Gang.item (g : Gang) : Item :=
  let last := g.rep + 1 == g.reps
  let brk := g.rep == 0 && mentions g.words 0 [0x07]
  let waits := g.rep == 0 && mentions g.words 0 blockCodes
  let ends := last && (g.endsIteration || Header.b g.hdr)
  let d := g.delay.getD { remain := 0, taken := false, target := 0, branch := 0, reth := false }
  { serial := g.serial, pc := g.pc, rep := g.rep, hdr := g.hdr, words := g.words
    first := g.fresh && (g.rep == 0 || Header.clr g.hdr)
    last := last
    clear := ends || brk || (last && g.endsBranch)
    boundary := ends || brk || waits || (!last && Header.clr g.hdr)
    blocking := g.blocks
    taken := d.taken, remain := d.remain, target := d.target
    g := Vector.ofFn fun i => g.g.getD i.val 0
    h := g.h, loops := g.loops
    pendG := g.landings.filterMap fun l => match l.eff with | .gReg n _ => some (n, l.pc) | _ => none
    pendH := g.landings.filterMap fun l => match l.eff with | .hReg n _ => some (n, l.pc) | .hField n _ _ => some (n, l.pc) | _ => none
    handler := g.level
    reth := last && g.endsReth }

/-- The gang's members take an entry on its way. -/
def State.push (s : State) (g : Nat) (q : QItem) : State :=
  { s with seats := s.seats.map fun y => if y.gang == g then { y with transit := y.transit ++ [q] } else y }

/-- What stands before a member in its bundle queue: once the sequencer has left handler level, also the residue that
handler entry set aside, which returns to the queue with the RETH (R97, R98, R369, R371). -/
def Seat.ahead (x : Seat) (level : Bool) : List QItem :=
  x.queue ++ (if level then [] else (x.asideState.map (·.residue)).getD [])

/-- Issue cycles in a member's queue that it has not completed (R98). -/
def Seat.runAhead (x : Seat) (level : Bool) : Nat :=
  ((x.ahead level).map fun q => match q with | .exec i => Header.cycles i.hdr | _ => 0).foldl (· + ·) 0

/-- Bundles in a member's queue and on their way to it, which never pass 32 together (R97, R364; log entry 5: each repeat
of a bundle stands there as an execution of its own). -/
def Seat.bundles (x : Seat) (level : Bool) : Nat :=
  let opens (q : QItem) : Bool := match q with | .exec i => i.rep == 0 || i.first | _ => false
  let all := x.ahead level ++ x.transit
  (all.filter opens).length + (match all with | .exec i :: _ => if i.rep == 0 || i.first then 0 else 1 | _ => 0)

/-- Run-ahead allows a bundle of n issue cycles (R98). -/
def State.room (s : State) (g : Gang) (n : Nat) : Bool :=
  let lim := match g.stop with | .asked _ _ => Config.drainRunAhead | _ => Config.runAhead
  (s.seats.filter (·.gang == g.id)).all fun x =>
    x.bundles g.level < Config.queueBundles &&
      (if lim < n then (x.ahead g.level).isEmpty else x.runAhead g.level + n ≤ lim)

/-- The sequencer sends bundles (R107, R364). -/
def Gang.sends (g : Gang) : Bool :=
  (match g.stop with | .run | .asked _ _ => true | _ => false) && g.seqTrap.isNone && !g.waiting

/-- The first slot that issues at the sequencer: 2 for none. -/
def Gang.firstSlot (g : Gang) : Nat :=
  if g.rep == 0 && mentions g.words 0 seqCodes then 0 else if g.uni.issues g.rep then 1 else 2

/-- The execution at the sequencer begins: a CTL operation of the sequencer, then the UNI slot (R117). -/
def State.openSeq (s : State) (g : Gang) : State :=
  { s.putGang { g with flow := .seq } with cursor := some (.seqr g.id g.firstSlot { g with flow := .seq }) }

/-! ### Markers (R107, R364) -/

/-- A stop before a blocking bundle withdraws it: the position is before it, and it is sent again (R107). -/
def State.withdraw (s : State) (g : Gang) : State :=
  let keep (q : QItem) : Bool := match q with | .exec i => !(i.blocking && i.serial == g.serial) | _ => true
  if g.waiting then
    { s with seats := s.seats.map fun y =>
        if y.gang == g.id then { y with transit := y.transit.filter keep, queue := y.queue.filter keep } else y }
  else s

/-- A marker follows the last bundle sent; the bundle under way is fetched again when the stream goes on, and a read that waits
for its page is made again. -/
def State.mark (s : State) (g : Gang) (q : QItem) (stop : GangStop) : State :=
  ((s.withdraw g).putGang { g with stop := stop, waiting := false, reps := 0, held := none }).push g.id q

/-- Every member has begun, or nothing has been sent (R397). -/
def State.begun (s : State) (g : Gang) : Bool :=
  (g.serial == 0 && !g.waiting) || (s.seats.filter (·.gang == g.id)).all (·.started)

/-- A requested stop comes about at a boundary, outside handler level (R107, R370). -/
def State.stopAtEdge (s : State) (g : Gang) : State :=
  match g.stop with
  | .asked why _ =>
    if (g.edge || g.waiting) && (!g.level || stopEnds why) && s.begun g then
      s.mark { g with ext := false } .haltMark (.haltSent why)
    else s.putGang g
  | _ => s.putGang g

/-! ### Sending -/

/-- An execution goes out: a blocking bundle is sent and its sequencer operations wait for its completion (R100); a stop
that is pending comes about before it (R107). -/
def State.sendOut (s : State) (g : Gang) : State :=
  if g.blocks then
    let y := { g with waiting := true }
    ((s.putGang y).push g.id (.exec g.item)).stopAtEdge y
  else s.openSeq g

/-- The bundle that has been fetched stands at the position: its place in the code and that of the one behind it, header,
words and executions; at its first execution what stands in the slots (R56, R62). -/
def State.placed (s : State) (x : Gang) (h : Word32) : Gang :=
  let off := ((s.header x).map (·.1)).toOption
  { x.arrived with off := off, next := off.bind fun o => s.behind x o h }

def Gang.loaded (y : Gang) (h : Word32) (ws : Words) (n : Nat) : Gang :=
  { y with
    hdr := h, words := ws, reps := n, fresh := true
    standing := if y.rep = 0 || Header.clr h then standNext h ws y.rep y.standing else y.standing }

/-- BUNDLE_SEND (R97): the next execution of the bundle at the position, fetched and checked at its first. -/
def execBundleSend (g : Nat) (s : State) : Out :=
  eventOut s do
    let x0 ← s.gang? g
    if s.cursor.isSome || !x0.sends || !s.pageReady x0 then none
    let x := { x0.settle with held := none }
    if x.reps ≠ 0 then some (s.sendOut x)
    else
      match s.fetch x with
      | .error e => some (s.putGang (x.fetchStop e.1 e.2))
      | .ok (h, ws, n) =>
        let y := s.placed x h
        if n ≤ y.rep then
          let t := if y.endsIteration || y.endsBranch || y.endsReth then
              s.push g (.note (y.endsIteration || y.endsBranch) y.passEnds y.endsReth) else s
          some (t.stopAtEdge y.passOver)
        else if !s.room y ((n - y.rep) * Header.cycles h) then none
        else some (s.sendOut (y.loaded h ws n))

/-! ### The end of an execution at the sequencer -/

/-- The position moves on once the execution has been sent (R64, R102, R112, R119, R123, R127, R128). -/
def Gang.advance (y base : Gang) : Gang :=
  let it := base.item
  let x := { y with
    cycle := base.cycle + Header.cycles base.hdr, serial := base.serial + 1, waiting := false, votePend := none
    flow := .seq, edge := it.boundary, fresh := false }
  if !it.last then { x with rep := base.rep + 1 }
  else
    let z := { x with rep := 0, reps := 0, standing := standAfter it.clear base.standing }
    match y.flow with
    | .seq => z.onward base.pc
    | .goto p _ => { z with pc := p, off := none }
    | .branch d => { z with delay := some d, pc := base.pc + 1, off := y.next }
    | .halt => { z with stop := .ended }
    | .depth => z
    | .trap cause code =>
      { z.onward base.pc with seqTrap := (base.trapSeq (trapAt cause (BitVec.ofNat 64 code)) 0 base.pc).seqTrap }

/-- A member as it stands at a blocking bundle at its head, its due results landed. -/
def Seat.atHead (x : Seat) (i : Item) : Seat := { x.settle with cur := some i }

/-- The votes of the taking-part members, in member order (R106, R137). A member whose read of the register raises
UNDERSIZED_STALL (R69) votes with the register's previous value, so that the VOTE completes, and traps at the bundle
(DESIGN CHOICE, log entry 32). -/
def State.votesOf (s : State) (g : Gang) (a : RField) : List Word64 :=
  (s.seats.filter (·.gang == g.id)).filterMap fun x =>
    match x.queue with
    | .exec i :: _ => let y := x.atHead i; if y.suppressed then none else some (y.srcVal a)
    | _ => none

/-- VOTE's reduction; none taking part gives the identity (R106). -/
def voteResult (op : Nat) (vs : List Word64) : Word64 :=
  match op with
  | 0 => if vs.any (· != 0) then 1 else 0
  | 1 => if vs.all (· != 0) then 1 else 0
  | 2 => vs.foldl (· + ·) 0
  | 3 => vs.foldl minSigned 0x7FFFFFFFFFFFFFFF
  | _ => vs.foldl maxSigned 0x8000000000000000

/-- The vote register and G[d] take the result with latency 1 (R137). -/
def State.takeVote (s : State) (g : Gang) : Gang :=
  match g.votePend with
  | some (d, a, op) =>
    let v := voteResult op (s.votesOf g a)
    (g.land 1 1 (.vote v)).landG 1 1 d v
  | none => g

/-- The execution at the sequencer ends: members get it, or a blocking bundle's members go on; the position moves; a
HALT sends its marker. An LBRK of too many levels raises its fault now, after the other slots (R123). -/
def State.commitSeq (s : State) (g : Nat) (base : Gang) : State :=
  match s.gang? g with
  | none => { s with cursor := none }
  | some y =>
    if y.flow = .depth then { (s.putGang (base.trapSeq (trapAt 0x06 0) 0 base.pc)) with cursor := none }
    else
    let sent : State :=
      if base.waiting then
        { s with seats := s.seats.map fun x => if x.gang == g then { x with go := true } else x }
      else s.push g (.exec base.item)
    let z := (s.takeVote y).advance base
    let t : State := { sent with cursor := none }
    match z.stop with
    | .ended =>
      if z.asideState.isNone && y.asideState.isSome then t.putGang z else (t.putGang z).push g .haltMark
    | _ => t.stopAtEdge z

/-! ### Blocking bundles (R100) -/

/-- A landing is due whose remote data has not arrived: the tile freezes (R165). -/
def Seat.frozen (x : Seat) : Bool :=
  x.landings.any fun l => l.due ≤ x.cycle &&
    (match l.eff with
      | .remote e => x.remotes.any fun r => r.id == e && !r.arrived
      | _ => false)

/-- The wait of a blocking bundle. -/
def Item.wait (i : Item) : Option Instr :=
  match wordAt i.words 0 with
  | some (w, l) => if i.rep == 0 && blockCodes.contains (opOf w) then (decode .ctl w l).toOption else none
  | none => none

/-- The condition of a blocking bundle in a member (R100, R277); VOTE's is always true. -/
def Seat.condition (x : Seat) (i : Item) : Bool := match i.wait with | some op => x.waitHolds op | none => true

/-- A member that takes part and whose test of the bundle raises a trap: kind F, at the bundle (R69, R269, R277, R283). -/
def Seat.waitFault (x : Seat) (i : Item) : Option TrapInfo :=
  let y := x.atHead i
  if y.suppressed then none
  else match i.wait with
    | some op => match y.waitTest op with | .error e => some e | .ok _ => none
    | none => none

/-- The data of a read is an edge of an operand stream, which an acquire does not wait for (R281). -/
def RemoteEntry.isEdge (r : RemoteEntry) : Bool := match r.dst with | .aEdge _ | .bEdge _ => true | _ => false

/-- An acquire holds the bundle at the head, and any test of it: data of an earlier read is still on its way (R281). -/
def Seat.acqHolds (x : Seat) : Bool := x.sync.acq && x.remotes.any fun r => !r.arrived && !r.isEdge

/-- The member does not take part in the blocking bundle at its head, or its condition holds (R100, R104). -/
def Seat.passesWait (x : Seat) (i : Item) : Bool := (x.atHead i).suppressed || (x.atHead i).condition i

/-- A member has reached the blocking bundle and, where it takes part, its condition holds (R100, R104). -/
def Seat.waitsDone (x : Seat) (serial : Nat) : Bool :=
  x.run == .run && x.started &&
  (match x.queue with
    | .exec i :: _ => i.blocking && i.serial == serial && !x.frozen && !x.acqHolds && x.passesWait i
    | _ => false)

/-- The wait of a gang's blocking bundle is complete in every member (R100). -/
def State.waitComplete (s : State) (g serial : Nat) : Bool := (s.seats.filter (·.gang == g)).all (·.waitsDone serial)

/-- GANG_WAIT_COMPLETION: the blocking bundle completes for the gang as a whole, as its members tell the sequencer over the mesh
(R13, R388); its sequencer operations execute (R100). -/
def execGangWaitCompletion (g : Nat) (s : State) : Out :=
  eventOut s do
    let x ← s.gang? g
    if s.cursor.isSome || !x.waiting || x.seqTrap.isSome || !s.pageReady x then none
    if !s.waitComplete g x.serial || !((s.seats.filter (·.gang == g)).all fun y => s.meshUp y.die x.seqDie) then none
    some (s.openSeq { x.settle with held := none })

end Sys2Proof.Machine
end

