-- ==== Sys2Proof/Machine/Issue.lean ====
section
/-! DEFINITION. The tile: the issue slot, the beginning and the end of an execution in a seat, replays, landings, the
generator (R45, R62 to R65, R68, R89, R94 to R96, R165, R186 to R188, R208, R216, R219, R280, R297, R363, R380 to R383).
-/

namespace Sys2Proof.Machine

/-! ### The issue slot (R94, R95, R110) -/

/-- A seat's hold that a switch waits for: of an SC operation, of a full release queue, of the scoreboard (R108, R164,
R280, R297). -/
def State.keepsSlot (s : State) (y : Seat) : Bool :=
  y.sync.scNeed != 0 || s.scBusy y || (match y.held with | some h => h.2 == 0 | none => false)

/-- The seat may issue now: it holds the slot, the slot is free for it, or it drains and takes it, from any seat, once a
hold that a switch waits for has ended (R94, R110). Where no seat has held the slot yet, the round starts at seat 0
(DESIGN CHOICE, log entry 26). -/
def State.maySlot (s : State) (x : Seat) : Bool :=
  let tile := x.id / 4
  match s.holder tile with
  | some h => h == x.id || (s.draining x && !(s.seats.any fun y => y.id == h && s.keepsSlot y))
  | none => s.draining x || ((s.candidate tile (s.tile tile).after none).map (·.id)) == some x.id

/-- A YIELD that finds no other ready seat keeps the slot (R94). -/
def State.yieldSlot (s : State) (k : Nat) : State :=
  match s.candidate (k / 4) (k % 4) (some k) with
  | some y => s.giveSlot (k / 4) (some y.id)
  | none => s

/-! ### What lands before an execution (R68, R186, R208, R383) -/

/-- Pending FMT writes whose executions have passed take effect, in order (R186). -/
def Seat.applyFmt (x : Seat) : Seat :=
  let due := x.regs.fmtPend.filter (·.2 == 0)
  { x with regs := { x.regs with
      fmt := (due.getLast?.map (·.1)).getD x.regs.fmt, fmtPend := x.regs.fmtPend.filter (·.2 != 0) } }

/-- Every pending FMT write is due: a boundary, or a handler (R186). -/
def Seat.fmtDue (x : Seat) : Seat :=
  { x with regs := { x.regs with fmtPend := x.regs.fmtPend.map fun w => (w.1, 0) } }

/-- The armed flip: one stored bit of an entry, by physical row; ARM reads 0 again (R383). -/
def Seat.flipAcc (x : Seat) (v : Word64) : Seat :=
  let at' := 64 * (v.extractLsb' 16 6).toNat + (v.extractLsb' 10 6).toNat
  let bit : Acc72 := (1 : Acc72) <<< (v.extractLsb' 0 7).toNat
  let y := x.updBank (v.extractLsb' 22 2).toNat fun k => { k with entries := putAcc k.entries at' (lookupAcc k.entries at' ^^^ bit) }
  { y with sys := { y.sys with fiAcc := y.sys.fiAcc &&& ~~~(0x1000000 : Word64), fiPend := none } }

/-- Everything due by the seat's cycle lands; an armed flip follows the beats and clears of its cycle (R68, R208, R383,
R393). -/
def Seat.catchUp (x : Seat) : Seat :=
  match x.sys.fiPend with
  | some (v, d) => if d ≤ x.cycle then ((x.landWhere fun l => l.due ≤ d).flipAcc v).settle else x.settle
  | none => x.settle

/-! ### The steps of R62 and R63 -/

def Standing.step (o : Standing) (i : Nat) : Standing :=
  { o with acc := o.acc + BitVec.ofInt 32 (stepOf (Slot.ofNum i) o.word) }

/-- Standing operations and accumulators for the execution at the head; a bitmap loaded before governs from a bundle's
first execution on (R62, R63, R67, R215). -/
def Seat.prepare (x : Seat) (it : Item) : Seat :=
  let std :=
    if it.first then standNext it.hdr it.words it.rep x.standing
    else if Header.ns it.hdr then x.standing
    else Vector.ofFn fun i => (x.standing.getD i.val .nop).step i.val
  let y := x.applyFmt
  let opens := it.rep == 0
  let bits := if opens then y.mat.bitmapNext.getD y.mat.bitmap else y.mat.bitmap
  { y with
    standing := std, cur := some it, prepared := true
    mat := { y.mat with bitmap := bits, bitmapNext := if opens then none else y.mat.bitmapNext } }

/-- What handler entry set aside of a member returns (R371). -/
def Seat.unset (x : Seat) : Seat :=
  match x.asideState with
  | some a =>
    { x with
      standing := a.standing, skipDepth := a.skipDepth, skipLevel := a.skipLevel, queue := a.residue ++ x.queue
      go := a.go, prepared := a.prepared, asideState := none }
  | none => x

/-- The notes at the head of a queue take effect (R58, R64, R371). -/
def Seat.absorb (x : Seat) : List QItem → Seat
  | .note clear boundary reth :: q =>
    let y := if clear then { x with standing := standAfter true x.standing } else x
    let z := if boundary then y.fmtDue else y
    if reth then { z with queue := q }.unset else z.absorb q
  | q => { x with queue := q }

/-- BUNDLE_ARRIVAL: a bundle, a note or a marker reaches the member's queue, over the mesh from the sequencer's die pair (R13, R97,
R388). -/
def execBundleArrival (k : Nat) (s : State) : Out :=
  eventOut s do
    let x ← s.seat? k
    if !s.meshUp x.cfg.seqDie x.die then none
    match x.transit with
    | [] => none
    | q :: r =>
      let y : Seat := { x with transit := r }
      some (s.putSeat (if x.queue.isEmpty then y.absorb [q] else { y with queue := x.queue ++ [q] }))

/-- The execution at the head is over: one-shot operations and sticky state, and the queue (R63, R64, R371). -/
def Seat.finish (x : Seat) (it : Item) : Seat :=
  let y : Seat := { x with
    standing := if it.last then standAfter it.clear x.standing else x.standing
    queue := x.queue.tail, go := false, prepared := false, replayed := false, skinked := false, held := none
    sync := { x.sync with scNeed := 0, scStamps := [], scReady := none } }
  let z := if it.boundary then y.fmtDue else y
  if it.reth then z.unset else z.absorb z.queue

/-- A repeat at a dead position is passed over: kpos advances, nothing else happens (R216, R219). -/
def Seat.pass (x : Seat) (it : Item) : Seat :=
  (x.advanceK x.regs.fmt (kSpan x.regs.fmt (opOf (x.standing.getD 5 .nop).word == 4))).finish it

/-! ### What an execution issues -/

/-- The repeat index of the execution under way. -/
def Seat.rep (x : Seat) : Nat := (x.cur.map (·.rep)).getD 0

/-- Slot i issues an operation in the seat: tile slots, and the CTL operations of the tile (R54, R63, R66). -/
def Seat.executes (x : Seat) (i : Nat) : Bool :=
  let o := x.standing.getD i .nop
  o.issues x.rep && i != 1 && !(i == 0 && seqCodes.contains (opOf o.word))

/-- The first slot from i on that issues; 8 for none. -/
def Seat.slotFrom (x : Seat) (i : Nat) : Nat := ((List.range 8).find? fun j => i ≤ j && x.executes j).getD 8

/-- The operation that slot i issues. -/
def Seat.issuedOp (x : Seat) (i : Nat) : Option Instr :=
  let o := x.standing.getD i .nop
  if o.issues x.rep then (decode (Slot.ofNum i) o.word o.lit).toOption else none

/-- The predicate of an operation as the execution reads it. -/
def Seat.holds (x : Seat) (p : BitVec 4) : Bool := match x.predField p with | .ok v => v | .error _ => false

/-- Stamps that the execution needs before it issues: that of its first sequentially consistent operation; a SENDO that follows
another is stamped once that one is performed (R286, R295, R297). -/
def Seat.scWanted (x : Seat) : Nat :=
  if x.suppressed || x.sync.wheelCnt == 0 then 0
  else
    let adr := match x.issuedOp 2 with
      | some (.amor t _ _ sc _ _ _) => sc == 1 && x.holds t.p
      | some (.ljoinSc t _ _ _ _) => x.holds t.p
      | _ => false
    let xfr := match x.issuedOp 7 with
      | some (.sendo t _ _ sa _ _) => x.holds t.p && (x.srcVal (sa + 1)).getLsbD 63
      | _ => false
    if adr || xfr then 1 else 0

/-- The first decode fault of slots 2 to 7, with its slot; also in a skipping seat (R87, R89). -/
def Item.decodeFault (it : Item) : Option (Nat × Nat) :=
  [2, 3, 4, 5, 6, 7].findSome? fun i => (wordFault (Slot.ofNum i) it.words).map fun c => (c, i)

/-- A member's read of a VOTE (R137). -/
def Seat.voteFault (x : Seat) : Option TrapInfo :=
  if x.suppressed then none
  else
    match x.issuedOp 1 with
    | some (.vote _ _ a _) => match x.src a with | .error e => some e | .ok _ => none
    | _ => none

/-- A retired command is awaited within eight cycles of its CPYK (R249). -/
def Seat.killsDue (x : Seat) : Bool := x.copy.kills.any fun k => k.2.2.2 + 8 ≤ x.cycle

/-- The gang of a seat is being halted (R107, R403). -/
def State.halting (s : State) (x : Seat) : Bool :=
  match s.gang? x.gang with
  | some g => (match g.stop with | .asked _ _ | .haltSent _ | .trapSent (some _) _ => true | _ => false)
  | none => false

/-- A throttle notice is delivered before the next execution, outside handler level; one that stands while the gang is being
halted is saved with the seat (R399, R403). -/
def State.noticeDue (s : State) (x : Seat) (it : Item) : Bool :=
  x.sync.scNeed == 0 && x.sys.thrstat.getLsbD 0 && !it.handler && !s.halting x

/-- A cause that a command of the seat raised when it ended in a fault: the wait for a release ends with it (R248). -/
def Seat.commandCause (x : Seat) (f : Frame) : Bool :=
  x.copy.cmds.any fun m => match m.fault with
    | some (c, a) => f.cause.toNat % 256 == c && f.f1 == BitVec.ofNat 64 a && f.f0.toNat / 2 ^ 32 == m.pc % 2 ^ 24
    | none => false

/-- The latched cause that stops the seat next: the oldest; while the seat is in the hold of an operation whose execution
has begun, only one of a command that the hold waits for (R248, R297, R363). -/
def Seat.nextCause (x : Seat) : Option Frame :=
  if x.sync.scNeed = 0 then x.sys.latched.head? else x.sys.latched.find? x.commandCause

/-- What keeps the seat from beginning the execution at its head (R159, R165, R249, R281, R297, R363). -/
def State.heldBack (s : State) (x : Seat) (it : Item) : Bool :=
  x.nextCause.isSome || s.noticeDue x it || x.killsDue || s.scBusy x || x.frozen || x.acqHolds

/-- An armed FI_LATCH flags the execution: it is squashed and reissued, outside the margin window (R383). -/
def State.fireLatch (s : State) (x : Seat) (it : Item) : State × Seat :=
  let v := x.sys.fiLatch
  if v.getLsbD 31 && (v.extractLsb' 0 24).toNat == it.pc && !x.replayed then
    let t := s.tile (x.id / 4)
    (s.putTile { t with timing := t.timing + 1, repl := t.repl + 1 },
      { x with replayed := true, sys := { x.sys with fiLatch := v &&& ~~~(0x80000000 : Word64) } })
  else (s, x)

/-- The execution opens: its slots follow one by one. -/
def State.openSeat (s : State) (x : Seat) : State :=
  { s.putSeat x with cursor := some (.seat x.id (x.slotFrom 0) x) }

/-- The execution of a prepared seat: an armed latch flags it first (R383); then decode faults, the member's vote read,
the hold for stamps, then the slots. -/
def State.launchExec (s : State) (x : Seat) (it : Item) : Option State :=
  let f := s.fireLatch x it
  match (if it.first then it.decodeFault else none) with
  | some (c, slot) => some (f.1.stopSeat (f.2.trapF (trapAt c 0) slot))
  | none =>
    match f.2.voteFault with
    | some e => some (f.1.stopSeat (f.2.trapF e 1))
    | none =>
      let n := x.scWanted
      if x.sync.scStamps.length < n then
        if x.sync.scNeed = n then none
        else
          let r : Release := { scope := 4, below := s.serial, cycle := x.cycle }
          some (f.1.putSeat { f.2 with sync := { x.sync with
            scNeed := n, scReady := none, scStamps := [], relq := x.sync.relq ++ [.release r] } })
      else some (f.1.openSeat f.2)

/-- A seat at a blocking bundle whose wait is not complete: the trap of its test, or else it gives up the slot (R94,
R100). The test's trap comes before a decode fault of slots 2 to 7 of that bundle, which are decoded once the wait is
complete (DESIGN CHOICE, log entry 32). -/
def State.awaitGang (s : State) (x : Seat) (it : Item) : Option State :=
  if x.acqHolds || x.frozen || x.nextCause.isSome then none
  else match x.waitFault it with
    | some e => some (s.stopSeat ({ x.catchUp with cur := some it }.trapF e 0))
    | none => if s.holder (x.id / 4) == some x.id && !s.waitComplete x.gang it.serial then some (s.passSlot x.id) else none

/-- The execution at the head of a seat's queue begins; first: the first execution of its bundle. A YIELD that an SC
operation's hold kept waiting comes first (R297). A seat that executes a completed wait once more, after a handler, tests
its condition again (R277). A repeat at a dead position is passed over (R67, R216). -/
def State.beginExec (s : State) (k : Nat) (first : Bool) : Option State := do
  let x ← s.seat? k
  if s.cursor.isSome || x.run != .run || !x.started || s.scBusy x then none
  match x.queue with
  | .exec it :: _ =>
    if it.first != first then none
    else if x.yields then some ((s.putSeat { x with yields := false }).yieldSlot k)
    else if it.blocking && !(x.go && x.passesWait it) then s.awaitGang x it
    else if s.heldBack x it || !s.maySlot x then none
    else
      let t := s.giveSlot (k / 4) (some k)
      let y := { x.catchUp with cur := some it, sync := { x.catchUp.sync with acq := false } }
      let z := if y.prepared then y else y.prepare it
      if it.rep != 0 && z.dead then some (t.putSeat (z.pass it)) else t.launchExec z it
  | _ => none

/-- BUNDLE_EXECUTION (R62). -/
def execBundleExecution (k : Nat) (s : State) : Out := eventOut s (s.beginExec k true)

/-- REPEAT_EXECUTION (R63). -/
def execRepeatExecution (k : Nat) (s : State) : Out := eventOut s (s.beginExec k false)

/-! ### The end of an execution in a seat -/

/-- The open execution's messages take their serial numbers, in slot order, and go, or wait behind a pending release (R280).
-/
def State.emit (s : State) (x : Seat) : State × Seat :=
  let ms := x.outbox.zipIdx.map fun m => { m.1 with serial := s.serial + m.2 }
  let waits (m : Msg) : Bool := m.body.publishes && x.releasePending
  let y : Seat := { x with
    outbox := [], sync := { x.sync with relq := x.sync.relq ++ (ms.filter waits).map Deferred.msg } }
  (({ s with serial := s.serial + ms.length } : State).sendAll (ms.filter fun m => !waits m), y)

/-- The rank table of a collective of the seat names a peer device, as far as it stands in memory now (R256, R391). -/
def State.namesPeer (s : State) (x : Seat) (p : Cmd → Bool) : Bool :=
  (x.copy.cmds.filter fun m => p m && m.op.collective).any fun m =>
    (List.range m.ranksN).any fun i =>
      match s.readNat (chanMaster x.id m.ch) (shapeBase m.snap + 8 * i) 8 with
      | .ok e => !s.here e
      | .error _ => false

/-- LINC, CPYR, AMOR, SENDO, or A2AV, ARED or AGTH with a peer rank, issued by the execution, after which the task is not rerun
(R391). -/
def State.ties (s : State) (x : Seat) : Bool :=
  !x.suppressed &&
  ((match x.issuedOp 2 with
    | some (.linc t ..) | some (.amor t ..) => x.holds t.p
    | _ => false) ||
   (match x.issuedOp 7 with
    | some (.cpyr t ..) | some (.sendo t ..) => x.holds t.p
    | _ => false) ||
   s.namesPeer x fun m => m.serial == x.cycle)

/-- The predicate field of an operation that accesses memory or gives a command (R154 to R176, R205, R209, R239, R310). -/
def Instr.access : Instr → Option (BitVec 4)
  | .ld t .. | .st t .. | .ldr t .. | .str t .. | .amo t .. | .amor t .. | .ljoin t .. | .ljoinSc t .. | .lstm t .. | .linc t ..
  | .lld t .. | .lwait t .. | .vld t .. | .vst t .. | .vlds t .. | .vsts t .. | .vgth t .. | .vsct t .. | .vldr t .. | .vstr t ..
  | .vldx t .. | .vtrp t .. | .mdrain t .. | .mbmap t .. | .mfix t .. | .xlds t ..
  | .cpyi t .. | .cpyo t .. | .cpys t .. | .cpyx t .. | .cpyr t .. | .cpyl t .. | .rrot t .. | .mcst t .. | .route t .. | .a2av t ..
  | .ared t .. | .agth t .. | .sendo t .. => some t.p
  | .mpush t _ _ kind .. => if kind = 3 then none else some t.p
  | .mshift t _ _ _ be hb sv bv _ => if sv = 0 ∨ (be = 1 ∧ hb = 0 ∧ bv = 0) then some t.p else none
  | .macc t _ _ _ ha hb av bv _ | .macs t _ _ _ ha hb av bv _ =>
    if (ha = 0 ∧ av = 0) ∨ (hb = 0 ∧ bv = 0) then some t.p else none
  | _ => none

/-- The execution issues an access or a command, which begins a drain anew (R283). -/
def Seat.accesses (x : Seat) : Bool :=
  !x.suppressed && [2, 4, 5, 6, 7].any fun i => ((x.issuedOp i).bind Instr.access).any x.holds

/-- The execution commits: its messages go, the cycle counts its issue cycles, the queue moves on, a trap of kind S
stops the seat after it, a YIELD offers the slot, once the hold of an SC operation has ended (R63, R68, R94, R186, R297,
R363). -/
def State.commitSeat (s : State) (k : Nat) : State :=
  match s.seat? k with
  | none => { s with cursor := none }
  | some x =>
    match x.cur with
    | none => { s with cursor := none }
    | some it =>
      let e := s.emit x
      let y : Seat := { e.2 with
        cycle := x.cycle + Header.cycles it.hdr, after := none, yields := x.yields && e.1.scBusy e.2, tied := x.tied || s.ties x
        sync := { e.2.sync with fscDrain := if x.accesses || !e.1.drained e.2 then none else e.2.sync.fscDrain }
        regs := { e.2.regs with fmtPend := e.2.regs.fmtPend.map fun w => (w.1, w.2 - 1) } }
      let z := y.finish it
      let w := match x.after with
        | some (t, slot) => z.stopWith (it.frame t slot it.pc false)
        | none => z
      let t := e.1.tile (k / 4)
      let s1 := { ((e.1.putTile { t with window := t.window + 1, execs := t.execs + 1 }).stopSeat w) with cursor := none }
      if x.yields && !y.yields then s1.yieldSlot k else s1

/-! ### Replays (R188, R380, R381) -/

/-- The skinks check the vector operation of the execution: it writes an active element, and VRED writes element 0 alone (R183,
R188). -/
def Seat.skinks (x : Seat) : Bool :=
  let float := 8 ≤ Fmt.vt x.regs.fmt && Fmt.vt x.regs.fmt ≤ 0xD
  !x.suppressed &&
  (match x.issuedOp 3 with
    | some (.vadd t ..) | some (.vsub t ..) | some (.vmul t ..) => float && x.holds t.p
    | some (.vfma t ..) | some (.vfms t ..) | some (.vmin t ..) | some (.vmax t ..) => float && x.holds t.p
    | some (.vred t ..) => float && x.holds t.p && x.mt.getLsbD 0
    | some (.vscan t ..) | some (.vrcp t ..) | some (.vrsq t ..) => float && x.holds t.p
    | some (.vexp2 t ..) | some (.vlog2 t ..) | some (.vact t ..) => float && x.holds t.p
    | some (.vcvt t _ _ lit) => 8 ≤ (lit.extractLsb' 4 4).toNat && (lit.extractLsb' 4 4).toNat ≤ 0xD && x.holds t.p
    | _ => false) &&
  x.mt != 0

/-- The element code of the result that the skinks check: VT, or the destination of VCVT (R188). -/
def Seat.skinkCode (x : Seat) : Nat :=
  match x.issuedOp 3 with
  | some (.vcvt _ _ _ lit) => (lit.extractLsb' 4 4).toNat
  | _ => Fmt.vt x.regs.fmt

/-- The key of a format: its lowest bit and its number of bits, below the sign (R188). -/
def skinkKey : Nat → Option (Nat × Nat)
  | 0xC => some (15, 16)
  | 0xB => some (3, 12)
  | 0xA => some (0, 15)
  | 8 => some (0, 7)
  | 9 => some (0, 7)
  | _ => none

def nanBits (code bits : Nat) : Bool :=
  match elemOf code with
  | .float f => (decodeFloat f bits).isNan
  | _ => false

/-- The result of the vector unit and that of its skink disagree: in sign, in exactly one being NaN, or by more than 1 in their
keys (R188). -/
def skinkDisagrees (code a b : Nat) : Bool :=
  match skinkKey code with
  | none => false
  | some (lo, n) =>
    let key (v : Nat) : Nat := v / 2 ^ lo % 2 ^ n
    a / 2 ^ (lo + n) % 2 != b / 2 ^ (lo + n) % 2 || nanBits code a != nanBits code b ||
      key a + 1 < key b || key b + 1 < key a

/-- The squashed execution is issued again from its first attempt's state (R65, R380). -/
def State.reissue (s : State) (x : Seat) : State := s.openSeat x

/-- TIMING_REPLAY: at its commit stage an execution is squashed and reissued, once by the shadow latches and once by the
skinks; a second disagreement raises SDC_VECTOR (R188, R380 to R382). -/
def execTimingReplay (k : Nat) (why : ReplayWhy) (s : State) : Out :=
  eventOut s (
    match s.cursor with
    | some (.seat j slot base) =>
      if j ≠ k ∨ slot < 8 then none
      else
        let t := s.tile (k / 4)
        match why with
        | .timing =>
          if base.replayed then none
          else some ((s.putTile { t with timing := t.timing + 1, late := t.late + 1, repl := t.repl + 1 }).reissue { base with replayed := true })
        | .skink u v =>
          if !base.skinks || !skinkDisagrees base.skinkCode u v then none
          else if base.skinked then some (s.takeTrap base (trapAt 0x19 0) 3)
          else some ((s.putTile { t with skink := t.skink + 1, sknk := t.sknk + 1 }).reissue { base with replayed := true, skinked := true })
    | _ => none)

/-! ### Landings as steps of their own (R59, R68, R208, R219) -/

/-- The oldest due landing of a seat takes effect where it is of a kind. -/
def State.landFirst (s : State) (k : Nat) (p : Land → Bool) : Option State := do
  let x ← s.seat? k
  match x.landings with
  | l :: r =>
    let flip := match x.sys.fiPend with | some (_, d) => d < l.due | none => false
    if s.cursor.isSome || x.cycle < l.due || flip || x.frozen || !p (x.target l) then none
    else some (s.putSeat ({ x with landings := r }.landOne l))
  | [] => none

/-- The seat does not issue, for a reason other than a want of bundles: it has stopped, another seat has its tile's slot,
it is held, or its gang's wait has not ended. -/
def State.standsStill (s : State) (x : Seat) : Bool :=
  x.run != .run || x.sync.scNeed != 0 || x.sync.acq || x.held.isSome ||
  (match s.holder (x.id / 4) with | some h => h != x.id | none => false) ||
  (match x.queue with
    | .exec i :: _ => i.blocking && !x.go && !s.waitComplete x.gang i.serial
    | _ => false)

/-- The seat has stopped in a gang that is to be saved or ends: no handler runs any more. -/
def State.leaves (s : State) (x : Seat) : Bool :=
  x.run != .run &&
  (match s.gang? x.gang with
    | some g => (match g.stop with | .haltSent _ | .ended | .failed _ | .done _ _ => true | _ => false)
    | none => true)

/-- The data of a remote read has come. -/
def Seat.hasData (x : Seat) (l : Landing) : Bool :=
  match l.eff with
  | .remote e => x.remotes.all fun r => r.id != e || r.arrived
  | _ => true

/-- A pad write in flight that something waits for while the seat issues nothing: a release or an FSC, a command or a deposit that
follows it, the arrival of its own operation, the end or the save of a gang that has halted (leaves; R59, R163, R208, R279, R283;
DEDUCED, log entry 13). A trap handler still finds it in flight (R208). -/
def Seat.padAwaited (x : Seat) (leaves : Bool) (l : Landing) : Bool :=
  x.atFsc || leaves ||
  (x.sync.relq.any fun d => match d with | .release r => l.issued < r.cycle | _ => false) ||
  (x.copy.cmds.any fun m => !m.started && m.fault.isNone && l.issued ≤ m.serial && !x.scoreClear m) ||
  (x.copy.waits.any fun w => w.deposit.isSome && l.issued < w.cycle) ||
  (x.landings.any fun m => m.issued == l.issued && m.slot == l.slot && match m.eff with | .arrive _ => true | _ => false)

/-- What a seat that does not issue has in flight retires all the same where something waits for it: pad writes, then arrivals
(R59; log entry 13), and, where it has given up the slot or halted, remote reads as soon as their data is there (R165). -/
def State.landStill (s : State) (k : Nat) (p : Land → Bool) : Option State := do
  let x ← s.seat? k
  if s.cursor.isSome || !s.standsStill x then none
  let gone := x.run != .run || (match s.holder (k / 4) with | some h => h != k | none => false)
  let l ← x.landings.find? fun l => p l.eff &&
    (match l.eff with
      | .pad _ _ => x.padAwaited (s.leaves x) l
      | .arrive _ => x.landings.all fun m => m.issued != l.issued || m.slot != l.slot || (x.hasData m && !isPad m.eff)
      | .remote _ => gone && x.hasData l
      | _ => false)
  some (s.putSeat ({ x with landings := x.landings.erase l }.landOne l))

/-- RESULT_LANDING: a register, edge or pad write (R68). -/
def execResultLanding (k : Nat) (s : State) : Out :=
  eventOut s ((s.landFirst k fun e => match e with
    | .sReg _ _ | .pReg _ _ | .vReg _ _ _ | .aEdge _ | .bEdge _ | .pad _ _ | .remote _ => true
    | _ => false).or (s.landStill k fun e => match e with | .pad _ _ | .remote _ => true | _ => false))

/-- BEAT_ACCUMULATION: a beat, in order with the clears and checks of its bank (R208). -/
def execBeatAccumulation (k : Nat) (s : State) : Out :=
  eventOut s (s.landFirst k fun e => match e with
    | .beat _ | .clearBank _ | .check _ _ => true
    | _ => false)

/-- SCALE_EDGE_JOIN (R219). -/
def execScaleEdgeJoin (k : Nat) (s : State) : Out :=
  eventOut s (s.landFirst k fun e => match e with | .scale _ _ => true | _ => false)

/-- ARRIVE_ON_RETIRE (R59, R271). -/
def execArriveOnRetire (k : Nat) (s : State) : Out :=
  let p (e : Land) : Bool := match e with | .arrive _ => true | _ => false
  eventOut s ((s.landFirst k p).or (s.landStill k p))

/-- FMT_WRITE_EFFECT (R186). -/
def execFmtWriteEffect (k : Nat) (s : State) : Out :=
  eventOut s do
    let x ← s.seat? k
    if s.cursor.isSome || x.prepared || !(x.regs.fmtPend.any (·.2 == 0)) then none
    some (s.putSeat x.applyFmt)

/-- FI_ACC_FLIP (R383). -/
def execFiAccFlip (k : Nat) (s : State) : Out :=
  eventOut s do
    let x ← s.seat? k
    let (v, d) ← x.sys.fiPend
    if s.cursor.isSome || x.cycle < d || x.landings.any (·.due ≤ d) then none
    some (s.putSeat (x.flipAcc v))

/-! ### The generator (R45, R187, R267) -/

/-- mix64 (R267). -/
def mix64 (x : Word64) : Word64 :=
  let a := x + 0x9E3779B97F4A7C15
  let b := (a ^^^ (a >>> 30)) * 0xBF58476D1CE4E5B9
  let c := (b ^^^ (b >>> 27)) * 0x94D049BB133111EB
  c ^^^ (c >>> 31)

/-- word(n) of the generator (R267). -/
def genWord (seed n : Word64) : BitVec 512 :=
  (List.range 8).foldl (fun w i =>
    w ||| ((mix64 (seed + (8 * n + BitVec.ofNat 64 i) * 0x9E3779B97F4A7C15)).setWidth 512 <<< (64 * i))) 0

/-- GENERATOR_WORD (R45, R187). -/
def execGeneratorWord (k : Nat) (s : State) : Out :=
  eventOut s do
    let x ← s.seat? k
    if s.cursor.isSome || 16 ≤ x.regs.rbq.length then none
    some (s.putSeat { x with regs := { x.regs with
      rbq := x.regs.rbq ++ [genWord x.regs.seed x.regs.genN], genN := x.regs.genN + 1 } })

/-! ### The slot under way -/

/-- The word and literal of the slot that the open execution issues next. -/
def Cursor.word : Cursor → Slot × Word32 × Word32
  | .seat _ slot base => let o := base.standing.getD slot .nop; (Slot.ofNum slot, o.word, o.lit)
  | .seqr _ 0 base => let w := (wordAt base.words 0).getD (0, 0); (.ctl, w.1, w.2)
  | .seqr _ _ base => (.uni, base.uni.word, base.uni.lit)

/-- The slot that follows in the open execution. -/
def Cursor.next : Cursor → Cursor
  | .seat k slot base => .seat k (base.slotFrom (slot + 1)) base
  | .seqr g 0 base => .seqr g (if base.uni.issues base.rep then 1 else 2) base
  | .seqr g _ base => .seqr g 2 base

/-- Every slot has executed. -/
def Cursor.done : Cursor → Bool
  | .seat _ slot _ => 8 ≤ slot
  | .seqr _ slot _ => 2 ≤ slot

/-- The cursor moves past the slot that has executed; a trap has closed it already. -/
def State.pastSlot (s : State) : State := { s with cursor := s.cursor.map Cursor.next }

/-- The open execution commits. -/
def State.commit (s : State) : State :=
  match s.cursor with
  | some (.seat k _ _) => s.commitSeat k
  | some (.seqr g _ base) => s.commitSeq g base
  | none => s

end Sys2Proof.Machine
end

