-- ==== Sys2Proof/Machine/Stop.lean ====
section
/-! DEFINITION. Stopping a gang: pre-emption, the forced halt, the monitor, traps with their frames and handlers
(R96, R107 to R111, R127 to R130, R363 to R372, R379, R399). -/

namespace Sys2Proof.Machine

/-! ### Requests (R96, R107, R109, R111, R397) -/

/-- A later reason overrides an earlier one only where it ends the task (R111, R377). -/
def stopRank : StopWhy → Nat
  | .preempt | .fence => 0
  | .thermal => 1
  | .cancel => 2
  | .monitor => 3
  | .kill => 4

/-- A stop is requested: at once at a boundary or before an incomplete blocking bundle, else at the next boundary; a
second request has no further effect (R107, R111). One that comes before the sequencer starts halts the gang at bundle 0 (R397).
While the members drain to a HALT, only the monitor and the refusal of
a page can still end the task; HALT's marker serves them (R96, R330). -/
def State.request (s : State) (g : Nat) (why : StopWhy) : Option State := do
  let x ← s.gang? g
  match x.stop with
  | .run => some (s.stopAtEdge { x with stop := .asked why s.chorus })
  | .asked w t => if stopRank w < stopRank why then some (s.stopAtEdge { x with stop := .asked why t }) else none
  | .haltSent w => if stopRank w < stopRank why then some (s.putGang { x with stop := .haltSent why }) else none
  | .trapSent w e =>
    match w with
    | some v => if stopRank v < stopRank why then some (s.putGang { x with stop := .trapSent (some why) e }) else none
    | none => some (s.putGang { x with stop := .trapSent (some why) e })
  | .ended => if why = .monitor ∨ why = .kill then some (s.putGang { x with stop := .haltSent why }) else none
  | .allotted w =>
    if w.all fun v => stopRank v < stopRank why then some (s.putGang { x with stop := .allotted (some why) }) else none
  | _ => none

/-- PREEMPTION_REQUEST (R107); during a take-over nothing is pre-empted for priority (R361). -/
def execPreemptionRequest (g : Nat) (why : StopWhy) (s : State) : Out :=
  eventOut s (if s.cursor.isSome || (why == .preempt && !s.schedUp) then none else s.request g why)

/-- FORCED_HALT: 80 ns after the request, counted from when every member has begun (R109, R397). -/
def execForcedHalt (g : Nat) (s : State) : Out :=
  eventOut s do
    let x ← s.gang? g
    match x.stop with
    | .asked why t =>
      if s.cursor.isSome || s.chorus < t + 80 || !s.begun x || (x.level && !stopEnds why) then none
      else
        let cut := !(x.edge || x.waiting)
        some (s.mark { x with forced := x.forced || cut, ext := cut } .haltMark (.haltSent why))
    | _ => none

/-- Another seat of the tile is ready with a priority equal or higher: the monitor counts (R96). -/
def State.contended (s : State) (x : Seat) : Bool :=
  s.holder (x.id / 4) == some x.id &&
  s.seats.any fun y => y.id / 4 == x.id / 4 && y.id != x.id && y.ready && x.prio ≤ y.prio

/-- Chorus time passes: the monitors count it (R96). -/
def State.tick (s : State) (t : Nat) : State :=
  if t ≤ s.chorus then s
  else
    { s with
      chorus := t
      seats := s.seats.map fun x =>
        if s.contended x then { x with sys := { x.sys with monCount := x.sys.monCount + (t - s.chorus) } } else x }

/-- MONITOR: the count has reached MONLIMIT, in microseconds; the gang is halted as at pre-emption (R96). -/
def execMonitor (k : Nat) (s : State) : Out :=
  eventOut s do
    let x ← s.seat? k
    if s.cursor.isSome || x.sys.monlimit == 0 || x.sys.monCount < 1000 * x.sys.monlimit.toNat then none
    s.request x.gang .monitor

/-! ### Members reach the marker (R107, R364) -/

/-- A SENDO that still waits for its stamp when a fault ends the hold: it is not stamped and not performed, and leaves its channel
(R297; DESIGN CHOICE, log entry 32, for one that follows another SC operation of its bundle). -/
def Seat.dropUnstamped (x : Seat) : Seat :=
  (x.copy.cmds.filter Cmd.lacksStamp).foldl (fun y m =>
    let z := y.discharge m m.owed
    ({ z with copy := { z.copy with cmds := z.copy.cmds.filter (·.serial != m.serial) } } : Seat).syncW m.ch) x

/-- What a seat drops when it stops: the holds of the execution it has not begun. -/
def Seat.dropHolds (x : Seat) : Seat :=
  let y := x.dropUnstamped
  { y with
    held := none, yields := false
    sync := { y.sync with scNeed := 0, scStamps := [], scReady := none, fscDrain := none } }

/-- MEMBER_HALT: the seat has executed everything before the marker, and the hold of its last SC operation has ended (R107, R297).
-/
def execMemberHalt (k : Nat) (s : State) : Out :=
  eventOut s do
    let x ← s.seat? k
    if s.cursor.isSome || x.run != .run || s.scBusy x then none
    match x.queue with
    | .haltMark :: q | .trapMark :: q => some (s.stopSeat { x.dropHolds with run := .marked, queue := q })
    | _ => none

/-- TRAP_REPORT: the sequencer finds its own fault or receives the first report, and sends the trap marker; a halt
marker that is out already serves. On a member's report it stops after the bundle that it is sending, with all its
repeats; a trap of its own limits them (R111, R364, R432). A read that waits for its page is given up: it is made again when the
stream goes on (R56, R141). -/
def execTrapReport (g : Nat) (s : State) : Out :=
  eventOut s do
    let x ← s.gang? g
    if s.cursor.isSome || !(x.seqTrap.isSome || (s.seats.any fun y => y.gang == g && y.run == .trapped && s.meshUp y.die x.seqDie)) then none
    if x.seqTrap.isNone && x.sends && x.reps ≠ 0 && x.rep ≠ 0 then none
    let y := { x with held := none }
    match x.stop with
    | .run => some (s.mark { y with ext := false } .trapMark (.trapSent none false))
    | .asked why _ => some (s.mark { y with ext := false } .trapMark (.trapSent (some why) false))
    | .haltSent why => some (s.putGang { y with stop := .trapSent (some why) false, ext := false })
    | .ended => some (s.putGang { y with stop := .trapSent none true })
    | _ => none

/-! ### Asynchronous causes and notices (R127, R363, R365, R399) -/

/-- A latched frame completed by the execution at which it is reported (R363, R367). -/
def Frame.report (f : Frame) (it : Item) : Frame :=
  { f with
    cause := f.cause ||| (if it.handler then 0x8000 else 0)
    f0 := f.f0 ||| BitVec.ofNat 64 (it.pc % 2 ^ 24)
    f2 := frame2 it.taken it.remain it.target it.rep }

/-- The seat is at the beginning of an execution or in an incomplete wait. -/
def State.mayReport (s : State) (x : Seat) (it : Item) : Bool := (it.blocking && !x.go) || s.maySlot x

/-- ASYNC_CAUSE_DELIVERY: the oldest latched cause stops the seat before its next execution or in its wait; after HALT
it is raised at the HALT bundle, and no handler is entered (R127, R363, R365). -/
def execAsyncCauseDelivery (k : Nat) (s : State) : Out :=
  eventOut s do
    let x ← s.seat? k
    let g ← s.gang? x.gang
    match x.nextCause with
    | some f =>
      let y := { x.dropHolds with sys := { x.sys with latched := x.sys.latched.erase f } }
      match x.queue with
      | .exec it :: _ =>
        if s.cursor.isSome || x.run != .run || !x.started || !s.mayReport x it then none
        else some (s.stopSeat ({ y with cur := some it }.stopWith (f.report it)))
      | _ =>
        if s.cursor.isSome || x.run != .marked || g.stop != .ended then none
        else
          let h : Frame := { f with
            cause := f.cause ||| (if g.level then 0xA000 else 0x2000), f0 := f.f0 ||| BitVec.ofNat 64 (g.pc % 2 ^ 24) }
          some ((s.putSeat { y with sys := { y.sys with frame := h } }).putGang
            { g with stop := .failed (f.cause.toNat % 256), lead := some (f.cause.toNat % 256) })
    | none => none

/-- THROTTLE_NOTICE_DELIVERY: when the seat next issues, not in a wait, a THERMAL trap of kind N where a handler is
installed; else the notice is discarded. PEND clears (R363, R366, R399, R403). -/
def execThrottleNoticeDelivery (k : Nat) (s : State) : Out :=
  eventOut s do
    let x ← s.seat? k
    let g ← s.gang? x.gang
    match x.queue with
    | .exec it :: _ =>
      if s.cursor.isSome || x.run != .run || !x.started || !s.noticeDue x it || !x.sys.latched.isEmpty || !s.maySlot x ||
          (it.blocking && !(x.go && x.passesWait it)) then
        none
      else
        let y := { x with sys := { x.sys with thrstat := x.sys.thrstat &&& ~~~(1 : Word64) } }
        if g.handlers.any (·.1 == 0x1F) then
          some (s.stopSeat ({ y.dropHolds with cur := some it }.stopWith (it.frame (trapAt 0x1F 0) 0 it.pc false)))
        else some (s.putSeat y)
    | _ => none

/-! ### The leading trap and handler level (R364, R367, R369, R372) -/

/-- The place of a stopping execution's bundle in the order in which bundles were sent. -/
def Item.place (it : Item) : Int := (it.serial : Int) - it.rep

/-- A trap of kind S at the sequencer: TRAP or BRK (R366). -/
def Frame.after (f : Frame) : Bool := f.cause.toNat % 256 == 0x1C || f.cause.toNat % 256 == 0x1D

/-- The place of the sequencer's own trap: TRAP and BRK have been passed already (R128). -/
def Gang.trapPlace (g : Gang) : Int :=
  match g.seqTrap with
  | some f => if f.after then (g.serial : Int) - 1 else (g.serial : Int) - g.rep
  | none => 0

/-- A trap before another: its bundle first, then e, then m (R364). -/
def Seat.leads (x y : Seat) : Bool :=
  let p (z : Seat) : Int := (z.cur.map Item.place).getD 0
  p x < p y || (p x == p y && (x.e < y.e || (x.e == y.e && x.m < y.m)))

/-- The member whose trap leads those of the members (R364). -/
def State.leadSeat (s : State) (g : Nat) : Option Seat :=
  (s.seats.filter fun y => y.gang == g && y.run == .trapped).foldl
    (fun o y => match o with
      | none => some y
      | some b => if y.leads b then some y else o) none

/-- Whose trap leads the gang: the sequencer's, or a member's (R364). -/
def State.leader (s : State) (g : Gang) : Option (Option Seat × Frame) :=
  match g.seqTrap, s.leadSeat g.id with
  | some f, some y =>
    if (y.cur.map Item.place).getD 0 < g.trapPlace then some (some y, y.sys.frame) else some (none, f)
  | some f, none => some (none, f)
  | none, some y => some (some y, y.sys.frame)
  | none, none => none

def Frame.zero : Frame := { cause := 0, f0 := 0, f1 := 0, f2 := 0, f3 := 0 }

/-- Every member's frame: a leading sequencer trap's in all of them; else a trapped member's own, with LEAD in the
leader's, and no cause in the others (R367). -/
def Seat.framed (x : Seat) (lead : Option Seat × Frame) : Seat :=
  let f : Frame := match lead.1 with
    | none => lead.2
    | some y =>
      if x.run != .trapped then Frame.zero
      else if y.id == x.id then { x.sys.frame with cause := x.sys.frame.cause ||| 0x2000 }
      else x.sys.frame
  { x with sys := { x.sys with frame := f } }

/-- A member enters handler level: pending FMT writes take effect; its sticky state, skip state and residue are set
aside; it stands ready with a clear stream (R186, R369). -/
def Seat.enterHandler (x : Seat) (ended : Bool) : Seat :=
  let keep (q : QItem) : Bool := match q with | .trapMark => false | .haltMark => ended | _ => true
  let rest := (x.queue ++ x.transit).filter keep
  let y := x.fmtDue.applyFmt.dropHolds
  { y with
    asideState := some
      { standing := x.standing, skipDepth := x.skipDepth, skipLevel := x.skipLevel
        residue := if x.run == .trapped then rest else if ended then [.haltMark] else [], go := x.go, prepared := x.prepared }
    standing := Vector.replicate 8 Standing.nop, skipDepth := 0, skipLevel := 0, queue := [], transit := []
    run := .run, go := false, prepared := false, replayed := false, skinked := false }

/-- Every member has stopped (R364). -/
def State.allStopped (s : State) (g : Nat) : Bool := (s.seats.filter (·.gang == g)).all fun y => y.run != .run

/-- HANDLER_ENTRY: every member has stopped; the gang's cause finds its handler, or the gang fails (R369, R370, R372).
-/
def execHandlerEntry (g : Nat) (s : State) : Out :=
  eventOut s do
    let x ← s.gang? g
    let lead ← s.leader x
    match x.stop with
    | .trapSent why ended =>
      if s.cursor.isSome || !s.allStopped g then none
      else
        let cause := lead.2.cause.toNat % 256
        let framed : State := { s with seats := s.seats.map fun y => if y.gang == g then y.framed lead else y }
        let stays := if lead.1.isSome then x.seqTrap.filter Frame.after else none
        match (if x.level then none else x.handlers.find? (·.1 == cause)), why with
        | some h, why =>
          if why == some .monitor then
            some (framed.putGang { x with stop := .haltSent .monitor, lead := some cause })
          else
            let aside : SeqAside :=
              { pc := x.pc, rep := x.rep, loops := x.loops, delay := x.delay, standing := x.standing, edge := x.edge
                ended := ended, pend := stays }
            let y : Gang := { x with
              pc := h.2, off := none, rep := 0, reps := 0, loops := [], delay := none, standing := Vector.replicate 8 Standing.nop
              level := true, edge := true, asideState := some aside, seqTrap := none, lead := some cause
              stop := match why with | some w => .asked w s.chorus | none => .run }
            let enter (z : Seat) : Seat := if z.gang == g then z.enterHandler ended else z
            let entered : State := { framed with seats := framed.seats.map enter }
            some (entered.stopAtEdge y)
        | none, why =>
          some (framed.putGang { x with
            lead := some cause, stop := if why == some .monitor then .haltSent .monitor else .failed cause })
    | _ => none

end Sys2Proof.Machine
end

