-- ==== Sys2Proof/Machine/Graph.lean ====
section
/-! DEFINITION. The graph binary in device memory: header, nodes, edges, plan, kernel records, and the checks the
scheduler makes (R343 to R348). -/

namespace Sys2Proof.Machine

/-- A little-endian number that the scheduler reads (R339, R348). -/
def State.rd (s : State) (va n : Nat) : Option Nat := (s.readNat schedMaster va n).toOption

/-- Bits of a number. -/
def bitField (v lo n : Nat) : Nat := v / 2 ^ lo % 2 ^ n

/-- The header of a graph binary (R343). -/
structure GraphHead where
  base : Nat
  magic : Nat
  nnode : Nat
  nkern : Nat
  nedge : Nat
  nrange : Nat
  nregion : Nat
  nodeOff : Nat
  edgeOff : Nat
  kernOff : Nat
  planOff : Nat
  regOff : Nat
  zero : Nat
  deriving DecidableEq, Repr

def State.graphHead (s : State) (base : Nat) : Option GraphHead := do
  let v ← s.rd base 64
  return {
    base := base, magic := bitField v 0 32, nnode := bitField v 32 16, nkern := bitField v 48 16, nedge := bitField v 64 32
    nrange := bitField v 96 16, nregion := bitField v 112 16, nodeOff := bitField v 128 64, edgeOff := bitField v 192 64
    kernOff := bitField v 256 64, planOff := bitField v 320 64, regOff := bitField v 384 64, zero := bitField v 448 64 }

/-- A node record (R344). -/
structure NodeRec where
  tag : Nat
  aff : Nat
  rst : Bool
  npred : Nat
  kern : Nat
  zero : Bool
  deriving DecidableEq, Repr

def State.nodeRec (s : State) (h : GraphHead) (i : Nat) : Option NodeRec := do
  let v ← s.rd (h.base + h.nodeOff + 16 * i) 16
  return {
    tag := bitField v 48 16, aff := bitField v 40 8, rst := v.testBit 32, npred := bitField v 16 16, kern := bitField v 0 16
    zero := bitField v 64 64 == 0 && bitField v 33 7 == 0 }

/-- An edge: source, successor, and its reserved bits (R344). -/
def State.edgeRec (s : State) (h : GraphHead) (i : Nat) : Option (Nat × Nat × Nat) := do
  let v ← s.rd (h.base + h.edgeOff + 8 * i) 8
  return (bitField v 0 16, bitField v 16 16, bitField v 32 32)

def State.edges (s : State) (h : GraphHead) : Option (List (Nat × Nat × Nat)) := (List.range h.nedge).mapM (s.edgeRec h)

/-- A memory-plan range (R346). -/
structure PlanRange where
  base : Nat
  len : Nat
  kind : Nat
  r : Bool
  w : Bool
  et : Bool
  zero : Bool
  deriving DecidableEq, Repr

/-- VBASE and VLEN are multiples of 64 KiB: their lower bits are not read (R322, log entry 31). -/
def State.planRange (s : State) (h : GraphHead) (i : Nat) : Option PlanRange := do
  let v ← s.rd (h.base + h.planOff + 32 * i) 32
  return {
    base := 65536 * bitField v 16 41, len := 65536 * bitField v 80 41, kind := bitField v 128 2, r := v.testBit 130, w := v.testBit 131
    et := v.testBit 132
    zero := bitField v 133 3 == 0 && bitField v 136 56 == 0 && bitField v 57 7 == 0 && bitField v 121 7 == 0 }

/-- A region declaration (R346). -/
structure RegionDecl where
  name : Nat
  type : Nat
  cells : Nat
  base : Nat
  priv : Bool
  zero : Bool
  deriving DecidableEq, Repr

def State.regionDecl (s : State) (h : GraphHead) (i : Nat) : Option RegionDecl := do
  let v ← s.rd (h.base + h.regOff + 32 * i) 32
  return {
    name := bitField v 0 64, type := bitField v 64 3, cells := bitField v 80 16 + 1, base := bitField v 128 57
    priv := v.testBit 79, zero := bitField v 185 71 == 0 && bitField v 96 32 == 0 && bitField v 67 12 == 0 }

/-- A kernel record (R345): places, sizes, the resource declaration, and its lists. -/
structure KernRec where
  base : Nat
  code : Nat
  map : Nat
  loops : Nat
  data : Nat
  tensors : Nat
  codeWords : Nat
  bundles : Nat
  ntensor : Nat
  descSlots : Nat
  descVa : Nat
  decl : Nat
  ranges : List Nat
  patches : List Nat
  shapes : List Nat
  regions : List Nat
  /-- bytes of the record -/
  size : Nat
  deriving DecidableEq, Repr

namespace KernRec
def c (k : KernRec) : Nat := bitField k.decl 0 8
def d (k : KernRec) : Nat := bitField k.decl 8 4
def pads (k : KernRec) : Nat := bitField k.decl 12 8
def banks (k : KernRec) : Nat := bitField k.decl 20 3
def bars (k : KernRec) : Nat := bitField k.decl 23 5
def sems (k : KernRec) : Nat := bitField k.decl 28 7
def quota (k : KernRec) : Nat := bitField k.decl 35 9
def sc (k : KernRec) : Nat := bitField k.decl 44 10
def nloop (k : KernRec) : Nat := bitField k.decl 54 7
end KernRec

/-- n entries of a size from an address. -/
def State.table (s : State) (va size n : Nat) : Option (List Nat) := (List.range n).mapM fun i => s.rd (va + size * i) size

/-- The kernel record at a place of the image; its lists follow one another without gaps (log entry 21). -/
def State.kernRec (s : State) (h : GraphHead) (off : Nat) : Option KernRec := do
  let at' := h.base + off
  let v ← s.rd at' 72
  let k ← s.rd (at' + 584) 2
  let ranges ← s.table (at' + 586) 2 k
  let p := 586 + 2 * k
  let np ← s.rd (at' + p) 4
  let patches ← s.table (at' + p + 4) 16 np
  let q := p + 4 + 16 * np
  let ns ← s.rd (at' + q) 4
  let shapes ← s.table (at' + q + 4) 4 ns
  let r := q + 4 + 4 * ns
  let nr ← s.rd (at' + r) 4
  let regions ← s.table (at' + r + 4) 16 nr
  return {
    base := at', code := h.base + bitField v 0 64, map := h.base + bitField v 64 64, loops := h.base + bitField v 128 64
    data := h.base + bitField v 192 64, tensors := h.base + bitField v 256 64, codeWords := bitField v 320 32
    bundles := bitField v 352 32, ntensor := bitField v 384 32, descSlots := bitField v 416 32, descVa := bitField v 448 64
    decl := bitField v 512 64, ranges := ranges, patches := patches, shapes := shapes, regions := regions
    size := r + 4 + 16 * nr }

/-- Record i of the kernel table: the records stand one after the other (log entry 21). -/
def State.kernAt (s : State) (h : GraphHead) : Nat → Nat → Option KernRec
  | off, 0 => s.kernRec h off
  | off, i + 1 => do
    let k ← s.kernRec h off
    s.kernAt h (off + k.size) i

/-- The kernel of a node. -/
def State.nodeKernel (s : State) (h : GraphHead) (n : NodeRec) : Option KernRec := s.kernAt h h.kernOff n.kern

/-- A data image: tile-local address and bytes (R347). -/
def State.imagesFrom (s : State) : Nat → Nat → Option (List (Nat × List Byte))
  | 0, _ => some []
  | n + 1, va => do
    let v ← s.rd va 8
    let len := bitField v 32 32
    let bs ← (s.readVa schedMaster (va + 8) len).toOption
    return (bitField v 0 19, bs) :: (← s.imagesFrom n (va + 8 + (len + 7) / 8 * 8))

def State.images (s : State) (k : KernRec) : Option (List (Nat × List Byte)) := do
  let n ← s.rd k.data 4
  s.imagesFrom n (k.data + 4)

/-! ### The checks (R348) -/

/-- The first address of the private region window (R302). -/
def privateWindow : Nat := 0x1FFFFFFFC000000

/-- Edges that lie on no path from a source are peeled off; a cycle remains (R348). -/
def peel : Nat → List (Nat × Nat) → List (Nat × Nat)
  | 0, es => es
  | n + 1, es => peel n (es.filter fun e => es.any fun f => f.2 == e.1)

/-- Header, nodes, edges, plan and region declarations of a graph binary (R348). -/
def State.graphOk (s : State) (base : Nat) : Option Unit := do
  let h ← s.graphHead base
  if h.magic ≠ 0x31424750 || h.zero ≠ 0 || h.nnode = 0 || h.nkern = 0 || 4096 < h.nkern || 64 < h.nregion then none
  if [h.nodeOff, h.edgeOff, h.kernOff, h.planOff, h.regOff].any fun o => o % 8 != 0 then none
  let nodes ← (List.range h.nnode).mapM (s.nodeRec h)
  let edges ← s.edges h
  let ranges ← (List.range h.nrange).mapM (s.planRange h)
  let regions ← (List.range h.nregion).mapM (s.regionDecl h)
  if nodes.any fun n => !n.zero || h.nkern ≤ n.kern then none
  if edges.any fun e => e.2.2 != 0 || h.nnode ≤ e.1 || h.nnode ≤ e.2.1 then none
  if !(peel h.nnode (edges.map fun e => (e.1, e.2.1))).isEmpty then none
  if ranges.any fun r => !r.zero || r.kind == 3 || privateWindow ≤ r.base then none
  if regions.any fun r => !r.zero || r.type == 7 || (r.type == 6 && 8192 < r.cells) || (r.priv && r.base != 0) ||
      (!r.priv && (privateWindow ≤ r.base || r.base % 65536 != 0)) then none
  return ()

/-- Every page from an address to another is mapped; fuel bounds the pages. -/
def State.mappedTo (s : State) : Nat → Nat → Nat → Bool
  | 0, va, last => decide (last ≤ va)
  | f + 1, va, last =>
    decide (last ≤ va) || (match s.page va with
      | some p => s.mappedTo f (p.va + pageBytes p.size) last
      | none => false)

/-- n bytes from an address lie in memory, as bytes of an image do (R348, log entry 31). -/
def State.inImage (s : State) (va n : Nat) : Bool := s.mappedTo (n / 2 ^ 16 + 2) va (va + n)

/-- The graph binary of an instance is checked when its first launch is admitted; the outcome stands for all (R348). -/
def State.checkGraph (s : State) (graph inst : Nat) : State × Bool :=
  match s.checked.find? (·.1 == (graph, inst)) with
  | some c => (s, c.2)
  | none =>
    let ok := (s.graphOk graph).isSome
    ({ s with checked := s.checked ++ [((graph, inst), ok)] }, ok)

/-- The fields of a patch point (R345). -/
def patchOk (h : GraphHead) (k : KernRec) (v : Nat) : Bool :=
  let kind := bitField v 56 8
  let src := bitField v 32 4
  bitField v 0 16 == 0 && kind ≤ 2 && src ≤ 2 &&
  (if kind = 0 then bitField v 40 16 < 64 else bitField v 40 16 < k.ntensor) &&
  (match src with
    | 0 => bitField v 16 16 < 64
    | 1 => bitField v 16 16 < h.nregion
    | _ => bitField v 16 16 < h.nrange)

/-- A kernel record at its first dispatch: limits of R76, indices, reserved bits, images (R347, R348). -/
def State.kernelOk (s : State) (h : GraphHead) (k : KernRec) : Option Unit := do
  if bitField k.decl 61 3 ≠ 0 || k.c = 0 || 64 < k.c || k.d = 0 || 8 < k.d || 128 < k.pads || 4 < k.banks || 16 < k.bars ||
      64 < k.sems || 256 < k.quota || 512 < k.sc || 64 < k.nloop || 2 ^ 24 < k.bundles then none
  if !s.inImage k.code (4 * k.codeWords) || !s.inImage k.map (4 * k.bundles) then none
  if k.ranges.any (h.nrange ≤ ·) || k.patches.any (fun v => !patchOk h k v) then none
  if k.shapes.any fun v => bitField v 4 12 != 0 || k.ntensor ≤ bitField v 16 16 then none
  if k.regions.any fun v => bitField v 67 13 != 0 || bitField v 96 32 != 0 || bitField v 64 3 == 7 ||
      (bitField v 64 3 == 6 && 8192 ≤ bitField v 80 16) then none
  let imgs ← s.images k
  if imgs.any fun i => 4096 * k.pads < i.1 + i.2.length then none
  let _ ← s.table k.loops 16 k.nloop
  let _ ← s.table k.tensors 64 k.ntensor
  return ()

/-- Predecessors and successors of a node (R349, R355). -/
def State.preds (s : State) (base node : Nat) : List Nat :=
  match (s.graphHead base).bind s.edges with
  | some es => (es.filter fun e => e.2.1 == node).map (·.1)
  | none => []

def State.succs (s : State) (base node : Nat) : List Nat :=
  match (s.graphHead base).bind s.edges with
  | some es => (es.filter fun e => e.1 == node).map fun e => e.2.1
  | none => []

end Sys2Proof.Machine
end

