-- ==== Sys2Proof/Machine/Place.lean ====
section
/-! DEFINITION. What a gang is allotted: die pairs, sequencer, tiles and seats by charge balance, pads, wheel positions,
slabs, regions, extents and access entries (R90 to R92, R154, R158, R206, R269, R295, R296, R302 to R305, R322, R324,
R333, R334, R352, R353, R373, R394). -/

namespace Sys2Proof.Machine

/-! ### Tiles and seats (R17, R90, R352, R394) -/

/-- What one member seat takes of its tile. -/
structure Share where
  pads : Nat
  banks : Nat
  bars : Nat
  sems : Nat
  quota : Nat
  deriving DecidableEq, Repr

def KernRec.share (k : KernRec) : Share :=
  { pads := k.pads, banks := k.banks, bars := k.bars, sems := k.sems, quota := k.quota }

def Seat.share (x : Seat) : Share :=
  { pads := x.pads.count, banks := x.mat.banks.length, bars := x.sync.bars.length, sems := x.sync.sems.length
    quota := x.copy.quota }

/-- The charge-balance weight of a seat (R394). -/
def Share.weight (n : Share) : Nat := 1 + n.banks

def sumOf (f : Seat → Nat) (l : List Seat) : Nat := l.foldl (fun a x => a + f x) 0

/-- The seats of a tile, by die pair * 64 + die-local number. -/
def State.tileSeats (s : State) (tile : Nat) : List Seat := s.seats.filter (·.id / 4 == tile)

/-- A tile in service can take a seat of this share (R17, R90, R158, R206, R228, R269). -/
def State.fits (s : State) (tile : Nat) (n : Share) : Bool :=
  let here := s.tileSeats tile
  !(s.tile tile).fencing && here.length < 4 && sumOf (·.pads.count) here + n.pads ≤ Config.padsPerTile &&
  sumOf (·.mat.banks.length) here + n.banks ≤ 4 && sumOf (·.sync.bars.length) here + n.bars ≤ 16 &&
  sumOf (·.sync.sems.length) here + n.sems ≤ 64 && sumOf (·.copy.quota) here + n.quota ≤ Config.commandEntries

/-- The lowest free seat number of a tile (log entry 12). -/
def State.freeSeat (s : State) (tile : Nat) : Nat :=
  ((List.range 4).find? fun i => !(s.seats.any fun x => x.id == 4 * tile + i)).getD 0

/-- Free seats of a die pair (R352). -/
def State.freeSeats (s : State) (die : Nat) : Nat := 256 - (s.seats.filter (·.die == die)).length

/-- The n lowest pads of a tile that no seat holds. -/
def State.freePads (s : State) (tile n : Nat) : List Nat :=
  ((List.range Config.padsPerTile).filter fun q => !((s.tileSeats tile).any fun x => x.pads.phys.contains q)).take n

/-- The summed weights of a cluster, with those of the gang's seats placed already: tiles, each of a weight (R394). -/
def State.clusterWeight (s : State) (placed : List Nat) (w cl : Nat) : Nat :=
  sumOf (fun x => x.share.weight) (s.seats.filter fun x => x.id / 32 == cl) + w * (placed.filter fun t => t / 8 == cl).length

def gapOf (a b : Nat) : Int := ((a : Int) - b).natAbs

/-- How much a seat on a tile increases the difference within its stacked pair (R394). -/
def State.rise (s : State) (placed : List Nat) (w tile : Nat) : Int :=
  let own := s.clusterWeight placed w (tile / 8)
  let other := s.clusterWeight placed w (Nat.xor (tile / 8) 1)
  gapOf (own + w) other - gapOf own other

/-- The least of a list by a measure; the earlier one on a tie. -/
def leastBy (f : Nat → Int) : List Nat → Option Nat
  | [] => none
  | a :: r => match leastBy f r with
    | some b => if f b < f a then some b else some a
    | none => some a

/-- The tiles of a die pair that a next seat may take. -/
def State.openTiles (s : State) (placed : List Nat) (n : Share) (die : Nat) : List Nat :=
  ((List.range 64).map (64 * die + ·)).filter fun t => s.fits t n && !placed.contains t

/-- c seats of a die pair, one at a time (R394). -/
def State.placeOn (s : State) (n : Share) (die : Nat) : Nat → List Nat → Option (List Nat)
  | 0, placed => some placed
  | c + 1, placed => do
    let t ← leastBy (s.rise placed n.weight) (s.openTiles placed n die)
    s.placeOn n die c (placed ++ [t])

/-- The tiles of a gang, die pair by die pair in ascending number (R394). -/
def State.placeAll (s : State) (n : Share) (c : Nat) (dies : List Nat) : Option (List Nat) :=
  dies.foldlM (fun placed d => s.placeOn n d c placed) []

/-- Numbers in ascending order. -/
def sortNat (l : List Nat) : List Nat := l.foldl (fun r a => insertNat a r) []

/-- The d die pairs of a mask with the most free seats, the lower number on a tie (R352). -/
def State.chooseDies (s : State) (mask : List Nat) : Nat → List Nat
  | 0 => []
  | d + 1 =>
    match leastBy (fun i => -(s.freeSeats i : Int)) mask with
    | some i => i :: s.chooseDies (mask.filter (· != i)) d
    | none => []

/-- The sequencer: of the lowest-numbered die pair of the gang that has one free (R90), its lowest free one (log entry 12). -/
def State.freeSeqr (s : State) (dies : List Nat) : Option (Nat × Nat) :=
  dies.findSome? fun d =>
    ((List.range Config.seqsPerDie).find? fun i => !(s.gangs.any fun g => g.seqDie == d && g.seqNum == i)).map fun i => (d, i)

/-! ### Wheel positions (R295, R296) -/

/-- Positions of a progression. -/
def wheelOf (cnt stride first : Nat) : List Nat := (List.range cnt).map fun i => (first + i * stride) % 512

/-- Positions that seats of the package hold. -/
def State.wheelHeld (s : State) : List Nat :=
  (s.seats.map fun x => wheelOf x.sync.wheelCnt x.sync.wheelStride x.sync.wheelFirst).flatten

/-- A progression of n positions outside a list: the largest stride, then the least first position (log entry 12). -/
def freeWheel (held : List Nat) (n : Nat) : Option (Nat × Nat) :=
  if n = 0 then some (0, 0)
  else
    ((List.range (512 / n)).map (512 / n - ·)).findSome? fun stride =>
      ((List.range 512).find? fun first => (wheelOf n stride first).all fun p => !held.contains p).map fun first =>
        (stride, first)

/-- Progressions for a number of seats: stride and first position of each. -/
def freeWheels (n : Nat) : Nat → List Nat → Option (List (Nat × Nat))
  | 0, _ => some []
  | k + 1, held => do
    let w ← freeWheel held n
    return w :: (← freeWheels n k (held ++ wheelOf n w.1 w.2))

/-! ### Slabs (R373) -/

/-- Slabs in use: those of resident seats and of saved gangs. -/
def State.slabsHeld (s : State) : List Nat :=
  s.seats.map (·.slab) ++ (s.saved.map fun v => v.seats.map (·.slab)).flatten

/-- The i-th slab of the reserved area, one MiB for each, below the mirror of the journal (R358, R373, log entry 12). -/
def slabAt (i : Nat) : Nat := mirrorBase - (i + 1) * 2 ^ 20

/-- The addresses of k free slabs. -/
def State.freeSlabs (s : State) (k : Nat) : List Nat :=
  let held := s.slabsHeld
  (((List.range (held.length + k)).map slabAt).filter fun a => !held.contains a).take k

/-! ### The placement of a gang -/

/-- Die pairs, sequencer, tiles in rising order, wheel positions. -/
structure Placement where
  dies : List Nat
  seqDie : Nat
  seqNum : Nat
  tiles : List Nat
  wheels : List (Nat × Nat)
  deriving DecidableEq, Repr

/-- A gang's seats are placed if everything is free at once (R92, R352). -/
def State.place (s : State) (n : Share) (c sc : Nat) (dies : List Nat) : Option Placement := do
  let (sd, sn) ← s.freeSeqr dies
  let tiles ← s.placeAll n c dies
  let wheels ← freeWheels sc tiles.length s.wheelHeld
  return { dies := dies, seqDie := sd, seqNum := sn, tiles := sortNat tiles, wheels := wheels }

/-! ### Regions (R302 to R305, R346) -/

def Region.bytes (r : Region) : Nat := r.cells * cellBytes r.type

/-- A kernel's region entry: name, type, cells (R345). -/
def regionEntry (v : Nat) : Nat × Nat × Nat := (bitField v 0 64, bitField v 64 3, bitField v 80 16 + 1)

/-- The shared declaration that a kernel's region names (R346). -/
def sharedDecl (ds : List RegionDecl) (name type : Nat) : Option RegionDecl :=
  ds.find? fun d => !d.priv && d.name == name && d.type == type

def State.decls (s : State) (h : GraphHead) : List RegionDecl := (List.range h.nregion).filterMap (s.regionDecl h)

/-- The regions that a kernel names, each once. -/
def KernRec.named (k : KernRec) : List (Nat × Nat × Nat) := (k.regions.map regionEntry).eraseDups

/-- The allotted region of a launch for a name and type (R302, R346). -/
def State.regionFor (s : State) (l : Launch) (ds : List RegionDecl) (name type : Nat) : Option Region :=
  s.regions.find? fun r => r.name == name && r.type == type && r.graph == l.graph && r.inst == l.inst &&
    (if (sharedDecl ds name type).isSome then r.owner.isNone else r.owner == some l.num)

/-- The lowest free base of the private region window, one MiB apart (R302, log entry 12). -/
def State.privateBase (s : State) : Nat :=
  (((List.range 64).map fun i => privateWindow + i * 2 ^ 20).find? fun b => !(s.regions.any (·.base == b))).getD 0

/-- A region is allotted at the first dispatch that names it (R302); the package holds 64 of at most 512 KiB (R303). -/
def State.allotRegion (s : State) (l : Launch) (ds : List RegionDecl) (e : Nat × Nat × Nat) : Option State :=
  match s.regionFor l ds e.1 e.2.1 with
  | some _ => some s
  | none => do
    let num ← (List.range 64).find? fun i => !(s.regions.any (·.num == i))
    let d := sharedDecl ds e.1 e.2.1
    let r : Region :=
      { num := num, name := e.1, type := e.2.1, cells := (d.map (·.cells)).getD e.2.2
        base := (d.map (·.base)).getD s.privateBase, graph := l.graph, inst := l.inst
        owner := if d.isSome then none else some l.num }
    if 2 ^ 19 < (s.regions.foldl (fun a x => a + x.bytes) 0) + r.bytes then none
    else some { s with regions := s.regions ++ [r] }

def State.allotRegions (s : State) (l : Launch) (ds : List RegionDecl) (k : KernRec) : Option State :=
  k.named.foldlM (fun t e => t.allotRegion l ds e) s

/-- The regions of a launch. -/
def State.regionsOf (s : State) (l : Launch) (ds : List RegionDecl) (k : KernRec) : List Region :=
  k.named.filterMap fun e => s.regionFor l ds e.1 e.2.1

/-- Regions return: their cells, marks and exchange are forgotten on every replica (R302). -/
def State.freeRegions (s : State) (gone : Region → Bool) : State :=
  let dead := (s.regions.filter gone).map (·.num)
  { s with
    regions := s.regions.filter fun r => !gone r
    cells := s.cells.filter fun c => !dead.contains c.region
    marks := s.marks.filter fun m => !dead.contains m.2.2.1
    cellPoison := s.cellPoison.filter fun c => !dead.contains c.2.1
    exchange := s.exchange.filter fun e => !dead.contains e.region }

/-! ### Extents (R322, R324) -/

/-- A physically contiguous run of a range: address, length, physical address, the rights of its pages. -/
structure Run where
  va : Nat
  len : Nat
  pa : Nat
  r : Bool
  w : Bool
  deriving DecidableEq, Repr

/-- A run joins the next where both memories go on with the same rights. -/
def joinRun (u : Run) : List Run → List Run
  | n :: rest =>
    if u.va + u.len = n.va ∧ u.pa + u.len = n.pa ∧ u.r = n.r ∧ u.w = n.w then { u with len := u.len + n.len } :: rest
    else u :: n :: rest
  | [] => [u]

/-- The runs of a range; none while a page of it is not mapped, is to be unmapped, or is discarded and so not populated (R324,
R330). -/
def State.runs (s : State) : Nat → Nat → Nat → Option (List Run)
  | 0, _, _ => some []
  | f + 1, va, last =>
    if last ≤ va then some []
    else do
      let p ← s.page va
      if p.pend || p.disc then none
      else
        let e := min last (p.va + pageBytes p.size)
        let rest ← s.runs f e last
        return joinRun { va := va, len := e - va, pa := p.pa + (va - p.va), r := p.r, w := p.w } rest

/-- A declared range with its runs, or with none where it is lazy. -/
abbrev Laid := PlanRange × Option (List Run)

def Laid.count (r : Laid) : Nat := match r.2 with | some rs => rs.length | none => 1

/-- Eager ranges become lazy, largest run count first, until the extents fit (R324). -/
def fitExtents (room : Nat) : Nat → List Laid → List Laid
  | 0, l => l
  | f + 1, l =>
    if (l.foldl (fun a (r : Laid) => a + r.count) 0) ≤ room then l
    else
      let most := l.foldl (fun a (r : Laid) => if r.2.isSome then max a r.count else a) 0
      match l.findIdx? fun r => r.2.isSome && r.count == most with
      | some i => fitExtents room f (l.modify i fun r => (r.1, none))
      | none => l

def laidExtents (lease : Nat) (r : Laid) : List Extent :=
  match r.2 with
  | some rs => rs.map fun u =>
      { base := u.va, len := u.len, kind := 0, r := r.1.r && u.r, w := r.1.w && u.w, et := r.1.et, pbase := u.pa, lease := lease }
  | none => [{ base := r.1.base, len := r.1.len, kind := 1, r := r.1.r, w := r.1.w, et := r.1.et, pbase := 0, lease := lease }]

/-- A region's extent, in whole 64 KiB (R304). -/
def latticeExtent (lease : Nat) (r : Region) : Extent :=
  { base := r.base, len := (r.bytes + 65535) / 65536 * 65536, kind := 2, r := true, w := true, et := false, pbase := 0
    lease := lease }

/-- The part of an extent before an address, and the part from it on. -/
def Extent.before (e : Extent) (a : Nat) : Extent := { e with len := min e.len (a - e.base) }
def Extent.since (e : Extent) (a : Nat) : Extent :=
  let d := min e.len (a - e.base)
  { e with base := e.base + d, len := e.len - d, pbase := if e.kind = 0 then e.pbase + d else e.pbase }

/-- What an extent holds outside another. -/
def Extent.outside (e a : Extent) : List Extent :=
  if overlap e.base e.len a.base a.len then [e.before a.base, e.since (a.base + a.len)].filter fun u => u.len != 0 else [e]

/-- Entries that do not overlap: a later one keeps what the earlier ones leave it (R322, log entry 31). -/
def disjointExtents (es : List Extent) : List Extent :=
  es.foldl (fun done e => done ++ done.foldl (fun us a => us.flatMap fun u => u.outside a) [e]) []

/-- The ranges of a kernel, each once. -/
def State.rangesOf (s : State) (h : GraphHead) (k : KernRec) : List PlanRange :=
  (k.ranges.eraseDups.filterMap (s.planRange h)).filter fun r => r.len != 0

/-- The extent table of a member seat (R322, R324); none while an eager range is not translated. -/
def State.extentTable (s : State) (ranges : List PlanRange) (regions : List Region) : Option (List Extent) := do
  let lay (r : PlanRange) : Option Laid :=
    if r.kind = 0 then (s.runs (r.len / 2 ^ 16 + 1) r.base (r.base + r.len)).map fun u => (r, some u) else some (r, none)
  let laid ← ranges.mapM lay
  let lease := s.chorus + leaseTime
  let lat := regions.map (latticeExtent lease)
  return (disjointExtents ((fitExtents (64 - lat.length) laid.length laid).flatMap (laidExtents lease) ++ lat)).take 64

/-! ### Access tables (R333, R334) -/

/-- The masters of a seat: itself and its channels (R333). -/
def seatMasters (k : Nat) : List Nat := k :: (List.range 8).map (chanMaster k)

def livePairs (s : State) : List Nat := (List.range 8).filter fun d => s.diepres.getLsbD d

/-- The entries that a gang uses: home controllers, its own tiles, lattice units where it names regions, with theirs at its tiles for
deposits, and peers at its tiles and the home controllers where it has a collective tag (R260, R314, R334). -/
def State.grant (s : State) (tiles seats dies : List Nat) (lattice peers : Bool) : State :=
  let give (t : State) (u : Option Target) (m : Nat) : State := t.setEntry u m true true
  let own := tiles.map fun t => some (Target.port (t / 64) (t % 64))
  let lat := if lattice then dies.map fun d => some (Target.lattice d) else []
  let rows : List AccessRow := (seats.map seatMasters).flatten.flatMap fun m =>
    (none :: (own ++ lat)).map fun u => { target := u, master := m, w := true, r := true }
  let s1 : State := { s with access := rows ++ s.access }
  let s2 := if lattice then
      let units := (livePairs s).foldl (fun t a => (livePairs s).foldl (fun t b => give t (some (.lattice b)) (0x4800 + a)) t) s1
      tiles.foldl (fun t i => give t (some (.port (i / 64) (i % 64))) (0x4800 + i / 64)) units
    else s1
  if peers then (none :: own).foldl (fun t u => (List.range 12).foldl (fun t p => give t u (0x4820 + p)) t) s2 else s2

/-- The entries go with the seats; those of peers with the last tagged gang of a tile, and of the device; those of the lattice units
with the last seat of a tile that names a region, and with the last region (R334). -/
def State.ungrant (s : State) (seats : List Nat) : State :=
  let t := s.dropEntries (seats.map seatMasters).flatten
  let tagged (x : Seat) : Bool := match t.tagOf x with | some n => n != 0 | none => false
  let joins (x : Seat) : Bool := x.extents.any fun e => e.v && e.kind == 2
  let peer (r : AccessRow) : Bool := 0x4820 ≤ r.master && r.master < 0x4830
  let unit (r : AccessRow) : Bool := 0x4800 ≤ r.master && r.master < 0x4810
  let stays (r : AccessRow) : Bool :=
    match r.target with
    | some (.port d i) =>
      let here := t.seats.filter fun x => x.id / 4 == 64 * d + i
      if peer r then here.any tagged else if unit r then here.any joins else true
    | some (.lattice _) => !unit r || !t.regions.isEmpty
    | none => !peer r || t.seats.any tagged
    | _ => true
  { t with access := t.access.filter stays }

/-! ### A member seat at dispatch -/

def Regs.atDispatch : Regs :=
  { s := Vector.replicate 32 0, p := 1, v := Vector.replicate 32 0
    mask := (Vector.replicate 8 (0 : Word64)).set 0 (BitVec.allOnes 64), depth := 1, fmt := 0xC0AAC, fmtPend := [], rbq := []
    seed := 0, genN := 0 }

def Mat.atDispatch (banks : Nat) : Mat :=
  { a := 0, b := 0, sa := 0, sb := 0, bitmap := BitVec.allOnes 512, bitmapNext := none, scales := [], nextBlock := 0
    kpos := 0, banks := List.replicate banks Bank.fresh }

/-- Pads with their data images; the map names the lowest free pads of the tile (R155, R158, R347). -/
def Pads.atDispatch (phys : List Nat) (images : List (Nat × List Byte)) : Pads :=
  { count := phys.length, phys := phys, bytes := images.foldl (fun m i => Mem.putAll m i.1 i.2) []
    owner := List.replicate phys.length .thread, poison := [], upset := [] }

def Sync.atDispatch (sems bars cnt stride first : Nat) : Sync :=
  { sems := List.replicate sems 0, bars := List.replicate bars { x := 0, n := 0, b := 0 }, relq := [], acq := false
    wheelCnt := cnt, wheelStride := stride, wheelFirst := first, scNeed := 0, scStamps := [], scReady := none
    fscDrain := none, own := [] }

def Copy.atDispatch (quota : Nat) : Copy :=
  { quota := quota, chans := Vector.replicate 8 { issued := 0, w := 0 }, cmds := [], kills := [], waits := [], colls := [], past := [] }

/-- The system registers at dispatch; MONLIMIT at its reset value (R114). -/
def Sys.atDispatch : Sys :=
  { chk := false, monlimit := 100000, monCount := 0, frame := { cause := 0, f0 := 0, f1 := 0, f2 := 0, f3 := 0 }
    hndlbase := 0, substcnt := 0, fiAcc := 0, fiLatch := 0, fiPend := none, ensample := 0, sampled := none, thrstat := 0, latched := [] }

/-- A member seat as dispatch forms it (R142, R158, R181, R184, R187, R203, R206, R270, R271). -/
def Seat.atDispatch (id gang e m prio : Nat) (cfg : GangCfg) (n : Share) (phys : List Nat)
    (images : List (Nat × List Byte)) (cnt stride first : Nat) (extents : List Extent) (slab : Nat) : Seat :=
  { id := id, gang := gang, e := e, m := m, prio := prio, cfg := cfg, regs := Regs.atDispatch
    standing := Vector.replicate 8 Standing.nop, skipDepth := 0, skipLevel := 0, cycle := 0, landings := [], remotes := []
    mat := Mat.atDispatch n.banks, pads := Pads.atDispatch phys images
    sync := Sync.atDispatch n.sems n.bars cnt stride first, copy := Copy.atDispatch n.quota, sys := Sys.atDispatch
    transit := [], queue := [], cur := none, run := .run, started := false, go := false, replayed := false
    skinked := false, after := none, asideState := none, prepared := false, outbox := [], yields := false
    held := none, extents := extents, unacked := 0, tied := false, slab := slab }

/-- GANGCFG of a placement (R114). -/
def Placement.cfg (p : Placement) (c : Nat) : GangCfg :=
  { c := c, d := p.dies.length, dieMask := p.dies.foldl (fun m d => m ||| (1 : BitVec 8) <<< d) 0, seqDie := p.seqDie
    seqNum := p.seqNum }

/-- Rank of a tile among the gang's tiles of its die pair, and of its die pair (R91). -/
def Placement.memberOf (p : Placement) (tile : Nat) : Nat :=
  (p.tiles.filter fun t => t / 64 == tile / 64 && t < tile).length
def Placement.dieOf (p : Placement) (tile : Nat) : Nat := (p.dies.filter (· < tile / 64)).length

end Sys2Proof.Machine
end

