-- ==== Sys2Proof/Machine/Sched.lean ====
section
/-! DEFINITION. The scheduler: queues, doorbells and admission, the order of dispatch, dispatch, completion, failure and
error tokens, the journal, take-over (R92, R93, R127, R302, R338 to R341, R348 to R361, R396, R397). -/

namespace Sys2Proof.Machine

/-! ### Queues (R338) -/

def Queue.fresh (q : Nat) : Queue :=
  { q := q, cfg := 0, ring := 0, comp := 0, seq := 0, tail := 0, thaw := false, kicked := false, reading := false, lseq := 0, adm := 0
    frozen := false, written := 0 }

namespace Queue
def en (q : Queue) : Bool := q.cfg.getLsbD 0
def prio (q : Queue) : Nat := (q.cfg.extractLsb' 8 3).toNat
def overlap (q : Queue) : Bool := q.cfg.getLsbD 16
def size (q : Queue) : Nat := 2 ^ (q.cfg.extractLsb' 20 4).toNat
def aff (q : Queue) : Nat := (q.cfg.extractLsb' 32 8).toNat
end Queue

def State.queueOf (s : State) (q : Nat) : Queue := (s.queues.find? (·.q == q)).getD (Queue.fresh q)

def insertQueue (x : Queue) : List Queue → List Queue
  | [] => [x]
  | y :: r => if x.q < y.q then x :: y :: r else if x.q = y.q then x :: r else y :: insertQueue x r

def State.putQueue (s : State) (x : Queue) : State := { s with queues := insertQueue x s.queues }

/-- Launches of a queue that are admitted and not completed. -/
def State.outstanding (s : State) (q : Nat) : List Launch := s.launches.filter (·.q == q)

/-! ### The journal (R358, R359, R378) -/

/-- Record JSEQ stands at its place in the ring of the mirror area, and the snapshots in two places in turn. -/
def mirrorAt (jseq : Nat) : Nat := mirrorBase + 32 * (jseq % 8192)
def State.snapshotAt (s : State) : Nat :=
  let first := mirrorBase + 2 ^ 18
  match s.snapshots.getLast? with
  | some n => if n.arg = first then first + 2 ^ 18 else first
  | none => first

/-- A copy of the ring takes a record in the place of the one 8,192 before it. -/
def JournalRec.onto (r : JournalRec) (l : List JournalRec) : List JournalRec :=
  (l ++ [r]).filter fun k => r.jseq < k.jseq + 8192

/-- A record is written to both copies before the change it records; in place of the HBM copy to boot flash while the die pairs
have no power (R358, R378). -/
def State.journalise (s : State) (type q entry seq status arg : Nat) : State :=
  let r : JournalRec :=
    { jseq := s.jseq, arg := arg, seq := seq, entry := entry, queue := q, status := status, type := type }
  { s with
    journal := r.onto s.journal, mirror := if s.powered then r.onto s.mirror else s.mirror
    flash := if s.powered then s.flash else r.onto s.flash, jseq := s.jseq + 1 }

/-- Records written since the last checkpoint. -/
def State.sinceCheckpoint (s : State) : Nat :=
  match s.snapshots.getLast? with
  | some n => s.jseq - (n.jseq + 1)
  | none => s.jseq

/-- The queues as a snapshot holds them (R359). -/
def State.takeSnapshot (s : State) (arg : Nat) : Snapshot :=
  { arg := arg, jseq := s.jseq, queues := s.queues, launches := s.launches, tokens := s.tokens, finished := s.finished
    ended := s.ended }

/-- The queue freezes (R355). -/
def State.freeze (s : State) (q : Nat) : State :=
  (s.journalise 7 q 0 0 0 s.chorus).putQueue { s.queueOf q with frozen := true }

/-- The queue thaws; slabs of its failed tasks are kept no longer (R357, R372). A queue that is not frozen has no change.
-/
def State.thaw (s : State) (q : Nat) : State :=
  let t := s.journalise 8 q 0 0 0 s.chorus
  if (s.queueOf q).frozen then
    { t.putQueue { s.queueOf q with frozen := false } with saved := t.saved.filter fun v => !(v.failed && v.q == q) }
  else t

/-! ### Completion records (R354) -/

def Completion.bits (c : Completion) : Nat :=
  c.cookie.toNat * 2 ^ 192 + c.time % 2 ^ 64 * 2 ^ 128 + c.entry % 2 ^ 16 * 2 ^ 96 + c.q % 2 ^ 8 * 2 ^ 64 +
  c.cause % 2 ^ 8 * 2 ^ 40 + (if c.forced then 2 ^ 32 else 0) + c.status % 2 ^ 8

/-- NOTIFY: queue and ring index (R354, R406). -/
def notifyFlit (q index status : Nat) : Flit :=
  { kind := 5, zero := 0, tag := 0, status := BitVec.ofNat 8 status, space := 0, len := 4, addr := 0
    data := leBytes 4 (q + index % 2 ^ 16 * 2 ^ 16), pad := List.replicate 236 0 }

/-- STATUS of a NOTIFY or an answer for what kept the access from being performed (R354, R406). -/
def hostStatus (cause : Nat) : Nat :=
  match cause with
  | 0x11 => 1
  | 0x13 => 4
  | _ => 2

/-- The record goes to the ring and the host is notified; a record that cannot be written is lost and freezes the queue
(R354). -/
def State.writeCompletion (s : State) (c : Completion) : State :=
  let q := s.queueOf c.q
  let i := q.written % q.size
  let t := s.putQueue { q with written := q.written + 1 }
  match t.writeVa schedMaster (q.comp.toNat + 32 * i) (leBytes 32 c.bits) with
  | .ok u => { u with hostOut := u.hostOut ++ [notifyFlit c.q i 0] }
  | .error e => let u := t.freeze c.q; { u with hostOut := u.hostOut ++ [notifyFlit c.q i (hostStatus e)] }

/-- The completion is journaled; its record is written to the ring next (R354, R362). -/
def State.journalEnd (s : State) (c : Completion) : State :=
  let t := s.journalise 6 c.q c.entry 0 c.status c.time
  { t with unwritten := t.unwritten ++ [c] }

/-- The oldest journaled completion is written to its ring (R354). -/
def State.writeNext (s : State) : State :=
  match s.unwritten with
  | c :: r => ({ s with unwritten := r } : State).writeCompletion c
  | [] => s

/-- A completion without a launch is recorded, or held during a take-over (R341, R361). -/
def State.report (s : State) (c : Completion) : State :=
  if s.schedUp then s.journalEnd c else { s with held := s.held ++ [{ record := c, launch := none }] }

/-- The scheduler does one thing after the other: a completion that it has journaled is written to its ring before anything
else (R354). -/
def schedOut (s : State) (act : Option State) : Out :=
  eventOut s (if s.schedUp && !s.unwritten.isEmpty && s.cursor.isNone then some s.writeNext else act)

/-- CHECKPOINT: every 4,096 records a snapshot of the queues, which goes to the mirror area (R359). -/
def execCheckpoint (s : State) : Out :=
  schedOut s (
    if !s.schedUp || s.sinceCheckpoint < 4096 then none
    else
      let n := s.takeSnapshot s.snapshotAt
      let t := s.journalise 11 0 0 0 0 n.arg
      let l := s.snapshots ++ [n]
      some { t with snapshots := l.drop (l.length - 2) })

/-! ### The end of a launch (R302, R354 to R356) -/

/-- Statuses that freeze the queue: FAILED, HUNG, THERMAL_LOST, NODIE (R355). -/
def freezes (status : Nat) : Bool := 2 ≤ status

/-- The kernel of a node names a region. -/
def State.nodeNames (s : State) (h : GraphHead) (r : Region) (i : Nat) : Bool :=
  match (s.nodeRec h i).bind (s.nodeKernel h) with
  | some k => k.named.any fun e => e.1 == r.name && e.2.1 == r.type
  | none => false

/-- The last node that names a shared region has completed (R302). -/
def State.regionOver (s : State) (r : Region) : Bool :=
  match s.graphHead r.graph with
  | some h => (List.range h.nnode).all fun i => !s.nodeNames h r i || s.ended.contains (r.graph, r.inst, i)
  | none => true

/-- A node once more in a list. -/
def withNode (n : Nat × Nat × Nat) (l : List (Nat × Nat × Nat)) : List (Nat × Nat × Nat) := if l.contains n then l else l ++ [n]

/-- The record of a launch that completes now (R354). -/
def Launch.completion (l : Launch) (status cause : Nat) (forced : Bool) (time : Nat) : Completion :=
  { q := l.q, entry := l.entry, cookie := l.cookie, time := time, cause := cause, forced := forced, status := status }

/-- A launch has completed: its node has ended, its private regions return and shared ones with their last node, its
successors get an error token unless it was OK, its queue freezes, its record is journaled (R302, R354, R355). -/
def State.endLaunch (s : State) (l : Launch) (c : Completion) : State :=
  let node := (l.graph, l.inst, l.node)
  let s1 : State := { s with
    launches := s.launches.filter (·.num != l.num), tokens := s.tokens.filter (· != node)
    finished := if c.status = 0 then withNode node s.finished else s.finished, ended := withNode node s.ended }
  let s2 := s1.freeRegions fun r =>
    r.owner == some l.num || (r.owner.isNone && r.graph == l.graph && r.inst == l.inst && s1.regionOver r)
  let next := (s.succs l.graph l.node).eraseDups
  let s3 := if c.status = 0 || next.isEmpty then s2 else
    let t := s2.journalise 9 l.q l.entry 0 0 s.chorus
    { t with tokens := next.foldl (fun ts i => withNode (l.graph, l.inst, i) ts) t.tokens }
  let s4 := if freezes c.status then s3.freeze l.q else s3
  s4.journalEnd c

/-- Running launches of the instance with the tag are halted and end CANCELLED; saved ones end so at once (R356). -/
def State.cancelTag (s : State) (l : Launch) : State :=
  (s.launches.filter fun k => k.graph == l.graph && k.inst == l.inst && k.tag == l.tag).foldl
    (fun t k => match k.at' with
      | .dispatched g | .running g => (t.request g .cancel).getD t
      | .saved g =>
        let forced := t.saved.any fun v => v.gang.id == g && v.gang.forced
        ({ t with saved := t.saved.filter (·.gang.id != g) } : State).endLaunch k (k.completion 1 0 forced t.chorus)
      | .waiting | .ended => t) s

/-- The end of a launch as the scheduler processes it (R354 to R356). -/
def State.finish (s : State) (l : Launch) (c : Completion) : State :=
  let t := s.endLaunch l c
  if freezes c.status && l.tag != 0 then t.cancelTag l else t

/-- A launch completes with a status; during a take-over its end is held for the standby (R354 to R356, R361). -/
def State.conclude (s : State) (l : Launch) (status cause : Nat) (forced : Bool) : State :=
  let c := l.completion status cause forced s.chorus
  if s.schedUp then s.finish l c
  else { s with
    held := s.held ++ [{ record := c, launch := some l }]
    launches := s.launches.map fun m => if m.num == l.num then { m with at' := .ended } else m }

/-! ### Doorbells and admission (R339, R341) -/

/-- CAUSE of a launch that cannot run (R339, R348). -/
def fetchCause : Nat := 0x1B

/-- The entry at a ring index, or none where it cannot be read. -/
def State.launchEntry (s : State) (q : Queue) (i : Nat) : Option Nat := s.rd (q.ring.toNat + 64 * (i % q.size)) 64

/-- A launch from its entry (R339). -/
def State.launchOf (s : State) (q entry v : Nat) : Launch where
  num := s.serial
  q := q
  entry := entry
  cookie := BitVec.ofNat 64 (bitField v 448 64)
  patch := bitField v 384 64
  graph := bitField v 320 64
  inst := bitField v 288 32
  node := bitField v 272 16
  aff := bitField v 264 8
  at' := .waiting
  tag := 0
  restartable := false

/-- The entry, its patch values and its graph can be read and pass the checks of admission; the graph as it was found at the
first launch of the instance (R339, R348). -/
def State.admissible (s : State) (l : Launch) (v : Nat) : Bool :=
  bitField v 0 264 == 0 && (l.patch == 0 || (s.readVa schedMaster l.patch 512).toOption.isSome) && l.graph % 4096 == 0 &&
  (s.checkGraph l.graph l.inst).2 && (match s.graphHead l.graph with | some h => l.node < h.nnode | none => false)

/-- The collective tag of a launch's node, where it can be read. -/
def State.nodeTag (s : State) (l : Launch) : Nat :=
  match (s.graphHead l.graph).bind fun h => if l.node < h.nnode then s.nodeRec h l.node else none with
  | some n => n.tag
  | none => 0

/-- The entry of a ring index is admitted; one that cannot run completes FAILED (R339, R341); jseq: the record of its doorbell. -/
def State.admitEntry (s : State) (q i jseq : Nat) : State :=
  match s.launchEntry (s.queueOf q) i with
  | none =>
    (s.freeze q).report { q := q, entry := i, cookie := 0, time := s.chorus, cause := fetchCause, forced := false, status := 2 }
  | some v =>
    let l := s.launchOf q i v
    let k := s.checkGraph l.graph l.inst
    let t : State := { k.1 with
      launches := s.launches ++ [l], serial := s.serial + 1
      admitted := (s.admitted.filter fun a => s.jseq ≤ a.1 + 8192) ++ [(jseq, l)] }
    if s.admissible l v then t else t.conclude { l with tag := if k.2 then s.nodeTag l else 0 } 2 fetchCause false

/-- Entries ADMIT to TAIL - 1 in ring order (R341). -/
def State.admitFrom (s : State) (q i jseq : Nat) : Nat → State
  | 0 => s
  | n + 1 => (s.admitEntry q (i % 2 ^ 16) jseq).admitFrom q (i + 1) jseq n

/-- The scheduler's read of a doorbell: a latched THAW acts; a new one is journaled and admits (R341, R357). -/
def State.readDoorbell (s : State) (q : Nat) : State :=
  let x := s.queueOf q
  let t := s.putQueue { x with reading := false, thaw := false }
  let t := if x.thaw then t.thaw q else t
  let d := (x.seq - x.lseq).toNat
  if d = 0 ∨ 2 ^ 31 ≤ d then t
  else
    let jseq := t.jseq
    let t := t.journalise 1 q x.tail.toNat x.seq.toNat 0 0
    let t := t.putQueue { t.queueOf q with lseq := x.seq }
    let n := (x.tail - x.adm).toNat
    if !x.en then t
    else if x.size < n + (t.outstanding q).length then
      (t.freeze q).report { q := q, entry := x.adm.toNat, cookie := 0, time := s.chorus, cause := 0, forced := false, status := 2 }
    else (t.putQueue { t.queueOf q with adm := x.tail }).admitFrom q x.adm.toNat jseq n

/-- The scheduler clears a set bit of PKB (R341). -/
def State.clearKick (s : State) (q : Nat) : State := s.putQueue { s.queueOf q with kicked := false, reading := true }

/-- SCHEDULER_SCAN: a set bit of PKB is cleared; then DBL is read (R341). -/
def execSchedulerScan (q : Nat) (s : State) : Out :=
  schedOut s (
    let x := s.queueOf q
    if !s.schedUp then none
    else if x.reading then some (s.readDoorbell q)
    else if x.kicked then some (s.clearKick q)
    else none)

/-! ### Readiness (R349, R350, R355) -/

/-- The predecessors are in a list, and in a queue without OVERLAP every earlier launch has completed (R349). -/
def State.readyBy (s : State) (done : List (Nat × Nat × Nat)) (l : Launch) : Bool :=
  ((s.preds l.graph l.node).all fun p => done.contains (l.graph, l.inst, p)) &&
  ((s.queueOf l.q).overlap || !((s.launches.takeWhile (·.num != l.num)).any (·.q == l.q)))

/-- Every predecessor has completed OK (R349). -/
def State.wouldReady (s : State) (l : Launch) : Bool := s.readyBy s.finished l

def State.hasToken (s : State) (l : Launch) : Bool := s.tokens.contains (l.graph, l.inst, l.node)

/-- The head of a queue: its first launch that is ready (R349 to R351). -/
def State.headOf (s : State) (q : Nat) : Option Launch :=
  s.launches.find? fun l => l.q == q && l.at' == .waiting && s.wouldReady l && !s.hasToken l

/-- The first launch of a queue that holds a token and would otherwise be ready: every predecessor has completed (R355). -/
def State.cancelled (s : State) (q : Nat) : Option Launch :=
  s.launches.find? fun l => l.q == q && l.at' == .waiting && s.readyBy s.ended l && s.hasToken l

/-- The saved gang of a queue that is resumed first (R351). -/
def State.savedOf (s : State) (q : Nat) : Option SavedGang := s.saved.find? fun v => v.q == q && !v.failed

/-! ### Patches (R345, R347) -/

/-- A field of a tensor record takes a value. -/
def withField (h : HReg) (i : Nat) (v : Word32) : HReg :=
  (h &&& ~~~((BitVec.allOnes 32).setWidth 512 <<< (32 * i))) ||| (v.setWidth 512 <<< (32 * i))

/-- The value of a patch point (R345). -/
def State.patchValue (s : State) (l : Launch) (h : GraphHead) (v : Nat) : Option Word64 := do
  let i := bitField v 16 16
  let src ← match bitField v 32 4 with
    | 0 => if l.patch = 0 then some 0 else s.rd (l.patch + 8 * i) 8
    | 1 => do
      let d ← s.regionDecl h i
      some (((s.regionFor l (s.decls h) d.name d.type).map (·.base)).getD d.base)
    | _ => (s.planRange h i).map (·.base)
  return BitVec.ofNat 64 src + BitVec.ofNat 64 (bitField v 64 64)

/-- One patch point applied to parameter words and tensor records (R345). -/
def State.patch (s : State) (l : Launch) (h : GraphHead) (pt : List Word64 × List HReg) (v : Nat) :
    Option (List Word64 × List HReg) := do
  let x ← s.patchValue l h v
  let i := bitField v 40 16
  let f := bitField v 36 4
  match bitField v 56 8 with
  | 0 => some (pt.1.set i x, pt.2)
  | 1 => some (pt.1, pt.2.modify i fun r => withField r f (x.extractLsb' 0 32))
  | _ => some (pt.1, pt.2.modify i fun r => withField r f (x.extractLsb' 32 32))

/-! ### Dispatch (R352, R353) -/

/-- What a gang starts with: parameter words, tensor records, images, loop table. -/
structure Loads where
  params : List Word64
  tensors : List HReg
  images : List (Nat × List Byte)
  loopTab : List (BitVec 128)

def State.loads (s : State) (l : Launch) (h : GraphHead) (k : KernRec) : Option Loads := do
  let params ← s.table (k.base + 72) 8 64
  let tensors ← s.table k.tensors 64 k.ntensor
  let pt ← k.patches.foldlM (s.patch l h) (params.map (BitVec.ofNat 64), tensors.map (BitVec.ofNat 512))
  let images ← s.images k
  let loopTab ← s.table k.loops 16 k.nloop
  return { params := pt.1, tensors := pt.2, images := images, loopTab := loopTab.map (BitVec.ofNat 128) }

/-- H registers from the shape loads (R347). -/
def shapeLoads (k : KernRec) (ts : List HReg) : Vector HReg 16 :=
  k.shapes.foldl (fun h v => h.setIfInBounds (bitField v 0 4) (ts.getD (bitField v 16 16) 0)) (Vector.replicate 16 0)

/-- The gang as dispatch allots it, to start at bundle 0 (R25, R90, R352). -/
def newGang (id : Nat) (l : Launch) (prio : Nat) (n : NodeRec) (k : KernRec) (p : Placement) (members : List Nat) (x : Loads)
    (now : Nat) : Gang where
  id := id
  launch := l.num
  prio := prio
  c := k.c
  d := k.d
  dies := p.dies
  seqDie := p.seqDie
  seqNum := p.seqNum
  members := members
  kernel :=
    { codeVa := k.code, codeWords := k.codeWords, mapVa := k.map, bundles := k.bundles, loopTab := x.loopTab
      descVa := k.descVa, descSlots := k.descSlots, restartable := n.rst }
  params := x.params
  tensors := x.tensors
  g := Vector.replicate 32 0
  h := shapeLoads k x.tensors
  vote := 0
  pc := 0
  rep := 0
  reps := 0
  cycle := 0
  landings := []
  standing := Vector.replicate 8 Standing.nop
  loops := []
  delay := none
  hdr := 0
  words := []
  off := none
  next := none
  held := none
  fresh := false
  flow := .seq
  handlers := []
  level := false
  asideState := none
  stop := .allotted none
  edge := true
  waiting := false
  votePend := none
  serial := 0
  forced := false
  seqTrap := none
  lead := none
  saveCount := 0
  order := id
  startAt := now
  ext := false

/-- DISPATCH is journaled; the gang and its seats stand, with their entries in the access tables (R352, R358). -/
def State.form (s : State) (l : Launch) (n : NodeRec) (k : KernRec) (p : Placement) (rs : List Region) (es : List Extent)
    (x : Loads) : State :=
  let id := s.serial
  let prio := (s.queueOf l.q).prio
  let seats := (p.tiles.zip (s.freeSlabs p.tiles.length)).zip p.wheels |>.map fun t =>
    let tile := t.1.1
    Seat.atDispatch (4 * tile + s.freeSeat tile) id (p.dieOf tile) (p.memberOf tile) prio (p.cfg k.c) k.share
      (s.freePads tile k.pads) x.images k.sc t.2.1 t.2.2 [] t.1.2
  let ids := seats.map (·.id)
  let g := newGang id l prio n k p ids x s.chorus
  let run (m : Launch) : Launch := if m.num == l.num then { m with at' := .dispatched id, tag := n.tag, restartable := n.rst } else m
  let t := s.journalise 2 l.q l.entry 0 0 id
  let u : State := { t with
    gangs := t.gangs ++ [g], seats := t.seats ++ seats, launches := t.launches.map run, serial := t.serial + 1
    served := t.served.setIfInBounds prio l.q }
  (ids.foldl (fun (t : State) k => t.writeExtents schedMaster k fun _ => es) (seats.foldl State.takePads u)).grant p.tiles ids p.dies (!rs.isEmpty) (n.tag != 0)

/-- STARTED is journaled, and the sequencer of an allotted gang starts; a stop that has been requested already halts it at bundle 0,
and nothing executes (R352, R358, R397). -/
def State.startGang (s : State) (l : Launch) (g : Nat) : Option State := do
  let x ← s.gang? g
  let t := s.journalise 3 l.q l.entry 0 0 g
  let u : State := { t with launches := t.launches.map fun m => if m.num == l.num then { m with at' := .running g } else m }
  some (match x.stop with
    | .allotted (some why) => u.stopAtEdge { x with stop := .asked why s.chorus, startAt := s.chorus }
    | _ => u.putGang { x with stop := .run, startAt := s.chorus })

/-- The live die pairs of a launch's effective mask (R352). -/
def State.maskOf (s : State) (l : Launch) (aff : Nat) : List Nat :=
  let m := if l.aff ≠ 0 then l.aff else if aff ≠ 0 then aff else (s.queueOf l.q).aff
  (livePairs s).filter fun d => m == 0 || m.testBit d

/-- What becomes of a ready head: it ends with a status and cause, it runs, it waits for the translation of an eager
range, or it cannot be placed now. -/
inductive Verdict where
  | ends (status cause tag : Nat)
  | runs (t : State)
  | later
  | blocked

/-- The launch can never be placed (R353). -/
def State.never (s : State) (h : GraphHead) (k : KernRec) (mask : List Nat) : Option Nat :=
  let ds := s.decls h
  let bytes : Nat := (k.named.map fun e => ((sharedDecl ds e.1 e.2.1).map (·.cells)).getD e.2.2 * cellBytes e.2.1).foldl (· + ·) 0
  if mask.isEmpty || mask.length < k.d then some 5
  else if 512 < k.c * k.d * k.sc || 64 < k.named.length || 2 ^ 19 < bytes || 64 < k.ranges.length + k.named.length then some 2
  else none

/-- The decision on a ready head (R348, R352, R353). -/
def State.verdict (s : State) (l : Launch) : Verdict :=
  match (s.graphHead l.graph).bind fun h => (s.nodeRec h l.node).map fun n => (h, n) with
  | none => .ends 2 fetchCause 0
  | some (h, n) =>
    match s.nodeKernel h n with
    | none => .ends 2 fetchCause n.tag
    | some k =>
      let mask := s.maskOf l n.aff
      match s.kernelOk h k, s.never h k mask with
      | none, _ => .ends 2 fetchCause n.tag
      | some _, some st => .ends st 0 n.tag
      | some _, none =>
        let dies := sortNat (s.chooseDies mask k.d)
        match s.allotRegions l (s.decls h) k, s.place k.share k.c k.sc dies with
        | some t, some p =>
          let rs := t.regionsOf l (s.decls h) k
          match s.extentTable (s.rangesOf h k) rs with
          | none => .later
          | some es =>
            match t.loads l h k with
            | none => .ends 2 fetchCause n.tag
            | some x => .runs (t.form l n k p rs es x)
        | _, _ => .blocked

/-! ### Whose turn it is (R351) -/

/-- The queue's next piece of work: nothing, a resumption, or a launch. -/
inductive Work where
  | none
  | resume (v : SavedGang)
  | launch (l : Launch)
  deriving DecidableEq, Repr

/-- A saved gang comes before any new launch of its queue; a frozen queue dispatches and resumes nothing, and heat keeps
saved gangs (R351, R355, R377). -/
def State.workOf (s : State) (q : Nat) : Work :=
  if (s.queueOf q).frozen then .none
  else match s.savedOf q with
    | some v => if s.power.hot then .none else .resume v
    | none => match s.headOf q with
      | some l => .launch l
      | none => .none

def Work.some : Work → Bool | .none => false | _ => true

/-- The highest priority that has work (R351). -/
def State.topPriority (s : State) : Option Nat :=
  let ps := (s.queues.filter fun x => (s.workOf x.q).some).map (·.prio)
  if ps.isEmpty then none else some (ps.foldl max 0)

/-- The queues of the highest priority with work, in round-robin order after the one served last (R351). -/
def State.turn (s : State) : List Nat :=
  match s.topPriority with
  | none => []
  | some p =>
    let qs := (s.queues.filter fun x => x.prio == p && (s.workOf x.q).some).map (·.q)
    let last := s.served.getD p 127
    qs.filter (last < ·) ++ qs.filter (· ≤ last)

/-- A stop is on its way; at handler level it waits for RETH (R370). -/
def Gang.stopping (g : Gang) : Bool := match g.stop with | .run | .ended => false | _ => true

/-- The gang that is pre-empted for a head of priority p: the lowest priority first, then the latest dispatched, one that runs a
handler too (R351, R370). -/
def State.victim (s : State) (p : Nat) : Option Gang :=
  let low := s.gangs.filter fun g => g.prio < p
  if low.any Gang.stopping then none
  else (low.filter fun g => g.stop == .run).foldl
    (fun o g => match o with
      | none => some g
      | some b => if g.prio < b.prio || (g.prio == b.prio && b.order < g.order) then some g else o) none

/-- The launch that is allotted and not started, and its gang. -/
def State.unstarted (s : State) : Option (Launch × Nat) :=
  s.launches.findSome? fun l => match l.at' with | .dispatched g => some (l, g) | _ => none

/-- DISPATCH: a launch that is allotted starts; the queue's head ends CANCELLED on a token; else, in its turn, it ends, is
allotted, or makes room for itself (R349 to R353, R355). fits tells what work of another queue can be placed. -/
def State.dispatchIn (s : State) (fits : Work → Bool) (q : Nat) : Option State := do
  if !s.schedUp || !s.powered || s.cursor.isSome then none
  match s.unstarted, s.cancelled q with
  | some (l, g), _ => if l.q = q then s.startGang l g else none
  | none, some l => some (s.conclude { l with tag := s.nodeTag l } 1 0 false)
  | none, none =>
    if !((s.turn.takeWhile (· != q)).all fun p => !fits (s.workOf p)) || !s.turn.contains q then none
    match s.workOf q with
    | .launch l =>
      match s.verdict l with
      | .ends st c tag => some (s.conclude { l with tag := tag } st c false)
      | .runs t => some t
      | .later => none
      | .blocked => do
        let g ← s.victim (s.queueOf q).prio
        s.request g.id .preempt
    | _ => none

/-! ### The start of clusters (R396, R397) -/

/-- OFFk of a cluster, by die pair * 8 + cluster (R396). -/
def State.offsetOf (s : State) (cl : Nat) : Nat := (s.phase.getD (cl / 8) 0).toNat / 16 ^ (cl % 8) % 16

/-- CLUSTER_START: the gang's members on a cluster begin after the cluster's offset; a stop that waited for the last one
counts from then (R396, R397). -/
def execClusterStart (g cl : Nat) (s : State) : Out :=
  eventOut s do
    let x ← s.gang? g
    let here (y : Seat) : Bool := y.gang == g && y.id / 32 == cl
    let waits := match x.stop with | .allotted _ => true | _ => false
    if waits || !(s.seats.any fun y => here y && !y.started) || s.chorus < x.startAt + 40 * s.offsetOf cl then none
    let t : State := { s with seats := s.seats.map fun y => if here y then { y with started := true } else y }
    if t.begun x && (x.serial ≠ 0 || x.waiting) then
      match x.stop with
      | .asked why _ => some (t.stopAtEdge { x with stop := .asked why s.chorus })
      | _ => some t
    else some t

/-! ### The end of a gang (R93, R127) -/

/-- A tile whose gangs have left during a fence: the eft stands in its place, with its own trim, clock and counters (R16,
R385, R386). -/
def State.endFence (s : State) (t : Tile) : Tile :=
  if t.fencing && (s.tileSeats t.id).isEmpty then
    let r := s.record (t.id / 64 * 72 + t.id % 64 / 8 * 9 + 8)
    { Tile.fresh t.id with eft := true, trim := r.trim, freq := r.freq }
  else t

/-- The gang's resources return: sequencer, seats and what they hold, issue slots, access entries (R93, R334, R354). -/
def State.reclaim (s : State) (g : Nat) : State :=
  let ks := (s.seats.filter (·.gang == g)).map (·.id)
  let s0 := (s.seats.filter (·.gang == g)).foldl State.leavePads s
  let s1 := ks.foldl (fun (t : State) k => if (t.tile (k / 4)).holder = some k then t.passSlot k else t) s0
  let forget (m : OrdMsg) : OrdMsg := if m.src.any fun x => ks.contains x.1 then { m with src := none } else m
  let s2 : State := { s1 with
    gangs := s1.gangs.filter (·.id != g)
    seats := s1.seats.filter (·.gang != g)
    msgs := s1.msgs.filter fun m => !ks.contains m.src
    replies := s1.replies.filter fun r => !ks.contains r.seat
    reports := s1.reports.filter fun r => !ks.contains r.seat
    peerOut := s1.peerOut.filter fun p => !(ks.any fun k => p.asksFor k)
    inputs := s1.inputs.map fun i => { i with queue := i.queue.map forget }
    resumed := s1.resumed.filter (·.gang.id != g)
    tiles := s1.tiles.map fun t => { t with sideLog := t.sideLog.filter fun e => !ks.contains e.seat } }
  let s3 : State := { s2 with tiles := s2.tiles.map s2.endFence }
  s3.ungrant ks

/-- Every access that a seat has issued is performed at package scope; a release that only a faulted command blocks
counts as such (R127, R293). -/
def State.quiet (s : State) (x : Seat) : Bool :=
  let blockedByFault (d : Deferred) : Bool :=
    match d with
    | .release r => x.copy.cmds.any fun m => m.fault.isSome && s.waitsForCmd x r m
    | .msg _ => false
  !(s.msgs.any fun m => m.src == x.id && (match m.body with | .watch _ => false | _ => true)) &&
  !(s.reports.any (·.seat == x.id)) && !(s.replies.any (·.seat == x.id)) && x.copy.kills.isEmpty &&
  (match x.sync.relq with | [] => true | d :: _ => blockedByFault d) &&
  !((s.tile (x.id / 4)).sideLog.any (·.seat == x.id))

/-- Status and cause with which a gang is ready to complete (R93, R127, R354, R356); every member has drained
to its stop (R93). -/
def State.outcome (s : State) (x : Gang) : Option (Nat × Nat) :=
  let all := s.seats.filter (·.gang == x.id)
  match x.stop with
  | .ended =>
    if all.all fun y => y.run == .marked && y.sys.latched.isEmpty && s.quiet y && y.copy.cmds.all (·.fault.isSome) then
      some (0, 0)
    else none
  | .haltSent .cancel => if all.all fun y => y.run == .marked && s.quiet y then some (1, 0) else none
  | .haltSent .kill => if all.all fun y => y.run == .marked && s.quiet y then some (2, 0x12) else none
  | .done st c => if all.all fun y => y.run != .run then some (st, c) else none
  | _ => none

/-- GANG_COMPLETION: the gang's resources return, its launch completes (R93, R127, R354). With the buffer of take-over
full it keeps them (R361). -/
def execGangCompletion (g : Nat) (s : State) : Out :=
  schedOut s do
    let x ← s.gang? g
    let o ← s.outcome x
    let l ← s.launches.find? (·.num == x.launch)
    if s.cursor.isSome || (!s.schedUp && 256 ≤ s.held.length) then none
    some ((s.reclaim g).conclude l o.1 o.2 x.forced)

/-! ### Take-over (R359 to R361) -/

/-- A record of which a copy is intact. -/
def State.recordAt (s : State) (j : Nat) : Option JournalRec := (s.journal ++ s.mirror ++ s.flash).find? (·.jseq == j)

/-- The records that count from a JSEQ on: each follows the one before it (R359). -/
def State.countedFrom (s : State) : Nat → Nat → List JournalRec
  | 0, _ => []
  | f + 1, j => match s.recordAt j with
    | some r => r :: s.countedFrom f (j + 1)
    | none => []

/-- The last snapshot of which the CHECKPOINT is intact; before the first one, empty queues (R359, R360). -/
def State.lastSnapshot (s : State) : Snapshot × Nat :=
  match s.snapshots.reverse.find? fun n => (s.recordAt n.jseq).any fun r => r.type == 11 && r.arg == n.arg with
  | some n => (n, n.jseq + 1)
  | none => ({ arg := 0, jseq := 0, queues := [], launches := [], tokens := [], finished := [], ended := [] }, 0)

def Snapshot.queue (n : Snapshot) (q : Nat) : Queue := (n.queues.find? (·.q == q)).getD (Queue.fresh q)
def Snapshot.put (n : Snapshot) (x : Queue) : Snapshot := { n with queues := insertQueue x n.queues }

/-- A launch of the snapshot, by queue and ring index. -/
def Snapshot.launch (n : Snapshot) (q entry : Nat) : Option Launch := n.launches.find? fun l => l.q == q && l.entry == entry

/-- A launch of the snapshot stands elsewhere. -/
def Snapshot.move (n : Snapshot) (q entry : Nat) (f : Launch → Launch) : Snapshot :=
  { n with launches := n.launches.map fun l => if l.q == q && l.entry == entry then f l else l }

/-- A launch as a doorbell's record admitted it; its ring slot may hold another entry by now. -/
def State.readmitted (s : State) (q jseq entry : Nat) : Option Launch :=
  (s.admitted.find? fun a => a.1 == jseq && a.2.q == q && a.2.entry == entry).map (·.2)

/-- A DOORBELL record again (R341). -/
def Snapshot.doorbell (n : Snapshot) (s : State) (r : JournalRec) : Snapshot :=
  let x := { n.queue r.queue with lseq := BitVec.ofNat 32 r.seq }
  let tail := BitVec.ofNat 16 r.entry
  let k := (tail - x.adm).toNat
  if !x.en || x.size < k + (n.launches.filter (·.q == x.q)).length then n.put x
  else
    let ls := (List.range k).filterMap fun i => s.readmitted x.q r.jseq ((x.adm.toNat + i) % 2 ^ 16)
    { n.put { x with adm := tail } with launches := n.launches ++ ls }

/-- A record applied to what the snapshot holds (R358, R360). -/
def Snapshot.replay (s : State) (n : Snapshot) (r : JournalRec) : Snapshot :=
  match r.type with
  | 1 => n.doorbell s r
  | 2 => n.move r.queue r.entry fun l => { l with
      at' := .dispatched r.arg, tag := s.nodeTag l
      restartable := s.launches.any fun k => k.num == l.num && k.restartable }
  | 3 | 5 => n.move r.queue r.entry fun l => { l with at' := .running r.arg }
  | 4 => n.move r.queue r.entry fun l => { l with at' := .saved r.arg }
  | 6 =>
    let gone (l : Launch) : Bool := l.q == r.queue && l.entry == r.entry
    let nodes := (n.launches.filter gone).map fun l => (l.graph, l.inst, l.node)
    let add (l : List (Nat × Nat × Nat)) : List (Nat × Nat × Nat) := nodes.foldl (fun l i => withNode i l) l
    { n with
      launches := n.launches.filter fun l => !gone l, tokens := n.tokens.filter fun t => !nodes.contains t
      finished := if r.status = 0 then add n.finished else n.finished, ended := add n.ended }
  | 7 => n.put { n.queue r.queue with frozen := true }
  | 8 => n.put { n.queue r.queue with frozen := false }
  | 9 =>
    match n.launch r.queue r.entry with
    | some l => { n with tokens := (s.succs l.graph l.node).eraseDups.foldl (fun ts i => withNode (l.graph, l.inst, i) ts) n.tokens }
    | none => n
  | 10 =>
    let x := n.queue r.queue
    let v := BitVec.ofNat 64 r.arg
    n.put (match r.entry with | 0 => { x with cfg := v } | 1 => { x with ring := v } | _ => { x with comp := v })
  | _ => n

/-- The scheduler's account of a queue as the journal has it; what the hub latched and the place in the completion ring stay
(log entry 31). -/
def Snapshot.onto (n : Snapshot) (x : Queue) : Queue :=
  let y := n.queue x.q
  { x with cfg := y.cfg, ring := y.ring, comp := y.comp, lseq := y.lseq, adm := y.adm, frozen := y.frozen }

/-- The standby replays the journal from the last CHECKPOINT; records that do not count have had no effect, and the next record
follows the last one that counts (R359, R360). A gang that the journal has running and that a lost tile took away waits for
dispatch again (R391), and so does one whose COMPLETE does not count; one whose RESUMED does not count is saved still. -/
def State.replayed (s : State) : State :=
  let (base, from') := s.lastSnapshot
  let rs := s.countedFrom 8192 from'
  let n := rs.foldl (Snapshot.replay s) base
  let next := from' + rs.length
  let stands (g : Nat) : LaunchAt :=
    if s.gangs.any (·.id == g) then .running g else if s.saved.any (·.gang.id == g) then .saved g else .waiting
  let hold (l : Launch) : Launch :=
    if s.held.any fun h => h.launch.any (·.num == l.num) then { l with at' := .ended }
    else match l.at' with
      | .running g => { l with at' := stands g }
      | _ => l
  let ls := n.launches.map hold
  let back := s.resumed.filter fun v => ls.any fun l => l.at' == .saved v.gang.id
  let counts (c : Completion) : Bool := rs.any fun r => r.type == 6 && r.queue == c.q && r.entry == c.entry && r.arg == c.time
  let keep (l : List JournalRec) : List JournalRec := l.filter fun r => r.jseq < next
  { s with
    queues := n.queues.foldl (fun l q => insertQueue (n.onto (s.queueOf q.q)) l) (s.queues.map n.onto)
    launches := ls, tokens := n.tokens, finished := n.finished, ended := n.ended, jseq := next
    saved := s.saved ++ back, resumed := s.resumed.filter fun v => !back.contains v, unwritten := s.unwritten.filter counts
    journal := keep s.journal, mirror := keep s.mirror, flash := keep s.flash
    serial := n.launches.foldl (fun m l => max m (l.num + 1)) s.serial }

/-- A gang whose launch has no STARTED record is released, and its launch returns to its queue (R360). -/
def State.releasePartial (s : State) : State :=
  let claimed (g : Gang) : Bool := s.launches.any fun l => l.at' == .running g.id
  let t := ((s.gangs.filter fun g => !claimed g).map (·.id)).foldl State.reclaim s
  let back (l : Launch) : Bool := match l.at' with | .dispatched _ => true | _ => false
  let nums := (t.launches.filter back).map (·.num)
  let u := t.freeRegions fun r => r.owner.any nums.contains
  { u with launches := u.launches.map fun l => if back l then { l with at' := .waiting } else l }

/-- Every journaled completion is written to its ring. -/
def State.writeAll (s : State) : State := s.unwritten.foldl State.writeCompletion { s with unwritten := [] }

/-- A held end is journaled, takes effect, and its record is written (R361). -/
def State.endHeld (s : State) (h : Held) : State :=
  (match h.launch with
    | some l => s.finish l h.record
    | none => s.journalEnd h.record).writeAll

/-- The standby's steps: it replays the journal, releases what was not started, clears PKB and reads every doorbell, writes what was
journaled and not written, releases the held ends, and resumes dispatch (R360 to R362). -/
def State.takeOver (s : State) : State :=
  let s1 := s.replayed.releasePartial
  let s2 : State := { s1 with queues := s1.queues.map fun q => { q with kicked := false } }
  let s3 := (s2.queues.map (·.q)).foldl State.readDoorbell s2
  let s4 : State := ({ s3 with schedUp := true, held := [] } : State).writeAll
  s3.held.foldl State.endHeld s4

/-- SCHEDULER_TAKEOVER: the active scheduler traps; or the standby takes over from a journal of which some records in hub 0 may not
be intact (R359 to R362). -/
def execSchedulerTakeover (s : State) (bad : List Nat := []) : Out :=
  eventOut s (
    if !s.booted || s.cursor.isSome then none
    else if s.schedUp then some { s with schedUp := false }
    else some ({ s with journal := s.journal.filter fun r => !bad.contains r.jseq } : State).takeOver)

end Sys2Proof.Machine
end

