-- ==== Sys2Proof/Machine/Slab.lean ====
section
/-! DEFINITION. The bytes of a save slab (R251, R266, R316, R373, R374). -/

namespace Sys2Proof.Machine

/-- Bytes at an offset. -/
abbrev Piece := Nat × List Byte

/-- n little-endian bytes of a value at an offset. -/
def piece (off n v : Nat) : Piece := (off, leBytes n v)

/-- Values of n bytes, a stride apart. -/
def pieces64 (off n stride : Nat) (vs : List Nat) : List Piece := vs.zipIdx.map fun v => piece (off + stride * v.2) n v.1

/-- Pack fields: value and width, lowest first. -/
def packBits : List (Nat × Nat) → Nat
  | [] => 0
  | (v, w) :: r => v % 2 ^ w + 2 ^ w * packBits r

/-- Why a slab was written: 1 pre-emption, 2 forced halt, 3 trap, 4 monitor, 5 thermal (R373). -/
def saveReason (g : Gang) : Nat :=
  match g.stop with
  | .haltSent .monitor => 4
  | .haltSent .thermal => 5
  | .haltSent _ => if g.ext then 2 else 1
  | _ => 3

/-- The gang's cause, where it failed. -/
def saveCause (g : Gang) : Nat :=
  match g.stop with
  | .failed c => c
  | .haltSent .monitor => 0x1E
  | _ => 0

/-- A loop level (R373). -/
def LoopLevel.pack (l : LoopLevel) : Nat := packBits [(l.index, 32), (l.limit, 32), (l.entry, 6), (l.kind, 2), (1, 1), (0, 23), (l.trips, 32)]

/-- Offsets 0x0000 to 0x06FF: the sequencer's part (R373). -/
def Gang.pieces (g : Gang) (x : Seat) (count : Nat) : List Piece :=
  let d := match g.delay with
    | some d => (frame2 d.taken d.remain d.target 0).toNat / 2 ^ 32
    | none => 0
  [piece 0 8 (packBits [(saveReason g, 8), (0, 1), (if g.ext then 1 else 0, 1), (0, 6), (saveCause g, 8)]),
   piece 8 8 (packBits [(g.pc, 24), (0, 8), (g.rep, 32)]), piece 0x10 8 d, piece 0x18 8 g.vote.toNat,
   piece 0x20 8 x.gangcfg.toNat, piece 0x28 8 count] ++
  pieces64 0x40 16 16 (g.loops.reverse.map LoopLevel.pack) ++
  (g.handlers.map fun h => piece (0xC0 + 4 * h.1) 4 (h.2 % 2 ^ 24 + 2 ^ 31)) ++
  pieces64 0x200 8 8 (g.g.toList.map (·.toNat)) ++ pieces64 0x300 64 64 (g.h.toList.map (·.toNat))

/-- Offsets 0x0700 to 0x2FFF: registers, counters, latched causes (R373). -/
def Seat.regPieces (x : Seat) (ext : Bool) : List Piece :=
  let f := x.sys.frame
  let pend := if ext then x.regs.fmtPend else []
  pieces64 0x700 8 8 (x.regs.s.toList.map (·.toNat)) ++
  [piece 0x800 8 x.regs.p.toNat, piece 0x808 8 x.regs.depth, piece 0x810 8 x.regs.fmt.toNat,
   piece 0x818 8 (x.skipDepth % 16 + x.skipLevel % 16 * 256)] ++
  pieces64 0x820 16 16 (pend.map fun w => packBits [(w.1.toNat, 64), (w.2, 3), (0, 5), (1, 1)]) ++
  pieces64 0x860 8 8 [if x.sys.chk then 1 else 0, x.sys.hndlbase.toNat, x.regs.rbq.length, x.regs.seed.toNat,
    x.regs.genN.toNat, x.sys.substcnt.toNat, f.cause.toNat, f.f0.toNat, f.f1.toNat, f.f2.toNat, f.f3.toNat] ++
  pieces64 0x8C0 8 8 (x.regs.mask.toList.map (·.toNat)) ++ pieces64 0x900 256 256 (x.regs.v.toList.map (·.toNat)) ++
  pieces64 0x2900 64 64 (x.regs.rbq.map (·.toNat)) ++
  pieces64 0x2D00 16 16 (x.sync.bars.map fun b => packBits [(b.x.toNat, 32), (b.n.toNat, 32), (b.b.toNat, 32)]) ++
  pieces64 0x2E00 4 4 (x.sync.sems.map (·.toNat)) ++
  pieces64 0x2F00 16 16 (x.copy.chans.toList.map fun c => c.issued.toNat + c.w.toNat * 2 ^ 64) ++
  pieces64 0x2F80 32 32 ((x.sys.latched.take 4).map fun c => packBits [(c.cause.toNat, 64), (c.f0.toNat, 64), (c.f1.toNat, 64)])

/-- A pending flip: the value and the issue cycles left, 8 right after the bundle that armed it (R373, R383). -/
def Seat.flipWordOf (x : Seat) : Nat :=
  match x.sys.fiPend with
  | some (v, due) => packBits [(v.toNat, 25), (0, 7), (due + 1 - x.cycle, 4), (1, 1)]
  | none => 0

/-- Offsets 0x3000 to 0x30FF; THRSTAT with the throttle level of the seat's die pair (R373, R399). -/
def Seat.sysPieces (x : Seat) (ext : Bool) (level : Nat) : List Piece :=
  (if ext then pieces64 0x3000 16 16
      (x.standing.toList.map fun o => packBits [(o.word.toNat, 32), (o.lit.toNat, 32), (o.acc.toNat, 32), (o.bar.toNat, 4)])
    else []) ++
  [piece 0x3080 8 (x.sys.thrstat ||| BitVec.ofNat 64 (level * 2 ^ 16)).toNat, piece 0x3088 8 (x.sys.ensample &&& (0x7F03F : Word64)).toNat,
   piece 0x3090 8 x.sys.fiLatch.toNat, piece 0x3098 8 x.flipWordOf]

/-- The register operands as read at issue, and the data bytes, of a deferred message (R373, log entry 11). -/
def Msg.operands (m : Msg) : Nat × Nat × List Byte :=
  match m.body with
  | .store _ bs => (m.op0.toNat, m.op1.toNat, bs.map (·.2))
  | .amo _ _ _ v c _ _ => (v.toNat, c.toNat, [])
  | .lattice _ _ v => (v.toNat, 0, [])
  | _ => (m.op0.toNat, m.op1.toNat, [])

/-- Offsets 0x3100 to 0x453F: the release queue (R280, R293, R373). -/
def Seat.relPieces (x : Seat) : List Piece :=
  let ms := x.sync.relq.filterMap fun d => match d with | .msg m => some m | _ => none
  let scope := x.sync.relq.findSome? fun d => match d with | .release r => some r.scope | _ => none
  piece 0x3100 8 (packBits [(ms.length, 5), (0, 3), (scope.getD 0, 3), (if scope.isSome then 1 else 0, 1)]) ::
  (ms.zipIdx.map fun m =>
    let o := m.1.operands
    [piece (0x3140 + 320 * m.2) 32
      (packBits [(m.1.word.toNat, 32), (m.1.lit.toNat, 32), (m.1.ea.toNat, 64), (o.1, 64), (o.2.1, 64)]),
     (0x3140 + 320 * m.2 + 64, o.2.2.take 256)]).flatten

/-- POS and DONE of an engine command: a collective's position and the bytes sent into it, the last one in full once all is sent;
the bytes that an MCST has sent; else the beginning (R266). -/
def Seat.posDone (x : Seat) (m : Cmd) : Nat × Nat :=
  if m.op.collective then
    if m.pos < m.ranksN then (m.pos, m.sub) else (m.ranksN - 1, x.sendSize m ((m.rank + (m.ranksN - 1)) % m.ranksN))
  else if m.op = .rrot then (0, if m.pos = 1 then m.len else 0)
  else if m.op = .mcst then (0, m.done)
  else (0, 0)

/-- A reissue record of a copy or engine command (R251, R266). -/
def Seat.cmdRecord (x : Seat) (m : Cmd) : List Byte :=
  let tail := [(1, 1), (if m.fault.isSome then 1 else 0, 1), (0, 11), ((m.fault.map (·.1)).getD 0, 8), (m.op.code, 4), (m.ch, 3),
    (x.snapshots.idxOf m.snap, 4)]
  if m.op.isCopy then
    leBytes 32 (packBits (tail ++ [(m.p, 32), (m.g, 64), (m.ctl.toNat, 32), (m.done, 32), (m.start, 64)]))
  else
    leBytes 64 (packBits (tail ++
      [(0, 206), (m.phase, 2), ((x.posDone m).1, 16), (m.ctl.toNat, 32), ((x.posDone m).2, 32), (m.p, 64), (m.g, 64), (m.start, 64)]))

/-- A wait record (R316). -/
def Wait.record (w : Wait) : List Byte :=
  leBytes 32 (packBits [(1, 1), (0, 20), (0, 4), (0, 10), (if w.lto then 1 else 0, 1), (if w.lld then 1 else 0, 1), (0, 2), (w.sem, 6),
    (w.pad, 19), (if w.lld then 0 else w.deadline, 64), (w.va, 64), (if w.lld then 0 else w.thr.toNat, 64)])

/-- Offsets 0x5000 to 0x73FF: records in channel order, each channel's in issue order, then waits; snapshots (R373). -/
def Seat.recordPieces (x : Seat) : List Piece :=
  let cmds := ((List.range 8).map fun c => x.copy.cmds.filter (·.ch == c)).flatten
  (0x5000, ((cmds.map x.cmdRecord) ++ x.copy.waits.map Wait.record).flatten) ::
  pieces64 0x7000 64 64 (x.snapshots.map (·.toNat))

/-- A beat of the port record: control bytes, edges, scales (R373). -/
def Seat.beatPieces (x : Seat) (off : Nat) (l : Landing) (b : Beat) : List Piece :=
  [piece off 16 (packBits [(1, 1), (l.issued + 6 - x.cycle, 3), (b.bank, 2), ((b.word.extractLsb' 23 6).toNat, 6),
      ((b.word.extractLsb' 4 5).toNat, 5), (b.h, 6), ((BitVec.ofInt 11 b.xadd).toNat, 11)]),
   piece (off + 16) 160 b.a.toNat, piece (off + 176) 256 b.b.toNat, piece (off + 432) 128 b.scales.toNat]

/-- Offsets 0x7400 to 0x87FF: edges, bitmap, scale queue, port record (R203, R219, R220, R373). -/
def Seat.matPieces (x : Seat) : List Piece :=
  let m := x.mat
  let beats := x.landings.filterMap fun l => match l.eff with | .beat b => some (l, b) | _ => none
  [piece 0x7400 128 m.a.toNat, piece 0x7480 128 m.b.toNat, piece 0x7500 160 m.sa.toNat, piece 0x7600 256 m.sb.toNat,
   piece 0x7700 64 (m.bitmapNext.getD m.bitmap).toNat, piece 0x7740 8 m.kpos, piece 0x7748 8 m.scales.length] ++
  pieces64 0x7780 128 128 (m.scales.map fun e => e.2.toNat) ++
  ((beats.take 5).zipIdx.map fun b => x.beatPieces (0x7980 + 640 * b.2) b.1.1 b.1.2).flatten

def Owner.code : Owner → Nat
  | .thread => 0
  | .engine => 1
  | .returning _ _ => 2

/-- Bits of a list, two for each. -/
def packOwners : List Owner → Nat
  | [] => 0
  | o :: r => o.code + 4 * packOwners r

/-- Offsets 0x8800 to the pads: owner states, count, poison marks, pad bytes (R373). -/
def Seat.padPieces (x : Seat) : List Piece :=
  [piece 0x8800 32 (packOwners x.pads.owner), piece 0x8820 8 x.pads.count,
   piece 0x8C00 1024 (x.pads.poison.foldl (fun n g => n + 2 ^ g) 0),
   (0x9000, x.padBytes 0 (4096 * x.pads.count))]

/-- Banks stand after the pads (R373). -/
def bankBase (pads : Nat) : Nat := 0x9000 + 0x1000 * pads

/-- A bank: status word, h, checksum vectors, entries in the form of R38. -/
def Bank.pieces (k : Bank) (off : Nat) : List Piece :=
  [piece off 8 k.status.toNat, piece (off + 8) 8 k.h] ++
  ([k.cc, k.rc, k.mc, k.mr, k.dc, k.dr, k.kc, k.kr].zipIdx.map fun v =>
    pieces64 (off + 0x800 + 256 * v.2) 4 4 (v.1.toList.map (·.toNat))).flatten ++
  k.entries.map fun e => piece (off + 0x1000 + 16 * e.1) 16 e.2.toNat

def Seat.bankPieces (x : Seat) : List Piece :=
  (x.mat.banks.zipIdx.map fun k => k.1.pieces (bankBase x.pads.count + 0x11000 * k.2)).flatten

/-- Offset of the commit word (R373, R374). -/
def Seat.commitAt (x : Seat) : Nat := bankBase x.pads.count + 0x11000 * x.mat.banks.length

/-- The commit word: its mark, and the save count (R374). -/
def commitWord (count : Nat) : Nat := 0x5A7E0001 + count % 2 ^ 32 * 2 ^ 32

/-- A slab's bytes in ascending offset, gaps zero, the commit word last (R373 to R375). -/
def Seat.slabPieces (x : Seat) (g : Gang) (count level : Nat) : List Piece :=
  g.pieces x count ++ x.regPieces g.ext ++ x.sysPieces g.ext level ++ x.relPieces ++ x.recordPieces ++ x.matPieces ++ x.padPieces ++
  x.bankPieces ++ [piece x.commitAt 64 (commitWord count)]

/-- A seat's slab is written (R375). -/
def State.writeSlab (s : State) (x : Seat) (g : Gang) (count : Nat) : State :=
  let at' := x.slab
  let last := at' + x.commitAt + 64
  let old := s.hbm.filter fun c => c.1 < at' || last ≤ c.1
  { s with
    hbm := (x.slabPieces g count (s.power.level.getD x.die 0)).foldl (fun m p => Mem.putAll m (at' + p.1) p.2) old
    hbmPoison := s.hbmPoison.filter fun k => 64 * k < at' || last ≤ 64 * k }

/-- The commit word of a seat's slab matches a save count (R374). -/
def State.committed (s : State) (x : Seat) (count : Nat) : Bool :=
  leNat (Mem.bytes s.hbm (x.slab + x.commitAt) 8) == commitWord count

end Sys2Proof.Machine
end

