-- ==== Sys2Proof/Machine/Reload.lean ====
section
/-! DEFINITION. What a resumption reads from a save slab (R38, R182, R225, R266, R373, R374, R376). -/

namespace Sys2Proof.Machine

/-- Bytes of a slab, by offset, that are not zero. -/
def State.slabCells (s : State) (x : Seat) : List Host.Cell :=
  (s.hbm.filter fun c => x.slab ≤ c.1 && c.1 < x.slab + x.commitAt + 64).map fun c => (c.1 - x.slab, c.2)

/-- A little-endian number of n bytes at an offset. -/
def slabNat (cs : List Host.Cell) (off n : Nat) : Nat :=
  (cs.filter fun c => off ≤ c.1 && c.1 < off + n).foldl (fun v c => v + c.2.toNat * 256 ^ (c.1 - off)) 0

/-- Numbers of n bytes, a stride apart. -/
def slabNats (cs : List Host.Cell) (off n stride count : Nat) : List Nat :=
  (List.range count).map fun i => slabNat cs (off + stride * i) n

def slabWord (cs : List Host.Cell) (off : Nat) : Word64 := BitVec.ofNat 64 (slabNat cs off 8)

/-- Registers, mask stack, random bits and pending FMT writes; a depth outside 1 to 8 is brought into it (R182, R373). -/
def Regs.reload (cs : List Host.Cell) (ext : Bool) : Regs where
  s := Vector.ofFn fun i => slabWord cs (0x700 + 8 * i.val)
  p := BitVec.ofNat 8 (slabNat cs 0x800 1) ||| 1
  v := Vector.ofFn fun i => BitVec.ofNat 2048 (slabNat cs (0x900 + 256 * i.val) 256)
  mask := Vector.ofFn fun i => slabWord cs (0x8C0 + 8 * i.val)
  depth := max 1 (min 8 (slabNat cs 0x808 8))
  fmt := slabWord cs 0x810
  fmtPend :=
    if ext then
      ((slabNats cs 0x820 16 16 4).filter fun v => bitField v 72 1 == 1).map fun v =>
        (BitVec.ofNat 64 (bitField v 0 64), bitField v 64 3)
    else []
  rbq := (slabNats cs 0x2900 64 64 (min 16 (slabNat cs 0x870 8))).map (BitVec.ofNat 512)
  seed := slabWord cs 0x878
  genN := slabWord cs 0x880

/-- System registers; those without a place in the slab hold what they hold at dispatch (R373, log entry 11). -/
def Sys.reload (y : Sys) (cs : List Host.Cell) (cycle : Nat) : Sys :=
  let flip := slabNat cs 0x3098 8
  { y with
    chk := slabNat cs 0x860 8 % 2 == 1, monlimit := Sys.atDispatch.monlimit, monCount := 0
    frame :=
      { cause := slabWord cs 0x890, f0 := slabWord cs 0x898, f1 := slabWord cs 0x8A0, f2 := slabWord cs 0x8A8
        f3 := slabWord cs 0x8B0 }
    hndlbase := slabWord cs 0x868, substcnt := BitVec.ofNat 32 (slabNat cs 0x888 8), fiAcc := if flip.testBit 36 then BitVec.ofNat 64 (bitField flip 0 25) else 0
    fiLatch := slabWord cs 0x3090
    fiPend := if flip.testBit 36 then some (BitVec.ofNat 64 (bitField flip 0 25), cycle + bitField flip 32 4 - 1) else none
    ensample := slabWord cs 0x3088, sampled := none, thrstat := slabWord cs 0x3080 &&& ~~~(0x70000 : Word64)
    latched := y.latched.zipIdx.map fun f =>
      if f.2 < 4 then
        let at' := 0x2F80 + 32 * f.2
        { f.1 with cause := slabWord cs at', f0 := slabWord cs (at' + 8), f1 := slabWord cs (at' + 16) }
      else f.1 }

/-- Edges, bitmap, kpos and scale edges (R203, R219). -/
def Mat.reload (m : Mat) (cs : List Host.Cell) : Mat :=
  { m with
    a := BitVec.ofNat 1024 (slabNat cs 0x7400 128), b := BitVec.ofNat 1024 (slabNat cs 0x7480 128)
    sa := BitVec.ofNat 1280 (slabNat cs 0x7500 160), sb := BitVec.ofNat 2048 (slabNat cs 0x7600 256)
    bitmap := BitVec.ofNat 512 (slabNat cs 0x7700 64), bitmapNext := none, kpos := slabNat cs 0x7740 8
    scales := m.scales.zipIdx.map fun e => (e.1.1, BitVec.ofNat 1024 (slabNat cs (0x7780 + 128 * e.2) 128)) }

/-- A bank from its status word, vectors and entries (R38, R225). -/
def Bank.reload (k : Bank) (cs : List Host.Cell) (off : Nat) : Bank :=
  let v := slabNat cs off 8
  let vec (i : Nat) : Vector Word32 64 := Vector.ofFn fun j => BitVec.ofNat 32 (slabNat cs (off + 0x800 + 256 * i + 4 * j.val) 4)
  let area := (cs.filter fun c => off + 0x1000 ≤ c.1 && c.1 < off + 0x11000).map fun c => (c.1 - (off + 0x1000), c.2)
  let entry (i : Nat) : Nat × Acc72 := (i, BitVec.ofNat 72 (slabNat area (16 * i) 9))
  let mode : BankMode := match v % 4 with | 0 => .unset | 1 => .float | 2 => .int | _ => .intScaled
  { k with
    entries := ((area.map fun c => c.1 / 16).eraseDups.map entry).filter fun e => e.2 != 0
    h := slabNat cs (off + 8) 8, mode := mode
    rw := match bitField v 40 2 with | 0 => 0 | 1 => 64 | 2 => 32 | _ => 16
    sat := v.testBit 2, cls := bitField v 6 2, why := bitField v 3 3, frow := bitField v 24 8, fcol := bitField v 32 8
    ndrn := bitField v 42 7, fix := v.testBit 49, ovr := v.testBit 50
    cc := vec 0, rc := vec 1, mc := vec 2, mr := vec 3, dc := vec 4, dr := vec 5, kc := vec 6, kr := vec 7 }

/-- Pads: bytes, poison marks, owner states; a RETURNING pad waits for what it waited for. Every word is written, and its parity with
it (R161, R177, R179). -/
def Pads.reload (p : Pads) (cs : List Host.Cell) : Pads :=
  let owners := slabNat cs 0x8800 32
  let last := 0x9000 + 4096 * p.count
  { p with
    bytes := (cs.filter fun c => 0x9000 ≤ c.1 && c.1 < last).map fun c => (c.1 - 0x9000, c.2)
    upset := []
    poison := (List.range (64 * p.count)).filter fun g => (slabNat cs (0x8C00 + g / 8) 1).testBit (g % 8)
    owner := p.owner.zipIdx.map fun o =>
      match bitField owners (2 * o.2) 2 with
      | 0 => .thread
      | 1 => .engine
      | _ => o.1 }

/-- Barriers, semaphores. -/
def Sync.reload (y : Sync) (cs : List Host.Cell) : Sync :=
  { y with
    sems := (slabNats cs 0x2E00 4 4 y.sems.length).map (BitVec.ofNat 32)
    bars := (slabNats cs 0x2D00 16 16 y.bars.length).map fun v =>
      { x := BitVec.ofNat 32 (bitField v 0 32), n := BitVec.ofNat 32 (bitField v 32 32), b := BitVec.ofNat 32 (bitField v 64 32) } }

/-- Where the record of each command stands, by serial number, and where those of the waits begin (R373). -/
def Seat.recordPlaces (x : Seat) : List (Nat × Nat) × Nat :=
  (((List.range 8).map fun c => x.copy.cmds.filter (·.ch == c)).flatten).foldl
    (fun r m => (r.1 ++ [(m.serial, r.2)], r.2 + 32 * m.op.entries)) ([], 0x5000)

/-- A command from its reissue record and its snapshot; what no field holds is as it was (R251, R266; log entry 11). -/
def Seat.reloadCmd (x : Seat) (cs : List Host.Cell) (m : Cmd) : Cmd :=
  let off := ((x.recordPlaces.1.find? (·.1 == m.serial)).map (·.2)).getD 0x5000
  let v := slabNat cs off (32 * m.op.entries)
  let k : Cmd := { m with
    ch := bitField v 25 3, snap := if m.op = .rrot then m.snap else BitVec.ofNat 512 (slabNat cs (0x7000 + 64 * bitField v 28 4) 64)
    fault := if v.testBit 1 then some (bitField v 13 8, (m.fault.map (·.2)).getD 0) else none }
  if m.op.isCopy then
    { k with
      p := bitField v 32 32, g := bitField v 64 64, ctl := BitVec.ofNat 32 (bitField v 128 32), done := bitField v 160 32
      start := bitField v 192 64 }
  else
    let n : Cmd := { k with
      ctl := BitVec.ofNat 32 (bitField v 256 32), p := bitField v 320 64, g := bitField v 384 64, start := bitField v 448 64 }
    if m.op = .mcst then { n with done := bitField v 288 32 }
    else if m.op.collective && m.started then
      let pos := bitField v 240 16
      let sub := bitField v 288 32
      let past := pos != 0 && x.sendSize m ((m.rank + pos) % m.ranksN) ≤ sub
      { n with phase := bitField v 238 2, pos := if past then pos + 1 else pos, sub := if past then 0 else sub }
    else n

/-- A wait from its record (R316). -/
def Wait.reload (w : Wait) (cs : List Host.Cell) (off : Nat) : Wait :=
  let v := slabNat cs off 32
  { w with
    lto := v.testBit 35, lld := v.testBit 36, sem := bitField v 39 6, pad := bitField v 45 19, deadline := bitField v 64 64
    va := bitField v 128 64, thr := BitVec.ofNat 64 (bitField v 192 64) }

/-- A deferred message: slot word, literal, target address, register operands, data (R280, R373). -/
def Msg.reload (m : Msg) (cs : List Host.Cell) (off : Nat) : Msg :=
  let v := slabNat cs off 32
  let a : Word64 := BitVec.ofNat 64 (bitField v 128 64)
  let b : Word64 := BitVec.ofNat 64 (bitField v 192 64)
  let k : Msg := { m with
    word := BitVec.ofNat 32 (bitField v 0 32), lit := BitVec.ofNat 32 (bitField v 32 32), ea := BitVec.ofNat 64 (bitField v 64 64) }
  match m.body with
  | .store d bs => { k with
      op0 := a, op1 := b
      body := .store d (bs.zipIdx.map fun c => (c.1.1, BitVec.ofNat 8 (slabNat cs (off + 64 + c.2) 1))) }
  | .amo d n f _ _ e sc => { k with body := .amo d n f a b e sc }
  | .lattice op va _ => { k with body := .lattice op va a }
  | _ => { k with op0 := a, op1 := b }

/-- The release queue: the pending release's scope, and the messages, of which i come before (R293, R373). -/
def reloadQueue (cs : List Host.Cell) : Nat → List Deferred → List Deferred
  | _, [] => []
  | i, .msg m :: r => .msg (m.reload cs (0x3140 + 320 * i)) :: reloadQueue cs (i + 1) r
  | i, .release r :: l => .release { r with scope := bitField (slabNat cs 0x3100 8) 8 3 } :: reloadQueue cs i l

/-- The beats of the port record, of which i come before: bank, h, applied exponent, edges, scales, from which the products are
formed again (R52, R220, R373). -/
def reloadBeats (cs : List Host.Cell) : Nat → List Landing → List Landing
  | _, [] => []
  | i, l :: r =>
    match l.eff with
    | .beat b =>
      let off := 0x7980 + 640 * i
      let v := slabNat cs off 16
      let b' : Beat := { b with
        bank := bitField v 4 2, h := bitField v 17 6, xadd := (BitVec.ofNat 11 (bitField v 23 11)).toInt
        a := BitVec.ofNat 1280 (slabNat cs (off + 16) 160), b := BitVec.ofNat 2048 (slabNat cs (off + 176) 256)
        scales := BitVec.ofNat 1024 (slabNat cs (off + 432) 128) }
      { l with eff := .beat (if i < 5 then b' else b) } :: reloadBeats cs (i + 1) r
    | _ => l :: reloadBeats cs i r

/-- A member as its slab has it: what R373 gives no place comes back as the save left it (R376, log entry 11). -/
def Seat.reload (x : Seat) (cs : List Host.Cell) : Seat :=
  let cfg := slabNat cs 0x20 8
  let ext := (slabNat cs 0 8).testBit 9
  let skip := slabNat cs 0x818 8
  let sync := x.sync.reload cs
  let standing : Vector Standing 8 :=
    Vector.ofFn fun i =>
      let v := slabNat cs (0x3000 + 16 * i.val) 16
      { word := BitVec.ofNat 32 (bitField v 0 32), lit := BitVec.ofNat 32 (bitField v 32 32)
        acc := BitVec.ofNat 32 (bitField v 64 32), bar := BitVec.ofNat 4 (bitField v 96 4) }
  { x with
    e := bitField cfg 24 4, m := bitField cfg 8 8
    regs := Regs.reload cs ext, skipDepth := bitField skip 0 4, skipLevel := bitField skip 8 4
    standing := if ext then standing else Vector.replicate 8 Standing.nop
    sys := x.sys.reload cs x.cycle, sync := { sync with relq := reloadQueue cs 0 sync.relq }, pads := x.pads.reload cs
    landings := reloadBeats cs 0 x.landings
    mat := { x.mat.reload cs with
      banks := x.mat.banks.zipIdx.map fun k => k.1.reload cs (bankBase x.pads.count + 0x11000 * k.2) }
    copy := { x.copy with
      cmds := x.copy.cmds.map (x.reloadCmd cs)
      waits := x.copy.waits.zipIdx.map fun w => w.1.reload cs (x.recordPlaces.2 + 32 * w.2)
      chans := Vector.ofFn fun i =>
        { issued := slabWord cs (0x2F00 + 16 * i.val), w := slabWord cs (0x2F08 + 16 * i.val) } } }

/-- A loop level (R373). -/
def LoopLevel.unpack (l : LoopLevel) (v : Nat) : LoopLevel :=
  { l with index := bitField v 0 32, limit := bitField v 32 32, entry := bitField v 64 6, kind := bitField v 70 2, trips := bitField v 96 32 }

/-- The sequencer's part of the lead slab (R373, R376). -/
def Gang.reload (g : Gang) (cs : List Host.Cell) : Gang :=
  let pos := slabNat cs 8 8
  let d := slabNat cs 0x10 8
  { g with
    pc := bitField pos 0 24, rep := bitField pos 32 32, vote := slabWord cs 0x18
    delay := g.delay.map fun y => { y with taken := d.testBit 31, remain := bitField d 29 2, target := bitField d 0 24 }
    loops := ((slabNats cs 0x40 16 16 6).reverse.filter (·.testBit 72)).zipIdx.map fun v =>
      (g.loops.getD v.2 { index := 0, limit := 0, entry := 0, kind := 0, trips := 0, first := 0, last := 0 }).unpack v.1
    handlers := ((List.range 36).map fun c => (c, slabNat cs (0xC0 + 4 * c) 4)).filterMap fun h =>
      if h.2.testBit 31 then some (h.1, bitField h.2 0 24) else none
    g := Vector.ofFn fun i => slabWord cs (0x200 + 8 * i.val)
    h := Vector.ofFn fun i => BitVec.ofNat 512 (slabNat cs (0x300 + 64 * i.val) 64) }

end Sys2Proof.Machine
end

