-- ==== Sys2Proof/Machine/Save.lean ====
section
/-! DEFINITION. Saving a gang, resuming it, and the turn of dispatch and resumption (R251, R266, R293, R300, R316, R351,
R370, R372 to R377). -/

namespace Sys2Proof.Machine

/-! ### The save (R375) -/

/-- A message that the seat's release queue defers (R280). -/
def Seat.defers (x : Seat) (p : MsgBody → Bool) : Bool :=
  x.sync.relq.any fun d => match d with | .msg m => p m.body | .release _ => false

/-- The request of a wait, and that of a remote read, is deferred behind a release. -/
def Seat.watchDeferred (x : Seat) (w : Wait) : Bool := x.defers fun b => b == .watch w.id
def Seat.readDeferred (x : Seat) (e : RemoteEntry) : Bool :=
  x.defers fun b => match b with | .amo _ _ _ _ _ i _ => i == e.id | _ => false

/-- An LLD that still completes before the save: its deposit range is ENGINE-owned, and its request is not deferred behind a
release that only a faulted command blocks (R293, R316). One whose deposit comes after the accesses of a command that is cut, or
after an open watch that is closed, cannot complete while the gang is halted, and becomes a wait record (R164; DEDUCED, log entry
28). -/
def Seat.depositsFirst (x : Seat) : Bool :=
  x.copy.waits.any fun w => w.lld && x.engineOwned w.pad w.size && !x.watchDeferred w && x.depositTurn w w.size

/-- The seat can be saved: its accesses are performed, its remote data has arrived, its deposits and injected messages
have landed; what a blocked release defers is recorded; no word of its pads waits for a rebuild (R165, R178, R266, R293, R316). -/
def State.saveable (s : State) (x : Seat) : Bool :=
  s.quiet x && (x.remotes.all fun e => e.arrived || x.readDeferred e) && !x.depositsFirst &&
  !x.parityFails 0 (4096 * x.pads.count) && !(x.copy.cmds.any fun m => m.sent.isSome && m.fault.isNone)

/-- A command is cut at its delivered prefix: copies, ROUTE and a SENDO not yet injected begin again from there, and read afresh what
they had read beyond it; one that has delivered its last byte only completes; the collectives and RROT keep their position (R251,
R266). -/
def Cmd.cutForSave (m : Cmd) : Cmd :=
  if m.fault.isSome then m
  else match m.op with
    | .rrot | .ared | .agth => { m with cut := false }
    | .a2av => { m with cut := false, vals := [] }
    | _ => { m with started := m.started && m.done == m.len, cut := false, buf := [], vals := [], idxs := [] }

/-- A wait record: the watch is closed, an LLD reads afresh (R316). -/
def Wait.closed (w : Wait) : Wait := { w with watching := false, deposit := none }

/-- What a slab holds of a seat: every result landed, commands cut, waits closed; sticky state and pending FMT writes only
at an extended position (R186, R220, R251, R316, R373, R376). -/
def Seat.forSave (x : Seat) (ext failed : Bool) : Seat :=
  let y := x.copy.cmds.foldl (fun y m => if m.fault.isNone then y.flushTail m.serial else y) x.settleAll
  let z := if ext || failed then y else y.fmtDue.applyFmt
  { z with
    standing := if ext then z.standing else Vector.replicate 8 Standing.nop
    copy := { z.copy with cmds := z.copy.cmds.map Cmd.cutForSave, waits := z.copy.waits.map Wait.closed }
    sys := { z.sys with ensample := z.sys.ensample &&& (0x7F03F : Word64), sampled := none }
    transit := [], queue := [], go := false, prepared := false, replayed := false, skinked := false, held := none
    started := false, run := .run, outbox := [], cur := none, unacked := z.unacked }

/-- The position as saved: sticky state only where extended (R376). -/
def Gang.forSave (g : Gang) : Gang :=
  { g with
    standing := if g.ext then g.standing else Vector.replicate 8 Standing.nop
    saveCount := g.saveCount + 1, reps := 0, waiting := false, fresh := false, flow := .seq
    landings := [] }

/-- The results of the sequencer all land (R165, R375). -/
def Gang.settleAll (g : Gang) : Gang := (g.landings.foldl Gang.apply { g with landings := [] })

/-- Every member's slab is written, its commit word last, and the saved gang is recorded (R375). -/
def State.slabs (s : State) (g : Gang) (q : Nat) (failed : Bool) : State :=
  let y := g.settleAll
  let count := y.saveCount + 1
  let members := (s.seats.filter (·.gang == g.id)).map fun x => x.forSave g.ext failed
  let t := members.foldl (fun (t : State) x => t.writeSlab x y count) s
  { t with saved := t.saved ++ [{ q := q, gang := y.forSave, seats := members, failed := failed }] }

/-- A gang that is to be saved and comes before another: by priority, then by dispatch (R377). -/
def Gang.savedBefore (y x : Gang) : Bool :=
  (match y.stop with | .asked w _ | .haltSent w => !stopEnds w | _ => false) &&
  (x.prio < y.prio || (x.prio == y.prio && y.order < x.order))

/-- After the slabs SAVED is journaled, and the gang's resources return (R375). -/
def State.endSave (s : State) (x : Gang) (l : Launch) (failed : Bool) : State :=
  ((s.slabs x l.q failed).journalise 4 l.q l.entry 0 0 x.id).reclaim x.id

/-- Every member has halted at the marker. One that trapped before it stops the gang for its trap, which the pre-emption yields to
(R111, R364). -/
def State.allHalted (s : State) (g : Nat) : Bool := (s.seats.filter (·.gang == g)).all fun y => y.run == .marked

/-- SAVE: a halted gang is saved and leaves its seats; one that failed or hung is saved for the host to read, and completes (R96,
R372, R375). The monitor and the thermal save act without the scheduler, the latter in its order (R361, R377); with the
buffer of take-over full a completing gang waits. -/
def execSave (g : Nat) (s : State) : Out :=
  eventOut s do
    let x ← s.gang? g
    let l ← s.launches.find? (·.num == x.launch)
    if s.cursor.isSome || !s.allStopped g || !((s.seats.filter (·.gang == g)).all s.saveable) then none
    let full := !s.schedUp && 256 ≤ s.held.length
    match x.stop with
    | .haltSent .cancel | .haltSent .kill => none
    | .haltSent .monitor => if full then none else some ((s.endSave x l true).conclude l 3 0x1E x.forced)
    | .haltSent why =>
      if !s.allHalted g || (!s.schedUp && why != .thermal) || (why == .thermal && s.gangs.any fun y => y.savedBefore x) then none
      else
        let mark (m : Launch) : Launch := if m.num == l.num then { m with at' := .saved g } else m
        let t := s.endSave x l false
        some { t with launches := t.launches.map mark }
    | .failed c => if !s.schedUp then none else some ((s.endSave x l true).conclude l 2 c x.forced)
    | _ => none

/-! ### Placement of a saved gang (R376) -/

/-- The ascending choices of j numbers out of a list, in lexicographic order. -/
def choices : Nat → List Nat → List (List Nat)
  | 0, _ => [[]]
  | _ + 1, [] => []
  | j + 1, a :: r => (choices j r).map (a :: ·) ++ choices (j + 1) r

/-- The saved members that stood on a die pair, in member order. -/
def SavedGang.on (v : SavedGang) (die : Nat) : List Seat := v.seats.filter (·.die == die)

/-- The clusters they stood in, in ascending order. -/
def clustersOf (xs : List Seat) : List Nat := sortNat (xs.map (·.cluster))

/-- The tiles that members take when the clusters they stood in go to new ones. -/
def shapeTiles (die : Nat) (xs : List Seat) (new : List Nat) : List Nat :=
  xs.map fun x => 64 * die + 8 * (new.getD ((clustersOf xs).idxOf x.cluster) 0) + x.slotNo

/-- What a choice of clusters adds to the differences of the stacked pairs, seat by seat (R394). -/
def State.addedCharge (s : State) (w : Nat) : List Nat → List Nat → Int
  | _, [] => 0
  | placed, t :: r => s.rise placed w t + s.addedCharge w (placed ++ [t]) r

/-- Tiles on a die pair for the members of one: each old cluster goes to one cluster, in ascending order, every slot kept;
charge balance chooses among the choices that fit (R376). -/
def State.reshape (s : State) (die : Nat) (xs : List Seat) : Option (List Nat) :=
  let fits (ts : List Nat) : Bool := (ts.zip xs).all fun p => s.fits p.1 p.2.share
  let all := ((choices (clustersOf xs).length (List.range 8)).map (shapeTiles die xs)).filter fits
  let w := (xs.head?.map fun x => x.share.weight).getD 1
  match all with
  | [] => none
  | a :: r => some (r.foldl (fun b c => if s.addedCharge w [] c < s.addedCharge w [] b then c else b) a)

/-- The die pairs of a resumption: the saved ones, or d live ones of the mask where one of them is harvested (R376). -/
def State.resumeDies (s : State) (v : SavedGang) (l : Launch) : Option (List Nat) :=
  if v.gang.dies.all fun d => s.diepres.getLsbD d then some v.gang.dies
  else
    let aff := ((s.graphHead l.graph).bind fun h => s.nodeRec h l.node).map (·.aff)
    let mask := s.maskOf l (aff.getD 0)
    if mask.length < v.gang.d then none else some (sortNat (s.chooseDies mask v.gang.d))

/-- Tiles for every saved member, in their order. -/
def State.resumeTiles (s : State) (v : SavedGang) (dies : List Nat) : Option (List Nat) := do
  let parts ← (v.gang.dies.zip dies).mapM fun p => s.reshape p.2 (v.on p.1)
  return parts.flatten

/-- The saved members, die pair by die pair in the order of their die indices. -/
def SavedGang.members (v : SavedGang) : List Seat := (v.gang.dies.map v.on).flatten

/-! ### Resumption (R376) -/

/-- The new die pair's replica joins the task's regions with that of the die pair of the save, or with every live one where
that is harvested (R300). -/
def State.joinReplicas (s : State) (rs : List Region) (old new : Nat) : State :=
  let from' := if s.diepres.getLsbD old then [old] else livePairs s
  if old = new then s
  else
    s.cells.foldl (fun (t : State) c =>
      match rs.find? (·.num == c.region) with
      | some r =>
        if from'.contains c.die && !t.cellBad new r.num c.idx then
          t.raise new r c.idx (joinCell r.type (t.cell new r c.idx) c.val)
        else t
      | none => t) s

/-- A deferred message between members at their new places (R293). -/
def Deferred.moved (f : Nat → Nat) : Deferred → Deferred
  | .msg m => .msg { m with src := f m.src, dst := f m.dst }
  | d => d

/-- What waits in a release queue gets serial numbers of the resumption: it comes after what others have sent by then (R289, R293). -/
def renumber : Nat → List Deferred → List Deferred
  | _, [] => []
  | n, .msg m :: r => .msg { m with serial := n } :: renumber (n + 1) r
  | n, .release r :: l => .release { r with below := n } :: renumber n l

/-- What a RETURNING pad waits for, at the new places of its seats (R161). -/
def Owner.moved (f : Nat → Nat) : Owner → Owner
  | .returning b os => .returning b (os.map fun o => (f o.1, o.2))
  | o => o

/-- A member at its new place: pads, positions and tables afresh, an entry for every command, an acquire before its first bundle; f
gives the new place of each member (R251, R293, R376). -/
def Seat.resumed (x : Seat) (f : Nat → Nat) (cfg : GangCfg) (phys : List Nat) (stride first : Nat) (es : List Extent) : Seat :=
  { x with
    id := f x.id, cfg := cfg, pads := { x.pads with phys := phys, owner := x.pads.owner.map (Owner.moved f) }, extents := es
    copy := { x.copy with cmds := x.copy.cmds.map fun m => { m with entry := true } }
    sync := { x.sync with
      wheelStride := stride, wheelFirst := first, acq := true, relq := x.sync.relq.map (Deferred.moved f) } }

/-- A wait record is reissued: its watch goes to the unit, but a deadline that has passed deposits at once with ST = 2, or raises
POISON where the cell is poisoned; one that a release still defers goes with it (R293, R306, R315, R316). -/
def State.reissueWait (s : State) (k : Nat) (w : Wait) : State :=
  match s.seat? k with
  | none => s
  | some x =>
    if x.watchDeferred w then s
    else match s.cellAt x w.va with
      | some (r, j, _) =>
        if !w.lld && w.deadline != 0 && w.deadline ≤ s.chorus then
          (if s.cellBad x.die r.num j then s.putSeat (x.refuseWait w 0x13) else s.putSeat (s.expire x w r.type (s.cell x.die r j)))
        else s.watch x w
      | none => s.watch x w

/-- A member's commands at its resumption: one that a rank disagreed with meanwhile ends, and a collective passes the ranks that can no
longer take what it sends (R257, R260, R266). -/
def State.meetAgain (s : State) (k : Nat) : State :=
  match s.seat? k with
  | none => s
  | some x => x.copy.cmds.foldl (fun t m =>
      if m.fault.isSome || !m.started || !m.op.collective then t
      else if m.odd then (match t.seat? k with | some y => t.endCmd y m 0x21 (shapeBase m.snap) | none => t)
      else t.advance k m.serial (m.ranksN + 1)) s

/-- A resumed gang and its placement, if everything it needs is free. -/
def State.replace (s : State) (v : SavedGang) (l : Launch) : Option (Placement × List Region × List Extent) := do
  let h ← s.graphHead l.graph
  let n ← s.nodeRec h l.node
  let k ← s.nodeKernel h n
  let dies ← s.resumeDies v l
  let tiles ← s.resumeTiles v dies
  let (sd, sn) ← s.freeSeqr dies
  let cnt := (v.seats.head?.map (·.sync.wheelCnt)).getD 0
  let wheels ← freeWheels cnt tiles.length s.wheelHeld
  let rs := s.regionsOf l (s.decls h) k
  let es ← s.extentTable (s.rangesOf h k) rs
  return ({ dies := dies, seqDie := sd, seqNum := sn, tiles := tiles, wheels := wheels }, rs, es)

/-- The saved members as their slabs have them, in the order of their die indices, and the sequencer's part from the lead slab
(R376). -/
def State.reloaded (s : State) (v : SavedGang) : Gang × List Seat :=
  let xs := v.members.map fun x => x.reload (s.slabCells x)
  (match v.members with
    | x :: _ => v.gang.reload (s.slabCells x)
    | [] => v.gang, xs)

/-- The gang stands at its saved position on its new seats; waits are registered again (R316, R376). -/
def State.restore (s : State) (v : SavedGang) (l : Launch) (p : Placement) (rs : List Region) (es : List Extent) : State :=
  let id := v.gang.id
  let cfg := p.cfg v.gang.c
  let (lead, members) := s.reloaded v
  let places := (v.members.map (·.id)).zip (p.tiles.map fun t => 4 * t + s.freeSeat t)
  let f (k : Nat) : Nat := ((places.find? (·.1 == k)).map (·.2)).getD k
  let seats := ((members.zip p.tiles).zip p.wheels).map fun t =>
    t.1.1.resumed f cfg (s.freePads t.1.2 t.1.1.pads.count) t.2.1 t.2.2 []
  let ids := seats.map (·.id)
  let queued := seats.foldl (fun n x => n + x.sync.relq.length) 0
  let numbered := (seats.foldl (fun (r : List Seat × Nat) x =>
    (r.1 ++ [{ x with sync := { x.sync with relq := renumber r.2 x.sync.relq } }], r.2 + x.sync.relq.length)) ([], s.serial)).1
  let g : Gang := { lead with
    off := none, next := none, held := none, dies := p.dies, seqDie := p.seqDie, seqNum := p.seqNum, members := ids, stop := .run, serial := 0, startAt := s.chorus
    edge := !v.gang.ext, seqTrap := none, lead := none, votePend := none }
  let mark (m : Launch) : Launch := if m.num == l.num then { m with at' := .running id } else m
  let t := s.journalise 5 l.q l.entry 0 0 id
  let u : State := { t with
    gangs := t.gangs ++ [g], seats := t.seats ++ numbered, serial := t.serial + queued, saved := t.saved.filter fun w => !(w.gang.id == id && !w.failed), resumed := t.resumed ++ [v]
    launches := t.launches.map mark, served := t.served.setIfInBounds g.prio l.q }
  let laid := ids.foldl (fun (t : State) k => t.writeExtents schedMaster k fun _ => es) (seats.foldl State.takePads u)
  let joined := (v.gang.dies.zip p.dies).foldl (fun (t : State) d => t.joinReplicas rs d.1 d.2) laid
  let granted := joined.grant p.tiles ids p.dies (!rs.isEmpty) (l.tag != 0)
  seats.foldl (fun t x => x.copy.waits.foldl (fun t w => t.reissueWait x.id w) t) (ids.foldl State.meetAgain granted)

/-- Every slab of a saved gang holds its commit word (R374). -/
def State.allCommitted (s : State) (v : SavedGang) : Bool := v.seats.all fun x => s.committed x v.gang.saveCount

/-- Some home controller that a slab lies in refuses the scheduler its reads (R24, R334). -/
def State.slabRefused (s : State) (x : Seat) : Bool :=
  let denied (t : Target) : Bool := t.isHome && !s.allows (some t) schedMaster false true
  (s.access.any fun row => row.master == schedMaster && row.target.isNone && !row.r) ||
  (s.access.any fun row => row.master == schedMaster && match row.target with
    | some t => denied t && (List.range (x.commitAt / 128 + 1)).any fun i => s.homeOf (x.slab + 128 * i) == some t
    | none => false)

/-- The first slab of a saved gang that the scheduler may not read. -/
def State.refusedSlab (s : State) (v : SavedGang) : Option Nat := (v.seats.find? s.slabRefused).map (·.slab)

/-! ### Turns (R351) -/

/-- A queue's next work can be placed now. -/
def State.workFits (s : State) (w : Work) : Bool :=
  match w with
  | .none => false
  | .resume v =>
    match s.launches.find? fun l => l.at' == .saved v.gang.id with
    | some l => (s.refusedSlab v).isNone && s.allCommitted v && (s.replace v l).isSome
    | none => false
  | .launch l => match s.verdict l with | .ends _ _ _ => true | .runs _ => true | _ => false

/-- DISPATCH (R349 to R353, R355). -/
def execDispatch (q : Nat) (s : State) : Out := schedOut s (s.dispatchIn s.workFits q)

/-- RESUMPTION: in its queue's turn, a saved gang whose slabs are committed is placed, restored and started at its saved
position; or it makes room for itself (R351, R374, R376). A slab that the scheduler may not read is a bus error, and the gang stays
saved (R24, R335). -/
def execResumption (g : Nat) (s : State) : Out :=
  eventOut s do
    let l ← s.launches.find? fun l => l.at' == .saved g
    if !s.schedUp || !s.powered || s.cursor.isSome || s.unstarted.isSome || !s.turn.contains l.q ||
        !((s.turn.takeWhile (· != l.q)).all fun p => !s.workFits (s.workOf p)) then none
    match s.workOf l.q with
    | .resume v =>
      if v.gang.id != g then none
      if let some pa := s.refusedSlab v then some (s.busError schedMaster pa)
      else if !s.allCommitted v then none
      else match s.replace v l with
      | some (p, rs, es) => some (s.restore v l p rs es)
      | none => do
        let x ← s.victim v.gang.prio
        s.request x.id .preempt
    | _ => none

end Sys2Proof.Machine
end

