-- ==== Sys2Proof/Machine/Pod.lean ====
section
/-! DEFINITION. The pod: the chorus switch and the ordered class, chorus time's synchronisation, links (R265, R298, R309,
R388, R404, R409 to R417). -/

namespace Sys2Proof.Machine

/-! ### Inputs of the switch (R414, R415) -/

/-- The inputs that feed the switch: the device's own injection, and the peer ports in use (log entry 12). -/
def State.feeds (s : State) (i : Nat) : Bool := i == 0 || s.portUsed (i - 1)

/-- Stamps of SC operations of this device that are fixed, or will be the next of their seat, and that have not reached the switch
(R297, R414). -/
def State.unsent (s : State) : List Nat :=
  (s.seats.map fun x =>
    x.sync.scStamps ++ (x.nextStamp s.floor).toList ++
      (x.copy.cmds.filter fun m => m.op == .sendo && m.sent.isNone && m.fault.isNone).filterMap (·.stamp)).flatten

/-- The watermark of an input: at the own injection point the lesser of chorus time and the smallest stamp not yet sent
(R414). -/
def State.watermark (s : State) (i : Nat) : Nat := if i = 0 then s.unsent.foldl min s.chorus else (s.input i).mark

/-- When an input's watermark last advanced; the own one is frozen by its smallest unsent stamp alone (R416). -/
def State.lastAdvance (s : State) (i : Nat) : Nat :=
  if i = 0 then max (s.input 0).advanced (s.watermark 0) else (s.input i).advanced

/-- An input lets a message go: it holds it, holds a message of a greater key, or its watermark exceeds the stamp (R415).
-/
def State.satisfies (s : State) (m : OrdMsg) (i : Nat) : Bool :=
  (s.input i).queue.contains m || ((s.input i).queue.any fun k => m.before k) || m.stamp < s.watermark i

/-- An own message goes once none of a smaller stamp can follow it from the injection point, so that keys ascend there too (R414). -/
def State.inTurn (s : State) (m : OrdMsg) : Bool := !(s.input 0).queue.contains m || s.unsent.all (m.stamp ≤ ·)

/-- An SC operation of this device with a smaller stamp is on its way to its target: the message, which comes after it in the SC order,
is not seen before it (R294). -/
def State.scBefore (s : State) (m : OrdMsg) : Bool := s.msgs.any fun q => q.stamp.any (· < m.stamp)

/-- Every input that feeds the switch lets the message go, in the order of keys and in the SC order. -/
def State.released (s : State) (m : OrdMsg) : Bool :=
  ((List.range 13).filter s.feeds).all (s.satisfies m) && s.inTurn m && !s.scBefore m

/-- A message is for a seat of this device. -/
def State.isLocal (s : State) (m : OrdMsg) : Bool := m.dest == s.devNo.getD 0

/-- The messages for seats of this device, in key order. -/
def State.localMsgs (s : State) : List OrdMsg :=
  (s.inputs.toList.map fun i => i.queue.filter s.isLocal).flatten.foldl (fun l m => insertOrd m l) []

/-- A message leaves its input. -/
def State.dropOrd (s : State) (m : OrdMsg) : State :=
  { s with inputs := s.inputs.map fun i => { i with queue := i.queue.erase m } }

/-- The sender's message is written and signalled at its receiver, or has left for a peer device, where that is yet to happen
(R265, R279). -/
def State.sentOrd (s : State) (m : OrdMsg) (peer : Bool) : State :=
  match m.src with
  | none => s
  | some (k, c) =>
    match s.seat? k with
    | none => s
    | some x =>
      match x.copy.cmds.find? (·.serial == c) with
      | none => s
      | some q =>
        s.putSeat (if peer then { x.updCmd q.serial fun q => { q with heard := [0] } with unacked := x.unacked + 1 }
          else x.deliver q 64 64)

/-! ### Delivery (R265, R298, R415) -/

/-- The first message of each seat, in key order. -/
def firstOfSeats : List OrdMsg → List Nat → List OrdMsg
  | [], _ => []
  | m :: r, seen => if seen.contains m.seat then firstOfSeats r seen else m :: firstOfSeats r (m.seat :: seen)

/-- The receiver takes a message: the seat is resident, its pad is ENGINE-owned, and hub 1 reaches it (R265, R388). -/
def State.takesOrd (s : State) (m : OrdMsg) : Bool :=
  match s.participant m.seat with
  | some y => y.engineOwned m.addr 64 && s.hubReach 1 y.die
  | none => false

/-- Input through which a message came. -/
def State.inputOf (s : State) (m : OrdMsg) : Nat := (List.range 13).findIdx fun i => (s.input i).queue.contains m

/-- This device's word on a peer's message goes back through the port it came by (R265, R335, R410). -/
def State.answerOrd (s : State) (i : Nat) (m : OrdMsg) (written : Bool) : State :=
  if i = 0 then s else s.tell (.word (i - 1) m.dev m.seq written)

/-- The sender of a message of this device ends with ACCESS (R239, R335). -/
def State.refuseOrd (s : State) (m : OrdMsg) : State :=
  match m.src with
  | none => s
  | some (k, c) =>
    match s.seat? k with
    | none => s
    | some x => match x.copy.cmds.find? (·.serial == c) with
      | some q => s.endCmd x q 0x11 m.addr
      | none => s

/-- The message is written and signalled, or the receiver's port refuses it under the master it acts for, which its sender learns
(R265, R276, R333, R335). The floor rises to the stamp (R298). -/
def State.deliverOrd (s : State) (m : OrdMsg) : State :=
  let i := s.inputOf m
  let t := { s.dropOrd m with floor := max s.floor m.stamp }
  match t.participant m.seat with
  | none => t
  | some y =>
    if !t.allows (some (.port y.die y.tile)) m.master true false then (t.answerOrd i m false).refuseOrd m
    else
      let z := y.writeBytes (cellsAt m.addr m.data)
      let w := if m.poison then z.markPoison m.addr 64 else z
      let r := match m.sig with
        | some j => w.addSem j 1
        | none => (w, false)
      let u := ((t.putSeat r.1).sentOrd m false).answerOrd i m true
      match r.2, m.src, m.sig with
      | true, some (k, c), some j =>
        match u.seat? k with
        | some x =>
          let pc := ((x.copy.cmds.find? (·.serial == c)).map (·.pc)).getD 0
          u.putSeat (x.latch 0x0E 7 pc (BitVec.ofNat 64 j))
        | none => u
      | _, _, _ => u

/-- SENDO_DELIVERY: the message of the least key that its seat takes, once every input lets it go (R415). -/
def execSendoDelivery (s : State) : Out :=
  eventOut s do
    let m ← (firstOfSeats s.localMsgs []).find? fun m => s.released m && s.takesOrd m
    some (s.deliverOrd m)

/-! ### Ports (R409, R410, R413, R414) -/

/-- The own message of the least key that can leave, none before it waits for the same port, and none that another may yet precede
(R414). -/
def State.nextOut (s : State) : Option (Nat × OrdMsg) :=
  ((s.input 0).queue.filter fun m => !s.isLocal m && s.inTurn m && !s.scBefore m).findSome? fun m => (s.portTo m.dest).map fun p => (p, m)

/-- The watermark of a port, which the own injection point alone feeds: the least of its watermark and of the stamps queued for the
port (R414). -/
def State.outMark (s : State) (p : Nat) : Nat :=
  (((s.input 0).queue.filter fun m => !s.isLocal m && s.portTo m.dest == some p).map (·.stamp)).foldl min (s.watermark 0)

/-- An input's watermark rises (R414). -/
def State.raiseMark (s : State) (i mark : Nat) : State :=
  let x := s.input i
  if x.mark < mark then { s with inputs := s.inputs.setIfInBounds i { x with mark := mark, advanced := s.chorus } } else s

/-- ORDERED_FORWARD: an own message leaves through its port (input 0), or a peer port brings a message, which carries its
watermark (R414, R415). -/
def execOrderedForward (input : Nat) (msg : PeerMsg) (s : State) : Out :=
  eventOut s (
    if input = 0 then
      match s.nextOut with
      | none => none
      | some (p, m) =>
        let t := (s.dropOrd m).sentOrd m true
        some { t with peerOut := t.peerOut ++ [.ordered p m (t.outMark p)], portSent := t.portSent.setIfInBounds p s.chorus }
    else
      let x := s.input input
      let m : OrdMsg :=
        { stamp := msg.stamp, dev := msg.dev, seq := msg.seq, dest := s.devNo.getD 0, seat := msg.seat, addr := msg.addr
          data := msg.data, poison := msg.poison, sig := msg.sig.map (·.toNat), src := none, master := portMaster (input - 1) }
      if 12 < input || !s.podOpen || !x.up || msg.data.length != 64 || msg.stamp < x.mark || msg.addr % 64 != 0 ||
          2 ^ 19 ≤ msg.addr || msg.dev == s.devNo.getD 0 || (x.queue.any fun k => !k.before m) then none
      else
        let t := s.raiseMark input (max msg.stamp msg.mark)
        let y := t.input input
        some { t with inputs := t.inputs.setIfInBounds input { y with queue := insertOrd m y.queue } })

/-- BEACON: every own port idle for 100 ns sends its watermark (input 0), or a peer port's beacon raises its input's (R414,
R417). -/
def execBeacon (input mark : Nat) (s : State) : Out :=
  eventOut s (
    if input = 0 then
      let idle := (List.range 12).filter fun p => s.portUsed p && (s.input (p + 1)).up && s.portSent.getD p 0 + 100 ≤ s.chorus
      if idle.isEmpty then none
      else some { s with
        peerOut := s.peerOut ++ idle.map fun p => .beacon p (s.outMark p)
        portSent := idle.foldl (fun v p => v.setIfInBounds p s.chorus) s.portSent }
    else if 12 < input || !s.podOpen || !(s.input input).up || mark < (s.input input).mark then none
    else some (s.raiseMark input mark))

/-- Inputs on which delivery depends and whose watermark has not advanced for 25 microseconds (R416). -/
def State.stalled (s : State) : List Nat :=
  (List.range 13).filter fun i => s.feeds i && s.lastAdvance i + 25000 ≤ s.chorus && s.localMsgs.any fun m => !s.satisfies m i

/-- ORDER_STALL: raised in the seats that wait for a message and in those with one not yet acknowledged, and reported to the
scheduler; again after a further 25 microseconds (R416). -/
def execOrderStall (s : State) : Out :=
  eventOut s (
    let is := s.stalled
    if is.isEmpty then none
    else
      let waits := (s.localMsgs.filter fun m => is.any fun i => !s.satisfies m i).map (·.seat)
      let raise (x : Seat) : Seat :=
        match x.copy.cmds.find? fun m => m.op == .sendo && m.sent.isSome && m.done < m.len && m.fault.isNone with
        | some m => x.latch 0x17 7 m.pc 0
        | none => if waits.any fun n => s.isNamed n x then x.latch 0x17 0 0 0 else x
      some { s with
        seats := s.seats.map raise
        inputs := is.foldl (fun v i => v.setIfInBounds i { v.getD i SwitchInput.reset with advanced := s.chorus }) s.inputs
        notices := s.notices ++ is.map fun i => .stall i s.chorus })

/-! ### Chorus time (R411 to R413) -/

/-- ROOT and PORT of CHPARENT. -/
def State.root (s : State) : Bool := s.chparent.getLsbD 4
def State.parentPort (s : State) : Nat := (s.chparent.extractLsb' 0 4).toNat

/-- CHSTAT as read: SYNC is 1 at the root; LOST is 1 while the parent port names none (R413). -/
def State.chstatRead (s : State) : Word64 :=
  s.chstat ||| (if s.root then 2 else 0) ||| (if !s.root && 12 ≤ s.parentPort then 1 else 0)

/-- CHORUS_SYNC: an exchange with the parent gives an offset estimate; one beyond 20 ns sets LOST. The rate follows, and
the count never steps. A device that asks through a peer port gets this one's chorus time (R410 to R412). -/
def execChorusSync (offset : Int) (s : State) (child : Option Nat := none) : Out :=
  eventOut s (
    match child with
    | some p => if s.portIn p then some (s.tell (.sync p s.chorus)) else none
    | none =>
      if s.root || !s.portIn s.parentPort then none
      else
        let lost := s.chstat.getLsbD 0 || 20 < offset.natAbs
        some { s.tell (.sync s.parentPort s.chorus) with
          chstat := (BitVec.ofInt 32 offset) ++ ((if lost then 3 else 2) : Word32) })

/-- LINK_RETRY: the flit is sent again from the retry buffer; nothing else changes (R390, R404). -/
def execLinkRetry (s : State) : Out := eventOut s (some s)

/-! ### Links (R13, R309, R388, R416) -/

/-- One name for a link. -/
def normLink : Link → Link
  | .mesh a b => .mesh (min a b) (max a b)
  | l => l

/-- A link that exists: an edge of the mesh, a hub's link to a die pair, or a peer port (R13, R409). -/
def linkExists : Link → Bool
  | .hub h d => (h == 0 && (d == 0 || d == 4)) || (h == 1 && (d == 3 || d == 7))
  | .mesh a b => a < 8 && b < 8 && (meshPath a b).length == 1
  | .peer p => p < 12

def State.linkState (s : State) (l : Link) : LinkState :=
  (s.links.find? (·.link == (normLink l))).getD
    { link := normLink l, down := false, spared := 0, half := false, retraining := false, back := 0 }

def State.putLink (s : State) (x : LinkState) : State := { s with links := s.links.filter (·.link != x.link) ++ [x] }

/-- A peer port goes up or down: its input's watermark freezes or goes on (R416). -/
def State.setPort (s : State) (l : Link) (up : Bool) : State :=
  match l with
  | .peer p => { s with inputs := s.inputs.setIfInBounds (p + 1) { s.input (p + 1) with up := up } }
  | _ => s

/-- LINK_FAULT (R309, R416). -/
def execLinkFault (l : Link) (s : State) : Out :=
  eventOut s (
    let x := s.linkState l
    if !linkExists l || x.down then none else some ((s.putLink { x with down := true }).setPort l false))

/-- LINK_REPAIR (R309, R416). -/
def execLinkRepair (l : Link) (s : State) : Out :=
  eventOut s (
    let x := s.linkState l
    if !linkExists l || !x.down then none else some ((s.putLink { x with down := false }).setPort l true))

/-- Spare lanes of a link (log entry 20). -/
def spareLanes : Nat := 1

/-- LANE_SPARE: a failed lane of a UCIe link is replaced in a retrain of 2 microseconds; with no spare lane left the link
runs at half width (R388). -/
def execLaneSpare (l : Link) (s : State) : Out :=
  eventOut s (
    match l with
    | .peer _ => none
    | .mesh _ _ | .hub _ _ =>
      let x := s.linkState l
      if !linkExists l || x.retraining || x.half then none
      else if x.spared < spareLanes then
        some (s.putLink { x with spared := x.spared + 1, retraining := true, back := s.chorus + 2000 })
      else some (s.putLink { x with half := true }))

/-- RETRAIN_END: traffic on the link goes on (R388). -/
def execRetrainEnd (l : Link) (s : State) : Out :=
  eventOut s (
    let x := s.linkState l
    if !x.retraining || s.chorus < x.back then none else some (s.putLink { x with retraining := false }))

end Sys2Proof.Machine
end

