-- ==== Sys2Proof/Machine/HostPort.lean ====
section
/-! DEFINITION. The host port and the system register blocks: flits, their answers, register reads and writes (R6, R321,
R331 to R335, R338, R340, R342, R385, R404 to R408, R413). -/

namespace Sys2Proof.Machine

/-! ### Registers of the hubs (R338, R342, R408, R409, R413) -/

/-- Bits of a 64-bit value replaced under a mask. -/
def masked (old new mask : Word64) : Word64 := (old &&& ~~~mask) ||| (new &&& mask)

/-- 64 bits of the pending-kick bitmap (R340). -/
def State.pkb (s : State) (lo : Nat) : Word64 :=
  s.queues.foldl (fun v q => if q.kicked && lo ≤ q.q && q.q < lo + 64 then v ||| (1 : Word64) <<< (q.q - lo) else v) 0

/-- DBL q as read (R340): QUEUE names q from the first, for which the spec gives no reset value (log entry 2). -/
def Queue.dbl (q : Queue) : Word64 :=
  q.seq ++ q.tail ++ (0 : BitVec 7) ++ (if q.thaw then (1 : BitVec 1) else 0) ++ (0 : BitVec 1) ++ BitVec.ofNat 7 q.q

/-- A word of a DMA window's register (R408). -/
def Window.word (w : Window) (i : Nat) : Word64 :=
  match i with
  | 0 => w.woff
  | 1 => w.wlen
  | 3 => w.hbase
  | _ => 0

/-- A register of the hub blocks: hub 0 at offset 0, hub 1 at 2^32 (R342, R405, R413). Offsets not listed read zero. -/
def State.hubReg (s : State) (off : Nat) : Word64 :=
  if off = 0x10 then s.pkb 0
  else if off = 0x18 then s.pkb 64
  else if off = 0x20 then s.diepres.setWidth 64
  else if 0x200 ≤ off ∧ off < 0x400 then ((s.wins.toList[(off - 0x200) / 32]?).map fun w => w.word (off / 8 % 4)).getD 0
  else if 0x1000 ≤ off ∧ off < 0x1400 then (s.queueOf ((off - 0x1000) / 8)).cfg
  else if 0x1400 ≤ off ∧ off < 0x1800 then (s.queueOf ((off - 0x1400) / 8)).ring
  else if 0x1800 ≤ off ∧ off < 0x1C00 then (s.queueOf ((off - 0x1800) / 8)).comp
  else if 0x1C00 ≤ off ∧ off < 0x2000 then (s.queueOf ((off - 0x1C00) / 8)).dbl
  else if off = 2 ^ 32 then s.podid
  else if off = 2 ^ 32 + 8 then s.chparent
  else if off = 2 ^ 32 + 16 then s.chstatRead
  else if 2 ^ 32 + 0x1000 ≤ off ∧ off < 2 ^ 32 + 0x1000 + 0x200 * 12 then
    let o := off - (2 ^ 32 + 0x1000)
    (s.rmap.getD (o / 0x200) 0).extractLsb' (64 * (o % 0x200 / 8)) 64
  else 0

/-- A queue takes a setting: with EN = 0 and no launch admitted every field, else EN alone; EN needs a ring of 16 to 32,768
entries (R338). -/
def State.writeQcfg (s : State) (q : Nat) (v : Word64) : State :=
  let x := s.queueOf q
  let free := !x.en && (s.outstanding q).isEmpty
  let w := if free then v &&& 0xFF00F10701 else masked x.cfg v 1
  let n := (w.extractLsb' 20 4).toNat
  let cfg := if 4 ≤ n then w else w &&& ~~~(1 : Word64)
  (s.journalise 10 q 0 0 0 cfg.toNat).putQueue { x with cfg := cfg }

/-- QRING and QCOMP take a write only while the queue is free (R338); ENTRY and ARG of its record name the register, 1 or 2, and
the value (log entry 31). -/
def State.writeRing (s : State) (q which : Nat) (v : Word64) : State :=
  let x := s.queueOf q
  if x.en || !(s.outstanding q).isEmpty then s
  else (s.journalise 10 q which 0 0 v.toNat).putQueue (if which = 1 then { x with ring := v } else { x with comp := v })

/-- A write to a hub register by the host or a hub core; read-only and unlisted ones ignore it (R6, R342, R408, R413). -/
def State.writeHub (s : State) (off : Nat) (v : Word64) : State :=
  if 0x200 ≤ off ∧ off < 0x400 then
    let i := (off - 0x200) / 32
    let w := s.wins.getD i { hbase := 0, wlen := 0, woff := 0 }
    let w' : Window := match off / 8 % 4 with
      | 0 => { w with woff := v &&& 0x7FFFFFFFFFFF }
      | 1 => { w with wlen := v }
      | 3 => { w with hbase := v }
      | _ => w
    { s with wins := s.wins.setIfInBounds i w' }
  else if 0x1000 ≤ off ∧ off < 0x1400 then s.writeQcfg ((off - 0x1000) / 8) v
  else if 0x1400 ≤ off ∧ off < 0x1800 then
    s.writeRing ((off - 0x1400) / 8) 1 (v &&& 0x1FFFFFFFFFFFFC0)
  else if 0x1800 ≤ off ∧ off < 0x1C00 then
    s.writeRing ((off - 0x1800) / 8) 2 (v &&& 0x1FFFFFFFFFFFFE0)
  else if off = 2 ^ 32 then { s with podid := v &&& 0x1FFF }
  else if off = 2 ^ 32 + 8 then { s with chparent := v &&& 0x1F, chstat := s.chstat &&& ~~~(2 : Word64) }
  else if off = 2 ^ 32 + 16 then { s with chstat := s.chstat &&& ~~~(v &&& 1) }
  else if 2 ^ 32 + 0x1000 ≤ off ∧ off < 2 ^ 32 + 0x1000 + 0x200 * 12 then
    let o := off - (2 ^ 32 + 0x1000)
    let i := 64 * (o % 0x200 / 8)
    let m := s.rmap.getD (o / 0x200) 0
    let w := (m &&& ~~~((BitVec.allOnes 64).setWidth 4096 <<< i)) ||| (v.setWidth 4096 <<< i)
    { s with rmap := s.rmap.setIfInBounds (o / 0x200) w }
  else s

/-! ### The host's flits (R404 to R407) -/

/-- A bad host flit (R405). -/
def flitBad (f : Flit) : Bool :=
  f.zero != 0 || 3 ≤ f.space.toNat || ((f.data ++ f.pad).drop (min f.len.toNat 240)).any (· != 0) ||
  (match f.kind.toNat with
    | 1 => f.len.toNat % 8 != 0 || f.len == 0 || 240 < f.len.toNat
    | 2 => 240 < f.len.toNat || f.space == 2 || (f.space == 1 && (f.addr.toNat % 8 != 0 || f.len.toNat % 8 != 0))
    | 3 => f.len == 0 || 4096 < f.len.toNat || (f.space == 1 && (f.addr.toNat % 8 != 0 || f.len.toNat % 8 != 0))
    | _ => true)

/-- The payload is what the header says: 256 bytes in all (R404). -/
def flitFormed (f : Flit) : Bool :=
  f.data.length + f.pad.length == 240 && (f.kind == 3 || f.data.length == min f.len.toNat 240)

/-- ACK with a status (R405, R406). -/
def flitAck (f : Flit) (status : Nat) : Flit :=
  { kind := 6, zero := 0, tag := f.tag, status := BitVec.ofNat 8 status, space := f.space, len := 0, addr := f.addr
    data := [], pad := List.replicate 240 0 }

def State.answer (s : State) (f : Flit) : State := { s with hostOut := s.hostOut ++ [f] }

/-- A doorbell word is latched; its PKB bit is set (R340). -/
def State.doorbell (s : State) (w : Word64) : State :=
  let q := (w.extractLsb' 0 7).toNat
  let x := s.queueOf q
  s.putQueue { x with
    kicked := true, seq := w.extractLsb' 32 32, tail := w.extractLsb' 16 16, thaw := x.thaw || w.getLsbD 8 }

/-- 64-bit words of a payload. -/
def wordsOf : List Byte → Nat → List Word64
  | _, 0 => []
  | bs, n + 1 => BitVec.ofNat 64 (leNat (bs.take 8)) :: wordsOf (bs.drop 8) n

/-- What an open port does with a flit: a bad one is answered and not performed (R402, R405). -/
def hostFlit (kind : Nat) (f : Flit) (s : State) (act : State) : Out :=
  eventOut s (
    if !s.portOpen || !flitFormed f then none
    else if flitBad f then some (s.answer (flitAck f 3))
    else if f.kind.toNat != kind then none
    else some act)

/-- HOST_DOORBELL (R340, R406). -/
def execHostDoorbell (f : Flit) (s : State) : Out :=
  hostFlit 1 f s ((wordsOf f.data (f.len.toNat / 8)).foldl State.doorbell s)

/-- The host-side agent asks the memory processor for the pages of a range that it holds no live translation of, and receives
each with a lease; none over a page with an unmap pending (R329, R332). -/
def State.hostAsks (s : State) (va n : Nat) : State :=
  let held (m : Mapping) : Bool := s.hostMaps.any fun h => h.va == m.va && h.size == m.size && s.chorus < h.lease
  let new := (((sectorsOf va n).filterMap fun p => s.page p.1).eraseDups.filter fun m => !m.pend && !held m).map fun m =>
    { m with lease := s.chorus + leaseTime }
  { s with hostMaps := (s.hostMaps.filter fun h => s.chorus < h.lease) ++ new }

/-- What keeps the host from a sector: 1 refused, 2 not mapped, or to be unmapped with no lease left (R332, R335, R406). -/
def State.hostRefusal (s : State) (write : Bool) (va : Nat) : Nat :=
  match s.vaToPa va with
  | none => 2
  | some (pa, p) =>
    if p.pend && !(s.hostMaps.any fun h => h.covers va && s.chorus < h.lease) then 2
    else if (write && !p.w) || (!write && !p.r) || !s.allows (s.homeOf pa) hostMaster write (!write) then 1
    else if write && p.disc then 2
    else 0

/-- The status of the lowest page that fails. -/
def State.hostCheck (s : State) (write : Bool) (va n : Nat) : Nat :=
  ((sectorsOf va n).map fun p => s.hostRefusal write p.1).find? (· != 0) |>.getD 0

/-- One sector of a host write: a part of a poisoned sector is not written (R331, R406). -/
def State.hostPut (s : State) (va : Nat) (bs : List Byte) : State × Bool :=
  match s.vaToPa va with
  | none => (s, false)
  | some (pa, _) =>
    match s.writeSector hostMaster (cellsAt pa bs) false with
    | .ok t => (t, false)
    | .error _ => (s, true)

/-- A host write of device memory, and the status of its ACK (R406). -/
def State.hostStore (s : State) (va : Nat) (bs : List Byte) : State × Nat :=
  match s.hostCheck true va bs.length with
  | 0 =>
    (sectorsOf va bs.length).foldl (fun r p =>
      let o := r.1.hostPut p.1 ((bs.drop (p.1 - va)).take p.2)
      (o.1, if o.2 then 4 else r.2)) (s, 0)
  | e => (s, e)

/-- HOST_WRITE: performed, then answered by an ACK (R406). -/
def execHostWrite (f : Flit) (s : State) : Out :=
  hostFlit 2 f s (
    if f.space = 1 then
      ((wordsOf f.data (f.len.toNat / 8)).zipIdx.foldl (fun (t : State) w => t.writeHub (f.addr.toNat + 8 * w.2) w.1) s).answer
        (flitAck f 0)
    else
      let r := (s.hostAsks f.addr.toNat f.data.length).hostStore f.addr.toNat f.data
      r.1.answer (flitAck f r.2))

/-- One sector of a host read: its bytes, and whether its bytes are poisoned on a page that is not error-tolerant (R331,
R406). -/
def State.hostGet (s : State) (va n : Nat) : List (Byte × Bool) :=
  match s.vaToPa va with
  | none => []
  | some (pa, p) =>
    if p.disc then List.replicate n (0, false)
    else if s.poisonedAt pa then List.replicate n (0, !p.et)
    else (s.readPa pa n).map fun b => (b, false)

/-- Bits of a margin record (R385). -/
def MarginRec.bits (r : MarginRec) : Nat :=
  packBits [(if r.fenced then 1 else 0, 1), (if r.subst then 1 else 0, 1), (0, 19), (r.num % 9, 4), (r.num / 9 % 8, 3),
    (r.num / 72, 4), (r.eccn, 8), (r.win, 8), (r.freq, 16), ((BitVec.ofInt 16 r.ceil).toNat, 16),
    ((BitVec.ofInt 16 r.trim).toNat, 16), ((BitVec.ofInt 32 r.drift).toNat, 32), (r.sknk.toNat, 32), (r.repl.toNat, 32),
    (r.exec.toNat, 64)]

/-- A byte of the image of the margin tables: records, then log rings, latest entry first (R385, R407). -/
def State.marginByte (s : State) (a : Nat) : Byte :=
  if a < 576 * 32 then BitVec.ofNat 8 ((s.record (a / 32)).bits / 256 ^ (a % 32))
  else
    let o := a - 576 * 32
    if o < 576 * 2048 then
      let v : BitVec 16 := BitVec.ofInt 16 (((s.record (o / 2048)).log[o % 2048 / 2]?).getD 0)
      v.extractLsb' (8 * (o % 2)) 8
    else 0

/-- What a READ finds: bytes with their poison, or a status (R406, R407). -/
def State.hostRead (s : State) (f : Flit) : List (Byte × Bool) × Nat :=
  let a := f.addr.toNat
  let n := f.len.toNat
  if f.space = 1 then
    (((List.range (n / 8)).map fun i => leBytes 8 (s.hubReg (a + 8 * i)).toNat).flatten.map fun b => (b, false), 0)
  else if f.space = 2 then ((List.range n).map fun i => (s.marginByte (a + i), false), 0)
  else
    match s.hostCheck false a n with
    | 0 => (((sectorsOf a n).map fun p => s.hostGet p.1 p.2).flatten, 0)
    | e => ([], e)

/-- READDATA flits of 240 bytes, in ascending address (R406). -/
def readData (f : Flit) : Nat → Nat → List (Byte × Bool) → List Flit
  | 0, _, _ => []
  | k + 1, a, bs =>
    let h := bs.take 240
    { kind := 4, zero := 0, tag := f.tag, status := if h.any (·.2) then 4 else 0, space := f.space
      len := BitVec.ofNat 16 h.length, addr := BitVec.ofNat 64 a, data := h.map (·.1)
      pad := List.replicate (240 - h.length) 0 } :: readData f k (a + 240) (bs.drop 240)

/-- HOST_READ (R406, R407). -/
def execHostRead (f : Flit) (s : State) : Out :=
  let t := if f.space = 0 then s.hostAsks f.addr.toNat f.len.toNat else s
  let r := t.hostRead f
  hostFlit 3 f s (
    if r.2 ≠ 0 then t.answer { flitAck f r.2 with kind := 4 }
    else { t with hostOut := s.hostOut ++ readData f ((r.1.length + 239) / 240) f.addr.toNat r.1 })

/-! ### Register writes by the hub cores (R6, R113, R307, R321, R334, R396) -/

/-- A word of an access table: the entries of 32 masters (R334). -/
def State.writeEntries (s : State) (t : Target) (i : Nat) (v : Word64) : State :=
  (List.range 32).foldl (fun (u : State) j => u.setEntry (some t) (32 * i + j) (v.getLsbD (2 * j + 1)) (v.getLsbD (2 * j))) s

/-- A register of a seat's block (R113, R321): MONLIMIT by the scheduler, and what a SYSW could write. -/
def Seat.writeReg (x : Seat) (n : Nat) (v : Word64) : Seat :=
  match n with
  | 0x04 => { x with sys := { x.sys with chk := v.getLsbD 0 } }
  | 0x05 => { x with sys := { x.sys with monlimit := v.setWidth 32 } }
  | 0x0D => { x with sys := { x.sys with hndlbase := v } }
  | 0x10 => x.writeFiAcc x v
  | 0x11 => { x with sys := { x.sys with fiLatch := v &&& 0x80FFFFFF } }
  | 0x12 => x.writeEnsample v
  | _ => x

/-- Kick bits cleared by the scheduler's write of ones (R340, R342). -/
def State.clearKicks (s : State) (lo : Nat) (v : Word64) : State :=
  { s with queues := s.queues.map fun q => if lo ≤ q.q && q.q < lo + 64 && v.getLsbD (q.q - lo) then { q with kicked := false } else q }

def scheduler : Nat := 0x4830
def housekeeper : Nat := 0x4832

/-- A word of an extent table: entries not yet written are zero (R322). -/
def Extent.zero : Extent :=
  { base := 0, len := 0, kind := 0, r := false, w := false, et := false, pbase := 0, lease := 0, v := false }

def Extent.write (e : Extent) (i : Nat) (v : Word64) : Extent :=
  let n := v.toNat
  match i with
  | 0 => { e with base := n % 2 ^ 57 }
  | 1 => { e with len := n % 2 ^ 57 }
  | 2 =>
    { e with
      pbase := n % 2 ^ 48, v := n.testBit 48, et := n.testBit 51, w := n.testBit 52, r := n.testBit 53, kind := bitField n 54 2 }
  | _ => { e with lease := n }

/-- Word w of the extent table at +0x1000 of a seat's block (R321, R322). -/
def Seat.writeExtent (x : Seat) (w : Nat) (v : Word64) : Seat :=
  let l := x.extents ++ List.replicate (w / 4 + 1 - x.extents.length) Extent.zero
  { x with extents := l.modify (w / 4) fun e => e.write (w % 4) v }

/-- The target that a physical address of the register blocks belongs to, and the offset in its block; none where no block stands
(R321). -/
def regTarget (d off : Nat) : Option (Target × Nat) :=
  let o := off % 0x10000
  let part := off % 0x100000 / 0x10000
  let chan := off % 0x1000000 / 0x10000
  if 8 ≤ d then some (.block (dieBase d), off)
  else if off < 0x4000000 then
    if part < 4 then some (.block (seatBlock d off), o) else if part = 4 then some (.port d (off / 0x100000), o) else none
  else if off / 0x10000 = 0x4000 then some (.lattice d, o)
  else if 0x80000000 ≤ off ∧ off < 0x82000000 ∧ chan < 30 then some (.home d ((off - 0x80000000) / 0x1000000) chan, o)
  else if off / 0x10000 = 0xC000 then some (.block (dieBase d + 0xC0000000), o)
  else none

/-- The word of its access table that an offset of a block names: every block holds one at +0x8000 (R321, R334, log entry 31). -/
def tableWord (o : Nat) : Option Nat := if 0x8000 ≤ o ∧ o < 0x8000 + 8 * 0x242 then some ((o - 0x8000) / 8) else none

/-- A write of a hub core to a register of a die pair, at an offset from its die base (R321). -/
def State.writeDie (s : State) (master d off : Nat) (v : Word64) : State :=
  if off < 0x4000000 then
    let tile := off / 0x100000
    let part := off % 0x100000 / 0x10000
    let o := off % 0x10000
    match s.seat? (256 * d + 4 * tile + part) with
    | some x =>
      if 4 ≤ part then s
      else if o < 0x200 then (if o = 0x28 && master != scheduler then s else s.putSeat (x.writeReg (o / 8) v))
      else if 0x1000 ≤ o ∧ o < 0x1800 ∧ master = scheduler then s.putSeat (x.writeExtent ((o - 0x1000) / 8) v)
      else s
    | none => s
  else if master ≠ housekeeper then s
  else if off = 0x40000000 then { s with lxPeriod := s.lxPeriod.setIfInBounds d (v &&& 0xFFFFF) }
  else if 0x40000000 < off ∧ off < 0x40000048 then
    let k := (off - 0x40000008) / 8
    { s with lxRound := s.lxRound.setIfInBounds d ((s.lxRound.getD d lxRoundReset).setIfInBounds k (v &&& 0xFFFFFFFFFFFF)) }
  else if off = 0xC0000100 then { s with phase := s.phase.setIfInBounds d (v &&& 0xFFFFFFFF) }
  else s

/-- A write of a hub core to a register of hub 0 or hub 1 (R340, R342, R413). -/
def State.writeHubReg (s : State) (master d off : Nat) (v : Word64) : State :=
  if d = 9 then s.writeHub (2 ^ 32 + off) v
  else if off = 0x10 then (if master = scheduler then s.clearKicks 0 v else s)
  else if off = 0x18 then (if master = scheduler then s.clearKicks 64 v else s)
  else if off = 0x20 then (if master = housekeeper then { s with diepres := v.extractLsb' 0 8 } else s)
  else s.writeHub off v

/-- REGISTER_WRITE: a hub core writes a register by its physical address, under the access table of its block and under its access
code; a refusal is a bus error, and only the scheduler writes access tables. Others have no way to the registers, an address
without a register ignores the write, and one of a die pair that its hub cannot reach waits (R6, R321, R334, R335, R342,
R388). -/
def execRegisterWrite (master pa : Nat) (v : Word64) (s : State) : Out :=
  eventOut s (
    if master < 0x4830 ∨ 0x4832 < master ∨ pa % 8 ≠ 0 ∨ pa < 0x7F0000000000 then none
    else
      let d := (pa - 0x7F0000000000) / 2 ^ 32
      let off := pa % 2 ^ 32
      if 10 ≤ d || (d < 8 && !s.hubReach 0 d) then none
      else match regTarget d off with
        | none => some s
        | some (target, o) =>
          if !s.allows (some target) master true false then some (s.busError master pa)
          else match tableWord o with
            | some i => some (if master = scheduler then s.writeEntries target i v else s)
            | none => some (if d < 8 then s.writeDie master d off v else s.writeHubReg master d off v))

end Sys2Proof.Machine
end

