-- ==== Sys2Proof/Machine/Module.lean ====
section
/-! DEFINITION. The firmware of the hubs beside the scheduler: leases, unmaps and discarded pages; the margin controller,
fences, spares and lost tiles; power, heat and energy samples; module reset (R21, R327 to R330, R377, R378, R384 to R388,
R391, R395, R398 to R402). -/

namespace Sys2Proof.Machine

/-! ### Leases and unmaps (R327 to R329) -/

/-- Half of a lease has passed, and it has not ended. -/
def State.halfGone (s : State) (lease : Nat) : Bool := s.chorus < lease && lease ≤ s.chorus + leaseTime / 2

/-- A page with an unmap pending has an address in a range. -/
def State.pendIn (s : State) (base len : Nat) : Bool := s.pages.any fun p => p.pend && overlap base len p.va (pageBytes p.size)

/-- A cache entry that a resident task uses: a lazy extent of one of its seats on the die pair covers it (R326, R327). -/
def State.inUse (s : State) (die : Nat) (m : Mapping) : Bool :=
  s.seats.any fun x => x.die == die && x.extents.any fun e => e.v && e.kind == 1 && overlap e.base e.len m.va (pageBytes m.size)

/-- LEASE_RENEWAL: the scheduler renews the leases of the resident tasks' extents and cache entries on a die pair of which half has passed, but over no
page with an unmap pending (R327). -/
def execLeaseRenewal (die : Nat) (s : State) : Out :=
  eventOut s (
    let lease := s.chorus + leaseTime
    let extDue (e : Extent) : Bool := e.v && e.kind != 2 && s.halfGone e.lease && !s.pendIn e.base e.len
    let due (m : Mapping) : Bool := s.inUse die m && s.halfGone m.lease && !s.pendIn m.va (pageBytes m.size)
    let ext (e : Extent) : Extent := if extDue e then { e with lease := lease } else e
    let entry (m : Mapping) : Mapping := if due m then { m with lease := lease } else m
    if 8 ≤ die ∨ !((s.seats.any fun x => x.die == die && x.extents.any extDue) || (s.caches.getD die []).any due) then none
    else
      let t := s.rewriteExtents schedMaster (·.die == die) (·.map ext)
      some { t with caches := t.caches.setIfInBounds die ((t.caches.getD die []).map entry) })

/-- No extent, cache entry or translation of the host that covers the page holds a lease that has not ended (R329, R332). -/
def State.leasesOver (s : State) (p : Mapping) : Bool :=
  (s.seats.all fun x => x.extents.all fun e =>
    !e.v || e.kind == 2 || e.lease ≤ s.chorus || !overlap e.base e.len p.va (pageBytes p.size)) &&
  (s.hostMaps.all fun m => m.lease ≤ s.chorus || !m.meets p) && s.caches.toList.all fun c => c.all fun m => m.lease ≤ s.chorus || !m.meets p

/-- The page is freed: its cache entries go, an eager extent over it becomes lazy, and its contents wait for a new place (R328, R329,
R332). -/
def State.freePage (s : State) (p : Mapping) : State :=
  let lazy (e : Extent) : Extent :=
    if e.kind = 0 && overlap e.base e.len p.va (pageBytes p.size) then { e with kind := 1, pbase := 0 } else e
  let t := s.rewriteExtents memMaster (fun _ => true) (·.map lazy)
  { t with
    pages := t.pages.filter (· != p), away := t.away ++ [t.contents p], hostMaps := t.hostMaps.filter fun m => !m.meets p
    caches := t.caches.map fun c => c.filter fun m => !m.meets p }

/-- UNMAP: the unmap is marked pending; once every lease over the page has ended it is freed (R329). -/
def execUnmap (va : Nat) (s : State) : Out :=
  eventOut s do
    let p ← s.page va
    if !p.pend then some { s with pages := s.pages.map fun q => if q == p then { q with pend := true } else q }
    else if s.leasesOver p then some (s.freePage p)
    else none

/-! ### Discarded pages (R330) -/

/-- The page comes back with zero contents (R330). -/
def State.revive (s : State) (p : Mapping) : State :=
  let t := s.zeroAt p.pa (pageBytes p.size)
  let same (q : Mapping) : Bool := q.va == p.va && q.size == p.size
  { t with
    pages := t.pages.map fun q => if same q then { q with disc := false } else q
    caches := t.caches.map fun c => c.map fun q => if same q then { q with disc := false } else q }

/-- Gangs that have a sector of the page parked. -/
def State.parkedGangs (s : State) (p : Mapping) : List Nat :=
  ((s.tiles.map fun t => (t.sideLog.filter fun e => p.covers e.va).filterMap fun e => (s.seat? e.seat).map (·.gang)).flatten).eraseDups

/-- A task that wrote the page is killed: it stops, its parked sectors are dropped, and once its members have drained it completes
FAILED with DISCARD_WRITE (R93, R330). -/
def State.killGang (s : State) (g : Nat) : State :=
  let ks := (s.seats.filter (·.gang == g)).map (·.id)
  let t := (s.request g .kill).getD s
  { t with tiles := t.tiles.map fun t => { t with sideLog := t.sideLog.filter fun e => !ks.contains e.seat } }

/-- DISCARD_DECISION (R330). -/
def execDiscardDecision (va : Nat) (revive : Bool) (s : State) : Out :=
  eventOut s do
    let p ← s.page va
    if !p.disc || s.cursor.isSome then none
    if revive then some (s.revive p)
    else
      let gs := s.parkedGangs p
      if gs.isEmpty then none else some (gs.foldl State.killGang s)

/-! ### The margin controller and fences (R384 to R387) -/

/-- The record of the physical tile that stands in a position: slot 8 is the eft's (R385). -/
def State.physical (s : State) (t : Tile) : MarginRec :=
  s.record (if t.eft then t.id / 64 * 72 + t.id % 64 / 8 * 9 + 8 else recordNo t.id)

/-- The eft of a tile's cluster stands in a position already, or is about to. -/
def State.eftTaken (s : State) (tile : Nat) : Bool := s.tiles.any fun t => t.id / 8 == tile / 8 && (t.eft || t.fencing)

/-- Every gang with a seat for which p holds is to be saved (R386, R387). -/
def State.clear (s : State) (p : Seat → Bool) : State :=
  ((s.seats.filter p).map (·.gang)).eraseDups.foldl (fun t g => (t.request g .fence).getD t) s

/-- A tile is fenced: its gangs are saved and the eft takes its place, or the whole die pair is harvested (R21, R386, R387). What
its two stacks held keeps its place: memory and page table are as they were, and what R318 backs no longer is out of reach; the
reserved area stays backed (log entry 28). -/
def State.fence (s : State) (tile : Nat) : State :=
  let t := s.tile tile
  let marked := s.putRecord { s.physical t with fenced := true }
  if s.eftTaken tile then
    { marked with diepres := marked.diepres &&& ~~~((1 : BitVec 8) <<< (tile / 64)) }.clear fun x => x.die == tile / 64
  else
    let u := (marked.putRecord { s.physical { t with eft := true } with subst := true })
    let v := (u.putTile { t with fencing := true }).clear fun x => x.id / 4 == tile
    v.putTile (v.endFence (v.tile tile))

/-- The controller's row for r late executions in a window: the tile afterwards, and whether it is fenced (R384). -/
def Tile.margin (t : Tile) (ceil : Int) (r : Nat) : Tile × Bool :=
  if 2000 < r then (t, true)
  else if 20 < r ∧ t.trim < ceil then ({ t with trim := t.trim + 5 }, false)
  else if 20 < r ∧ 2200 < t.freq then ({ t with freq := t.freq - 100 }, false)
  else if 20 < r then ({ t with win := t.win + 1 }, decide (3 ≤ t.win + 1))
  else if r < 5 ∧ -150 < t.trim then ({ t with trim := t.trim - 5 }, false)
  else if r < 5 ∧ t.freq < 2800 then ({ t with freq := t.freq + 100 }, false)
  else ({ t with win := 0 }, false)

/-- MARGIN_WINDOW: a window of 10^6 executions has ended (R384). -/
def execMarginWindow (tile : Nat) (s : State) : Out :=
  eventOut s (
    let t := s.tile tile
    if 512 ≤ tile || t.window < 1000000 || t.fencing || s.cursor.isSome then none
    else
      let m := t.margin (s.physical t).ceil t.late
      let u := s.putTile { m.1 with window := 0, late := 0 }
      some (if m.2 then u.fence tile else u))

/-- A sum that stops at a limit. -/
def addUpTo (limit a b : Nat) : Nat := min limit (a + b)

/-- The record takes what the tile counted since the last one, and the log ring its trim (R385). -/
def MarginRec.take (r : MarginRec) (t : Tile) : MarginRec :=
  let log := (t.trim :: r.log).take 1024
  { r with
    exec := r.exec + BitVec.ofNat 64 t.execs
    repl := BitVec.ofNat 32 (addUpTo (2 ^ 32 - 1) r.repl.toNat t.repl)
    sknk := BitVec.ofNat 32 (addUpTo (2 ^ 32 - 1) r.sknk.toNat t.sknk)
    eccn := addUpTo 255 r.eccn t.ecc
    drift := t.trim - log.getLastD t.trim
    trim := t.trim, freq := t.freq, win := t.win, log := log }

/-- MARGIN_RECORD: after 10^9 executions the tile's record is written (R385). -/
def execMarginRecord (tile : Nat) (s : State) : Out :=
  eventOut s (
    let t := s.tile tile
    if 512 ≤ tile || t.execs < 1000000000 then none
    else some ((s.putRecord ((s.physical t).take t)).putTile { t with execs := 0, repl := 0, sknk := 0, ecc := 0 }))

/-- A gang ends with a status and its resources return; with the buffer of take-over full it keeps them, stopped, until a place frees
(R361). -/
def State.endLost (s : State) (x : Gang) (l : Launch) (status : Nat) : State :=
  if !s.schedUp && 256 ≤ s.held.length then
    let stopped (y : Seat) : Seat := { y with run := .marked, queue := [], transit := [] }
    ({ s with seats := s.seats.map fun y => if y.gang == x.id then stopped y else y } : State).putGang { x with stop := .done status 0 }
  else (s.reclaim x.id).conclude l status 0 x.forced

/-- A gang of a lost tile: a restartable task that may be rerun waits for dispatch again, any other fails (R391). A collective that
has not read its rank table yet is judged by what the table holds now. -/
def State.loseGang (s : State) (g : Nat) : State :=
  match s.gang? g with
  | none => s
  | some x =>
    match s.launches.find? (·.num == x.launch) with
    | none => s.reclaim g
    | some l =>
      let tied := s.seats.any fun y => y.gang == g && (y.tied || s.namesPeer y fun _ => true)
      if x.kernel.restartable && !tied then
        let t := (s.reclaim g).freeRegions fun r => r.owner == some l.num
        { t with launches := t.launches.map fun m => if m.num == l.num then { m with at' := .waiting } else m }
      else s.endLost x l 2

/-- TILE_LOST: the tile's gangs are lost and it is fenced, unless its die pair is being harvested already (R391). -/
def execTileLost (tile : Nat) (s : State) : Out :=
  eventOut s (
    let live := s.diepres.getLsbD (tile / 64)
    if 512 ≤ tile || s.cursor.isSome || (!live && (s.tileSeats tile).isEmpty) then none
    else
      let t := (((s.tileSeats tile).map (·.gang)).eraseDups).foldl State.loseGang s
      some (if !live || (s.tile tile).fencing then t else t.fence tile))

/-! ### Spare channels of a stack (R388) -/

/-- A stack of a live die pair, and one of its 30 channels. -/
def State.hasChannel (s : State) (stack chan : Nat) : Bool := stack < 16 && chan < 30 && s.diepres.getLsbD (stack / 2)

/-- HBM_CHANNEL_SPARE: a failing channel is copied to one of the stack's two spares (R388). -/
def execHbmChannelSpare (stack chan : Nat) (s : State) : Out :=
  eventOut s (
    if !s.hasChannel stack chan || 2 ≤ (s.spares.filter (·.stack == stack)).length ||
        (s.spares.any fun u => u.stack == stack && u.chan == chan) then none
    else some { s with spares := s.spares ++ [{ stack := stack, chan := chan, switched := false }] })

/-- SPARE_CHANNEL_SWITCH: the spare serves the channel (R388). -/
def execSpareChannelSwitch (stack chan : Nat) (s : State) : Out :=
  eventOut s (
    let old : SpareUse := { stack := stack, chan := chan, switched := false }
    if s.spares.contains old then
      some { s with spares := s.spares.map fun u => if u == old then { u with switched := true } else u }
    else none)

/-- The lines of a logical channel, rising (R319). -/
def State.channelLines (s : State) (stack chan : Nat) : List Nat :=
  let z := s.liveStacks.length
  let ls := s.liveStacks.idxOf stack
  (List.range 12582912).map fun row =>
    let q := row * 30 + chan
    if z = 16 then q * 16 + Nat.xor ls (q % 16) else q * z + ls

/-- The journal's copy in HBM loses the records and snapshots that stand in poisoned sectors (R358, R359). -/
def State.damageMirror (s : State) (bad : List Nat) : State :=
  { s with
    mirror := s.mirror.filter fun r => !bad.contains (mirrorAt r.jseq / 64)
    snapshots := s.snapshots.filter fun n => !(bad.any fun k => n.arg / 64 ≤ k && k < (n.arg + 2 ^ 18) / 64) }

/-- A sector lies in a logical channel (R319). -/
def State.inChannel (s : State) (stack chan sector : Nat) : Bool :=
  s.homeOf (64 * sector) == some (.home (stack / 2) (stack % 2) chan)

/-- HBM_CHANNEL_FAILURE: the home controller poisons the sectors in which it finds an error that it cannot correct; or, with both
spares in use, the whole channel fails, and each of its sectors is poisoned (R388, R389). -/
def execHbmChannelFailure (stack chan : Nat) (s : State) (bad : Option (List Nat) := none) : Out :=
  eventOut s (
    let poison (l : List Nat) : State := { s.damageMirror l with hbmPoison := l.foldl (fun p k => insertNat k p) s.hbmPoison }
    if !s.hasChannel stack chan then none
    else match bad with
      | some l =>
        let here := l.filter (s.inChannel stack chan)
        if here.isEmpty then none else some (poison here)
      | none =>
        if (s.spares.filter (·.stack == stack)).length < 2 then none
        else some (poison ((s.channelLines stack chan).map fun n => [2 * n, 2 * n + 1]).flatten))

/-! ### Throttling and notices (R395, R398, R399, R401) -/

/-- One throttle notice is latched; while one is latched a further rise only updates TIME and REASON (R399). -/
def Seat.notify (x : Seat) (time reason : Nat) : Seat :=
  let v := x.sys.thrstat.toNat
  let count := v / 2 ^ 24 % 256
  let n := if v % 2 = 0 then addUpTo 255 count 1 else count
  { x with sys := { x.sys with thrstat := BitVec.ofNat 64 (time % 2 ^ 32 * 2 ^ 32 + n * 2 ^ 24 + reason * 2 ^ 8 + 1) } }

/-- A die pair's level; a rise gives every seat that is resident there a notice, and the scheduler a copy of each that is latched (R399). -/
def State.setLevel (s : State) (die l reason : Nat) : State :=
  let old := s.power.level.getD die 0
  let latched := s.seats.filter fun x => x.die == die && !x.sys.thrstat.getLsbD 0
  let t : State := { s with power := { s.power with level := s.power.level.setIfInBounds die l } }
  if l ≤ old then t
  else { t with
    seats := t.seats.map fun x => if x.die = die then x.notify s.chorus reason else x
    notices := t.notices ++ latched.map fun x => .throttle x.id (x.notify s.chorus reason).sys.thrstat }

/-- POWER_THROTTLE: module power averaged over 10 microseconds (R398). -/
def execPowerThrottle (mw : Nat) (s : State) : Out :=
  eventOut s (
    if 3600000 < mw then
      if s.power.rose.any fun t => s.chorus < t + 10000 then some { s with power := { s.power with lowSince := none } }
      else
        let t := (livePairs s).foldl (fun (t : State) d => t.setLevel d (min 7 (t.power.level.getD d 0 + 1)) 1) s
        some { t with power := { t.power with rose := some s.chorus, lowSince := none } }
    else if mw < 3400000 then
      match s.power.lowSince with
      | none => some { s with power := { s.power with lowSince := some s.chorus } }
      | some t =>
        if s.chorus < t + 100000 then none
        else
          let cool := (livePairs s).filter fun d => s.power.celsius.getD d 0 < 100
          let u := cool.foldl (fun (u : State) d => u.setLevel d (u.power.level.getD d 0 - 1) 1) s
          some { u with power := { u.power with lowSince := some s.chorus } }
    else some { s with power := { s.power with lowSince := none } })

/-- THERMAL_THROTTLE: the temperature of a die pair, or of a hub (8, 9), as it is read; only a die pair has a level (R12, R398). -/
def execThermalThrottle (die celsius : Nat) (s : State) : Out :=
  eventOut s (
    if 10 ≤ die then none
    else
      let t : State := { s with power := { s.power with celsius := s.power.celsius.setIfInBounds die celsius } }
      some (if 100 ≤ celsius && die < 8 then t.setLevel die (max (t.power.level.getD die 0) 4) 2 else t))

/-- COOLANT_FLOW_LOW: the flow has been below its limit for a second (R401). -/
def execCoolantFlowLow (s : State) : Out :=
  eventOut s (some ((List.range 8).foldl (fun (t : State) d => t.setLevel d 7 2) s))

def State.stretchOf (s : State) (die pair : Nat) : Stretch :=
  (s.power.stretch.find? fun x => x.die == die && x.pair == pair).getD
    { die := die, pair := pair, upper := false, steps := 0, since := none, stepped := 0 }

/-- A stretch stands in the list while it is not at rest. -/
def State.putStretch (s : State) (x : Stretch) : State :=
  let rest := s.power.stretch.filter fun y => !(y.die == x.die && y.pair == x.pair)
  { s with power := { s.power with stretch := if x.steps = 0 && x.since.isNone then rest else rest ++ [x] } }

/-- A measurement of a stacked pair: by how many per cent cluster 2k+1 draws more than cluster 2k (R395). -/
def Stretch.measure (x : Stretch) (now : Nat) (diff : Int) : Stretch :=
  let upper := decide (0 < diff)
  let mayStep := x.stepped + 1000 ≤ now
  if 10 < diff.natAbs && (x.steps = 0 || upper == x.upper) then
    let since := x.since.getD now
    if since + 1000 < now && x.steps < 4 && mayStep then
      { x with upper := upper, since := some since, steps := x.steps + 1, stepped := now }
    else { x with upper := upper, since := some since }
  else if 10 ≤ diff.natAbs && upper == x.upper then { x with since := none }
  else if x.steps != 0 && mayStep then { x with since := none, steps := x.steps - 1, stepped := now }
  else { x with since := none }

/-- CURRENT_BALANCE (R395). -/
def execCurrentBalance (die pair : Nat) (diff : Int) (s : State) : Out :=
  eventOut s (
    if 8 ≤ die || 4 ≤ pair then none else some (s.putStretch ((s.stretchOf die pair).measure s.chorus diff)))

/-! ### Emergency save and hard trip (R377, R378) -/

/-- The gang is still to be asked for the save: it runs, is stopped for a reason that yields to it, or stands at handler level, where
it cannot be saved (R377). -/
def Gang.exposed (g : Gang) : Bool :=
  match g.stop with
  | .done _ _ => false
  | .run | .allotted none => true
  | .allotted (some w) => stopRank w < stopRank .thermal
  | .asked w _ | .haltSent w | .trapSent (some w) _ => g.level || stopRank w < stopRank .thermal
  | _ => g.level

/-- A gang at handler level ends THERMAL_LOST at once: its sequencer sends nothing more, and it completes once its members have
drained to the marker (R93, R370, R377). -/
def State.loseHot (s : State) (g : Gang) : State :=
  match g.stop with
  | .run | .asked _ _ => s.mark g .haltMark (.done 4 0)
  | _ => s.putGang { g with stop := .done 4 0 }

/-- EMERGENCY_SAVE: a die at 105 degrees; running gangs are to be saved, those at handler level are lost (R377). -/
def execEmergencySave (s : State) : Out :=
  eventOut s (
    if s.cursor.isSome || !(s.power.celsius.toList.any (105 ≤ ·)) || (s.power.hot && !s.gangs.any Gang.exposed) then none
    else
      let t : State := { s with power := { s.power with hot := true } }
      some (s.gangs.foldl (fun t g =>
        if !g.exposed then t
        else if g.level then t.loseHot g else (t.request g.id .thermal).getD t) t))

/-- Tiles as the margin tables give them: TRIM, FREQ, and the eft in the place of a fenced one (R386, R402). -/
def State.loadTiles (s : State) : List Tile :=
  ((List.range 512).map fun i =>
    let t : Tile := { Tile.fresh i with eft := (s.record (recordNo i)).fenced }
    let r := s.physical t
    { t with trim := r.trim, freq := r.freq }).filter fun t => t != Tile.fresh t.id

/-- The gangs with their launches, and how they end when they lose power: as decided where they had completed but for their record,
else THERMAL_LOST (R378). -/
def State.lostTasks (s : State) : List (Gang × Launch × Nat × Nat) :=
  s.gangs.filterMap fun g => (s.launches.find? (·.num == g.launch)).map fun l => (g, l, (s.outcome g).getD (4, 0))

/-- The die pairs, their MX dies and hub 1 have lost power: nothing is left of what they held (R378). -/
def State.pairsOff (s : State) : State :=
  { s with
    powered := false, gangs := [], seats := [], tiles := s.loadTiles, msgs := [], replies := [], reports := []
    caches := Vector.replicate 8 [], access := []
    lxPeriod := State.reset.lxPeriod, lxRound := State.reset.lxRound, phase := State.reset.phase
    cells := [], marks := [], cellPoison := [], exchange := []
    inputs := State.reset.inputs, portSent := State.reset.portSent, peerOut := [], ordSeq := 0
    podid := State.reset.podid, chparent := State.reset.chparent, chstat := 0, rmap := State.reset.rmap
    power := { Power.reset with celsius := s.power.celsius, hot := true } }

/-- A task that lost power completes; its records go to boot flash (R378). With the buffer of take-over full its end waits for a place
(R361). -/
def State.endOff (s : State) (p : Gang × Launch × Nat × Nat) : State :=
  if !s.schedUp && 256 ≤ s.held.length then
    { s with gangs := s.gangs ++ [{ p.1 with members := [], stop := .done p.2.2.1 p.2.2.2 }] }
  else s.conclude p.2.1 p.2.2.1 p.2.2.2 p.1.forced

/-- HARD_TRIP: at 115 degrees the die pairs lose power, and every task that is not saved is lost; where hub 0 itself is at
115 degrees, the whole module (R378). -/
def execHardTrip (hub0 : Bool) (s : State) : Out :=
  eventOut s (
    if s.cursor.isSome || hub0 != decide (115 ≤ s.power.celsius.getD 8 0) then none
    else if hub0 then
      some { State.reset with
        booted := false, portOpen := false, moduleOn := false, powered := false, margin := s.margin, agenda := s.agenda }
    else if !s.powered || !(s.power.celsius.toList.any (115 ≤ ·)) then none
    else
      let off := ((s.gangs.map (·.id)).foldl State.reclaim s).pairsOff
      some (s.lostTasks.foldl State.endOff off))

/-! ### Energy samples (R400) -/

/-- A field of ENSAMPLE. -/
def enField (v : Word64) (lo n : Nat) : Nat := v.toNat / 2 ^ lo % 2 ^ n

/-- ENERGY_SAMPLE: a sample is due in the seat that holds its tile's issue slot; it is written, or counted as dropped
(R400). -/
def execEnergySample (k : Nat) (s : State) : Out :=
  eventOut s do
    let x ← s.seat? k
    let v := x.sys.ensample
    if s.cursor.isSome || !v.getLsbD 0 || x.run != .run || s.holder (k / 4) != some k ||
        s.chorus % 2 ^ enField v 1 5 != 0 || x.sys.sampled == some s.chorus then none
    let i := enField v 48 8
    let pad := enField v 12 7
    let a := 4096 * pad + 16 * i
    let pc := (x.cur.map (·.pc)).getD 0
    let bytes := leBytes 3 pc ++ [0] ++ leBytes 4 (Config.energyEstimate s.free).toNat ++ leBytes 8 s.chorus
    let t : State := { s with free := s.free + 1 }
    if pad < x.pads.count && x.engineOwned a 16 then
      let w := masked v (BitVec.ofNat 64 ((i + 1) % 256 * 2 ^ 48)) 0xFF000000000000
      let y := x.writeBytes (cellsAt a bytes)
      some (t.putSeat { y with sys := { y.sys with ensample := w, sampled := some s.chorus } })
    else
      let w := masked v (BitVec.ofNat 64 (addUpTo 255 (enField v 40 8) 1 * 2 ^ 40)) 0xFF0000000000
      some (t.putSeat { x with sys := { x.sys with ensample := w, sampled := some s.chorus } })

/-! ### Module reset (R402) -/

/-- Clusters with two fenced tiles have no eft left: their die pair stays harvested (R387). -/
def State.worn (s : State) (die : Nat) : Bool :=
  (List.range 8).any fun c => 2 ≤ ((List.range 9).filter fun i => (s.record (die * 72 + c * 9 + i)).fenced).length

/-- The die pairs that come up: those whose training succeeds and that are not worn (R21, R387, R402). -/
def State.livePresence (s : State) (failed : List Nat) : BitVec 8 :=
  ((List.range 8).filter fun d => !failed.contains d && !s.worn d).foldl (fun v d => v ||| ((1 : BitVec 8) <<< d)) 0

/-- The self-test of start-up: the tile in a position that fails it is marked FENCED, and the eft takes its place; where that stands
there already the cluster has none left (R16, R386, R387, R402). -/
def State.selfTest (s : State) (bad : List Nat) : State :=
  (bad.filter (· < 512)).foldl (fun t i =>
    let own := t.record (recordNo i)
    let eft := t.record (i / 64 * 72 + i % 64 / 8 * 9 + 8)
    if own.fenced then t.putRecord { eft with fenced := true }
    else (t.putRecord { own with fenced := true }).putRecord { eft with subst := true }) s

/-- THERMAL_RESUME: every die is below 95 degrees, and saved gangs may resume. Die pairs that had lost power get it again: they train,
take the margin tables, their tiles are tested, they take efts and phase tables, the die-presence word is written anew, and the
journal in boot flash goes to its mirror (R377, R378, R402). -/
def execThermalResume (s : State) (failed : List Nat := []) (bad : List Nat := []) : Out :=
  eventOut s (
    if !s.power.hot || s.power.celsius.toList.any (95 ≤ ·) then none
    else
      let cool : State := { s with powered := true, power := { s.power with hot := false } }
      if s.powered then some cool
      else
        let t := cool.selfTest bad
        some { t with
          diepres := t.livePresence failed, tiles := t.loadTiles, phase := State.reset.phase
          mirror := s.flash.foldl (fun m r => r.onto m) s.mirror, flash := [] })

/-- A record as a module reset leaves it: its fields with a reset value hold it, but the marks of fenced and substituting tiles
persist (R6, R385, R386). -/
def MarginRec.afterReset (r : MarginRec) : MarginRec := { r with win := 0, eccn := 0 }

/-- What the schedulers of a reset module start from where they find a committed journal: device memory with the journal, the
snapshots, the slabs and the page tables that it speaks of; no gang stands, so that what was running waits for dispatch again
(R360, R402; DESIGN CHOICE, log entry 32). -/
def State.withJournal (u s : State) : State :=
  ({ u with
    hbm := s.hbm, hbmPoison := s.hbmPoison, hostMem := s.hostMem, pages := s.pages, away := s.away
    journal := s.journal, mirror := s.mirror, flash := s.flash, jseq := s.jseq, snapshots := s.snapshots, admitted := s.admitted
    saved := s.saved, resumed := s.resumed, unwritten := s.unwritten, regions := s.regions, serial := s.serial } : State).takeOver

/-- MODULE_RESET: reset, training, the margin tables, self-test and efts, the die-presence word and the phase tables, the
schedulers with an empty journal or a committed one, the host port (R402). The scheduler grants the host port's entries at the home
controllers, since launch entries are written before any dispatch (R334, R407; log entry 22). -/
def execModuleReset (failed : List Nat) (s : State) (bad : List Nat := []) (committed : Bool := false) : Out :=
  eventOut s (
    let t := s.selfTest bad
    let pres := t.livePresence failed
    let u : State := { State.reset with
      booted := true, schedUp := true, portOpen := pres != 0, diepres := pres
      access := [{ target := none, master := hostMaster, w := true, r := true }]
      margin := t.margin.map MarginRec.afterReset, tiles := t.loadTiles, agenda := s.agenda }
    some (if committed then u.withJournal s else u))

end Sys2Proof.Machine
end

