-- ==== Sys2Proof/Machine/Fun.lean ====
section
/-! DEFINITION. The functions of VRCP, VRSQ, VEXP2, VLOG2 and VACT (R46, R47, R196): f(x) exactly, its magnitude
truncated to 40 significant bits. The transcendental ones are computed in fixed point with 400 fraction bits; the
error, below 2^-380, changes no rounded result (log entry 8). -/

namespace Sys2Proof.Machine.Fun

/-- Fraction bits of the fixed-point numbers. -/
def prec : Nat := 400

/-- A positive magnitude num / 2^k truncated to 40 significant bits. -/
def trunc40 (neg : Bool) (num : Nat) (k : Int) : Ext :=
  let len := num.log2 + 1
  if len ≤ 40 then .fin neg num (-k)
  else .fin neg (num / 2 ^ (len - 40)) ((len - 40 : Nat) - k)

/-- floor (sqrt n) by the binary digit method, fuel digits of the root from the given one down. -/
def isqrtAux : Nat → Nat → Nat → Nat
  | 0, _, r => r
  | k + 1, n, r => let r' := r + 2 ^ k; isqrtAux k n (if r' * r' ≤ n then r' else r)

def isqrt (n : Nat) : Nat := isqrtAux (n.log2 / 2 + 1) n 0

/-- 1/x for a nonzero finite x. -/
def rcp (neg : Bool) (m : Nat) (e : Int) : Ext :=
  let k := m.log2 + 64
  -- the remainder keeps the truncation exact: 64 bits of quotient are more than 40
  trunc40 neg (2 ^ k / m) (k + e)

/-- 1/sqrt(x) for a positive x. -/
def rsq (m : Nat) (e : Int) : Ext :=
  -- x = m * 2^e with e made even
  let m' := if e % 2 = 0 then m else 2 * m
  let e' := if e % 2 = 0 then e else e - 1
  let k := m'.log2 + 64
  -- 1/sqrt m' = sqrt (2^(2k) / m') / 2^k
  trunc40 false (isqrt (2 ^ (2 * k) / m')) (k + e' / 2)

/-- Sum of an alternating or positive series: terms t, t*x/n, … with n from i, in fixed point. -/
def expAux : Nat → Nat → Nat → Nat → Nat → Nat
  | 0, _, _, _, acc => acc
  | k + 1, i, x, t, acc => let t' := t * x / 2 ^ prec / i; expAux k (i + 1) x t' (acc + t')

/-- e^x for 0 ≤ x < 1 given as x * 2^prec. -/
def expFix (x : Nat) : Nat := expAux 90 1 x (2 ^ prec) (2 ^ prec)

/-- Σ z^(2i+1)/(2i+1) in fixed point: atanh z. -/
def atanhAux : Nat → Nat → Nat → Nat → Nat → Nat
  | 0, _, _, _, acc => acc
  | k + 1, i, z2, t, acc => atanhAux k (i + 2) z2 (t * z2 / 2 ^ prec) (acc + t / i)

def atanhFix (z : Nat) : Nat := atanhAux 140 1 (z * z / 2 ^ prec) z 0

/-- ln 2 * 2^prec. -/
def ln2 : Nat := 2 * atanhFix (2 ^ prec / 3)

/-- A dyadic number in fixed point, towards zero. -/
def toFix (m : Nat) (e : Int) : Nat :=
  if 0 ≤ e + prec then m * 2 ^ (e + prec).toNat else m / 2 ^ (-(e + prec)).toNat

/-- 2^f for 0 ≤ f < 1 in fixed point. -/
def exp2Fix (f : Nat) : Nat := expFix (f * ln2 / 2 ^ prec)

/-- 2^x; |x| of 2^15 or more lies outside every format and is cut there. -/
def exp2 (neg : Bool) (m : Nat) (e : Int) : Ext :=
  let fx := min (toFix m e) (2 ^ (prec + 15))
  let i := fx / 2 ^ prec
  let f := fx % 2 ^ prec
  if f = 0 then .fin false 1 (if neg then -(i : Int) else i)
  else if neg then trunc40 false (exp2Fix (2 ^ prec - f)) (prec + i + 1)
  else trunc40 false (exp2Fix f) ((prec : Int) - i)

/-- log2 x for a positive x other than 1. -/
def log2 (m : Nat) (e : Int) : Ext :=
  let l := m.log2
  let i : Int := l + e
  if m = 2 ^ l then Ext.ofInt i
  else
    -- m / 2^l = (1 + z) / (1 - z), z = (m - 2^l) / (m + 2^l)
    let z := (m - 2 ^ l) * 2 ^ prec / (m + 2 ^ l)
    let fr := 2 * atanhFix z * 2 ^ prec / ln2
    let y : Int := i * 2 ^ prec + fr
    trunc40 (y < 0) y.natAbs prec

/-- e^-x for x ≥ 0 in fixed point, by 2^-(x / ln 2). -/
def expNeg (x : Nat) : Nat :=
  let y := x * 2 ^ prec / ln2
  let i := y / 2 ^ prec
  let f := y % 2 ^ prec
  -- 2^-(i+f) = 2^(1-f) / 2^(i+1)
  if f = 0 then 2 ^ prec / 2 ^ i else exp2Fix (2 ^ prec - f) / 2 ^ (i + 1)

/-- The argument in fixed point, cut at 200: beyond it no result of a format changes. -/
def capped (m : Nat) (e : Int) : Nat := min (toFix m e) (200 * 2 ^ prec)

/-- 1/(1+e^-x) in fixed point. -/
def logisticFix (neg : Bool) (m : Nat) (e : Int) : Nat :=
  let t := expNeg (capped m e)
  if neg then t * 2 ^ prec / (2 ^ prec + t) else 2 ^ (2 * prec) / (2 ^ prec + t)

def logistic (neg : Bool) (m : Nat) (e : Int) : Ext := trunc40 false (logisticFix neg m e) prec

def tanh (neg : Bool) (m : Nat) (e : Int) : Ext :=
  let t := expNeg (2 * capped m e)
  trunc40 neg ((2 ^ prec - t) * 2 ^ prec / (2 ^ prec + t)) prec

/-- x/(1+e^-x). -/
def silu (neg : Bool) (m : Nat) (e : Int) : Ext := trunc40 neg (m * logisticFix neg m e) ((prec : Int) - e)

/-- VRCP with its special cases (R46). -/
def vrcp : Ext → Ext
  | .nan => .nan
  | .inf n => .zero n
  | .fin n m e => if m = 0 then .inf n else rcp n m e

def vrsq : Ext → Ext
  | .nan => .nan
  | .inf n => if n then .nan else .zero false
  | .fin n m e => if m = 0 then .inf n else if n then .nan else rsq m e

def vexp2 : Ext → Ext
  | .nan => .nan
  | .inf n => if n then .zero false else .inf false
  | .fin n m e => if m = 0 then .fin false 1 0 else exp2 n m e

def vlog2 : Ext → Ext
  | .nan => .nan
  | .inf n => if n then .nan else .inf false
  | .fin n m e => if m = 0 then .inf true else if n then .nan else log2 m e

/-- VACT by its selector: 0 logistic, 1 tanh, 2 silu. -/
def vact (sel : Nat) (x : Ext) : Ext :=
  match sel, x with
  | _, .nan => .nan
  | 0, .inf n => if n then .zero false else .fin false 1 0
  | 1, .inf n => .fin n 1 0
  | _, .inf n => if n then .zero true else .inf false
  | 0, .fin n m e => if m = 0 then .fin false 1 (-1) else logistic n m e
  | 1, .fin n m e => if m = 0 then .zero n else tanh n m e
  | _, .fin n m e => if m = 0 then .zero n else silu n m e

end Sys2Proof.Machine.Fun
end

