-- ==== Sys2Proof/Machine/Vec.lean ====
section
/-! DEFINITION. The VEC slot, VXS and VSX (R180 to R200). A skink's disagreement is no input of a meaning: it comes as
TIMING_REPLAY (R188). -/

namespace Sys2Proof.Machine

/-- A vector element type (R180): integer of w bits, or a float format. -/
inductive VType where
  | int (w : Nat) (signed : Bool)
  | float (f : FFmt)
  deriving DecidableEq, Repr

def VType.width : VType → Nat
  | .int w _ => w
  | .float f => f.width

/-- The types that vector arithmetic supports; FORMAT for every other code (R180). -/
def vtypeOf (code : Nat) : Except TrapInfo VType :=
  match elemOf code with
  | .int 32 s => .ok (.int 32 s)
  | .int 16 s => .ok (.int 16 s)
  | .float f => if code = 0xA ∨ code = 0xB ∨ code = 0xC then .ok (.float f) else .error formatTrap
  | _ => .error formatTrap

def Ctx.vtype (c : Ctx) : Except TrapInfo VType := vtypeOf (Fmt.vt c.base.regs.fmt)

/-- A float VT; an integer one raises FORMAT (R196). -/
def Ctx.floatType (c : Ctx) : Except TrapInfo FFmt := do
  match ← c.vtype with
  | .float f => return f
  | .int .. => throw formatTrap

/-- An integer VT; a float one raises FORMAT (R191). -/
def Ctx.intType (c : Ctx) : Except TrapInfo (Nat × Bool) := do
  match ← c.vtype with
  | .int w s => return (w, s)
  | .float _ => throw formatTrap

/-- The elements of a register that are active under MT, with new contents. -/
def mapActive (mt : Word64) (w : Nat) (f : Nat → Nat) : VReg × VReg :=
  packElems w (((List.range (2048 / w)).filter (active mt w)).map fun j => (j, f j))

/-- An integer element by its type's reading. -/
def intVal (w : Nat) (signed : Bool) (x : Nat) : Int := if signed then signExtend w x else (x : Int)

/-- An integer result: low bits, or saturated (R190). -/
def intResult (w : Nat) (signed : Bool) (m : BitVec 1) (r : Int) : Nat :=
  wrapInt w (if m = 1 then (if signed then satSigned w r else satUnsigned w r) else r)

/-- An element-wise operation on x = V[a], y = V[b], z = V[d] (R190). -/
def elementwise (t : Tag) (d a b : RField) (m : BitVec 1) (lat : Nat) (useZ : Bool)
    (fi : Int → Int → Int → Int) (ff : Bool → Ext → Ext → Ext → Ext) (s : State) : Out :=
  tileOp t (fun c => do
    let ty ← c.vtype
    let x ← c.base.vsrc a
    let y ← c.base.vsrc b
    let z ← if useZ then c.base.vsrc d else pure 0
    let fmt := c.base.regs.fmt
    let w := ty.width
    let r := mapActive c.base.mt w fun j =>
      match ty with
      | .int w sg => intResult w sg m
          (fi (intVal w sg (vElem w x j)) (intVal w sg (vElem w y j)) (intVal w sg (vElem w z j)))
      | .float f =>
        let v := fun q => decodeFlush (Fmt.ftzi fmt) f (vElem w q j)
        let mode := Fmt.rmArith fmt
        roundFloat f mode 0 (Fmt.ftzo fmt) (ff (mode == .rdn) (v x) (v y) (v z))
    return (c.live.landV c.slot lat d.toNat r.1 r.2, some lat)) s

def execVadd (t : Tag) (d a b : RField) (m : BitVec 1) (s : State) : Out :=
  elementwise t d a b m 2 false (fun x y _ => x + y) (fun rd x y _ => Ext.add rd x y) s
def execVsub (t : Tag) (d a b : RField) (m : BitVec 1) (s : State) : Out :=
  elementwise t d a b m 2 false (fun x y _ => x - y) (fun rd x y _ => Ext.sub rd x y) s
def execVmul (t : Tag) (d a b : RField) (m : BitVec 1) (s : State) : Out :=
  elementwise t d a b m 4 false (fun x y _ => x * y) (fun _ x y _ => Ext.mul x y) s
def execVfma (t : Tag) (d a b : RField) (m : BitVec 1) (s : State) : Out :=
  elementwise t d a b m 4 true (fun x y z => x * y + z) (fun rd x y z => Ext.add rd (Ext.mul x y) z) s
def execVfms (t : Tag) (d a b : RField) (m : BitVec 1) (s : State) : Out :=
  elementwise t d a b m 4 true (fun x y z => z - x * y) (fun rd x y z => Ext.sub rd z (Ext.mul x y)) s
def execVmin (t : Tag) (d a b : RField) (s : State) : Out :=
  elementwise t d a b 0 2 false (fun x y _ => min x y) (fun _ x y _ => Ext.minimum x y) s
def execVmax (t : Tag) (d a b : RField) (s : State) : Out :=
  elementwise t d a b 0 2 false (fun x y _ => max x y) (fun _ x y _ => Ext.maximum x y) s
def execVabs (t : Tag) (d a : RField) (m : BitVec 1) (s : State) : Out :=
  elementwise t d a a m 2 false (fun x _ _ => x.natAbs) (fun _ x _ _ => x.abs) s
def execVneg (t : Tag) (d a : RField) (m : BitVec 1) (s : State) : Out :=
  elementwise t d a a m 2 false (fun x _ _ => -x) (fun _ x _ _ => x.neg) s

/-- A bitwise operation on the active lanes, VT ignored (R191). -/
def bitwise (t : Tag) (d a b : RField) (f : VReg → VReg → VReg) (s : State) : Out :=
  tileOp t (fun c => do
    let x ← c.base.vsrc a
    let y ← c.base.vsrc b
    return (c.live.landV c.slot 2 d.toNat (f x y) (laneMask c.base.mt), some 2)) s

def execVand (t : Tag) (d a b : RField) (s : State) : Out := bitwise t d a b (· &&& ·) s
def execVor (t : Tag) (d a b : RField) (s : State) : Out := bitwise t d a b (· ||| ·) s
def execVxor (t : Tag) (d a b : RField) (s : State) : Out := bitwise t d a b (· ^^^ ·) s
def execVnot (t : Tag) (d a : RField) (s : State) : Out := bitwise t d a a (fun x _ => ~~~x) s
def execVmov (t : Tag) (d a : RField) (s : State) : Out := bitwise t d a a (fun x _ => x) s

/-- VSEL writes every lane (R191). -/
def execVsel (t : Tag) (d a b : RField) (s : State) : Out :=
  tileOp t (fun c => do
    let x ← c.base.vsrc a
    let y ← c.base.vsrc b
    let lm := laneMask c.base.mt
    return (c.live.landV c.slot 2 d.toNat ((x &&& lm) ||| (y &&& ~~~lm)) (BitVec.allOnes 2048), some 2)) s

/-- A shift: amounts per element, or with m = 1 from a scalar; the low log2 w bits count (R191). -/
def vshift (t : Tag) (d a b : RField) (m : BitVec 1) (f : Nat → Nat → Nat → Nat) (s : State) : Out :=
  tileOp t (fun c => do
    let (w, _) ← c.intType
    let x ← c.base.vsrc a
    let y ← if m = 1 then pure 0 else c.base.vsrc b
    let k ← if m = 1 then c.base.src b else pure 0
    let r := mapActive c.base.mt w fun j => f w (vElem w x j) (if m = 1 then k.toNat % w else vElem w y j % w)
    return (c.live.landV c.slot 2 d.toNat r.1 r.2, some 2)) s

def execVshl (t : Tag) (d a b : RField) (m : BitVec 1) (s : State) : Out :=
  vshift t d a b m (fun _ x k => x * 2 ^ k) s
def execVshr (t : Tag) (d a b : RField) (m : BitVec 1) (s : State) : Out :=
  vshift t d a b m (fun _ x k => x / 2 ^ k) s
def execVsra (t : Tag) (d a b : RField) (m : BitVec 1) (s : State) : Out :=
  vshift t d a b m (fun w x k => wrapInt w (signExtend w x / 2 ^ k)) s

/-! ### Conversion (R192) -/

def execVcvt (t : Tag) (d a : RField) (lit : Word32) (s : State) : Out :=
  tileOp t (fun c => do
    let src := (lit.extractLsb' 0 4).toNat
    let dst := (lit.extractLsb' 4 4).toNat
    if cvtFormat src || cvtFormat dst then throw formatTrap
    let fmt := c.base.regs.fmt
    let rms := (lit.extractLsb' 8 3).toNat
    let mode := if rms = 7 then Fmt.rm fmt else RMode.ofCode rms
    let x ← c.base.vsrc a
    let (z, live) ← c.live.popIf mode
    let sp := (lit.extractLsb' 11 2).toNat
    let dp := (lit.extractLsb' 13 2).toNat
    let ws := 8 * elemSize src
    let wd := 8 * elemSize dst
    let r := packElems wd (((List.range 64).filter fun j => c.base.mt.getLsbD j).map fun j =>
      (64 * dp + j, roundElem dst mode (slice z j) (Fmt.ftzo fmt)
        (decodeElem (Fmt.ftzi fmt) src (vElem ws x (64 * sp + j)))))
    return (live.landV c.slot 3 d.toNat r.1 r.2, some 3)) s

/-! ### Reductions and scans (R48, R49, R193, R194) -/

/-- The float function of a selector: sum, min, max. -/
def redFloat (rdn : Bool) (sel : Nat) (x y : Ext) : Ext :=
  match sel with
  | 0 => Ext.add rdn x y
  | 1 => Ext.minimum x y
  | _ => Ext.maximum x y

/-- The float identities (R193). -/
def idFloat (sel : Nat) : Ext :=
  match sel with
  | 0 => .zero true
  | 1 => .inf false
  | _ => .inf true

/-- One level of the tree; a masked element (none) leaves the other value unchanged (R48). -/
def treeLevel (op : Ext → Ext → Ext) (rnd : Ext → Ext) : List (Option Ext) → List (Option Ext)
  | x :: y :: r =>
    (match x, y with
      | some u, some v => some (rnd (op u v))
      | some u, none => some (rnd u)
      | none, some v => some (rnd v)
      | none, none => none) :: treeLevel op rnd r
  | l => l

def treeReduce (op : Ext → Ext → Ext) (rnd : Ext → Ext) : Nat → List (Option Ext) → Option Ext
  | 0, l => l.headD none
  | n + 1, l => treeReduce op rnd n (treeLevel op rnd l)

/-- The integer function of a selector, and its identity (R193). -/
def redInt (w sel : Nat) (x y : Int) : Int :=
  match sel with
  | 0 => x + y
  | 1 => min x y
  | 2 => max x y
  | 3 => (wrapInt w x &&& wrapInt w y : Nat)
  | 4 => (wrapInt w x ||| wrapInt w y : Nat)
  | _ => (wrapInt w x ^^^ wrapInt w y : Nat)

def idInt (w : Nat) (signed : Bool) (sel : Nat) : Int :=
  match sel with
  | 1 => if signed then 2 ^ (w - 1) - 1 else 2 ^ w - 1
  | 2 => if signed then -(2 ^ (w - 1)) else 0
  | 3 => 2 ^ w - 1
  | _ => 0

/-- An exact integer result written once: a sum saturates, the bit operations keep their pattern. -/
def redWrite (w : Nat) (signed : Bool) (sel : Nat) (r : Int) : Nat :=
  if sel ≤ 2 then wrapInt w (if signed then satSigned w r else satUnsigned w r) else wrapInt w r

/-- A value through its format: rounded and read back (R48, R49). -/
def through (f : FFmt) (mode : RMode) (ftzo : Bool) (x : Ext) : Ext := decodeFloat f (roundFloat f mode 0 ftzo x)

def execVred (t : Tag) (d a b : RField) (s : State) : Out :=
  tileOp t (fun c => do
    let ty ← c.vtype
    let sel := b.toNat
    let x ← c.base.vsrc a
    let fmt := c.base.regs.fmt
    let w := ty.width
    let n := 2048 / w
    let res ← match ty with
      | .float f =>
        if 3 ≤ sel then throw formatTrap
        let mode := Fmt.rmArith fmt
        let vals := (List.range n).map fun j =>
          if active c.base.mt w j then some (decodeFlush (Fmt.ftzi fmt) f (vElem w x j)) else none
        let r := treeReduce (redFloat (mode == .rdn) sel) (through f mode (Fmt.ftzo fmt)) (n.log2) vals
        pure (roundFloat f mode 0 (Fmt.ftzo fmt) (r.getD (idFloat sel)))
      | .int w sg =>
        let vals := ((List.range n).filter (active c.base.mt w)).map fun j => intVal w sg (vElem w x j)
        pure (redWrite w sg sel (vals.foldl (redInt w sel) (idInt w sg sel)))
    let r := packElems w [(0, res)]
    return (c.live.landV c.slot 8 d.toNat r.1 r.2, some 8)) s

/-- One step of the fold: a masked element leaves the value, which the step still rounds (R49). -/
def foldStep (op : Ext → Ext → Ext) (rnd : Ext → Ext) (a x : Option Ext) : Option Ext :=
  match a, x with
  | some u, some v => some (rnd (op u v))
  | some u, none => some (rnd u)
  | none, some v => some (rnd v)
  | none, none => none

/-- Running values of a left fold after a first value. -/
def scanRest (op : Ext → Ext → Ext) (rnd : Ext → Ext) : Option Ext → List (Option Ext) → List (Option Ext)
  | _, [] => []
  | a, x :: r =>
    let a' := foldStep op rnd a x
    a' :: scanRest op rnd a' r

/-- Running values of a left fold; the first element needs no step (R49). -/
def scanFloat (op : Ext → Ext → Ext) (rnd : Ext → Ext) : List (Option Ext) → List (Option Ext)
  | [] => []
  | x :: r => x :: scanRest op rnd x r

def scanInt (op : Int → Int → Int) : Int → List (Option Int) → List Int
  | _, [] => []
  | a, x :: r =>
    let a' := match x with
      | some v => op a v
      | none => a
    a' :: scanInt op a' r

def execVscan (t : Tag) (d a b : RField) (s : State) : Out :=
  tileOp t (fun c => do
    let ty ← c.vtype
    let sel := b.toNat
    let x ← c.base.vsrc a
    let fmt := c.base.regs.fmt
    let w := ty.width
    let n := 2048 / w
    let es : List Nat := match ty with
      | .float f =>
        let mode := Fmt.rmArith fmt
        let vals := (List.range n).map fun j =>
          if active c.base.mt w j then some (decodeFlush (Fmt.ftzi fmt) f (vElem w x j)) else (none : Option Ext)
        (scanFloat (redFloat (mode == .rdn) sel) (through f mode (Fmt.ftzo fmt)) vals).map fun (v : Option Ext) =>
          roundFloat f mode 0 (Fmt.ftzo fmt) (v.getD (idFloat sel))
      | .int w sg =>
        let vals := (List.range n).map fun j =>
          if active c.base.mt w j then some (intVal w sg (vElem w x j)) else none
        (scanInt (redInt w sel) (idInt w sg sel) vals).map (redWrite w sg sel)
    let r := packElems w (es.zipIdx.map fun e => (e.2, e.1))
    return (c.live.landV c.slot 8 d.toNat r.1 r.2, some 8)) s

/-! ### Placement (R195) -/

def execVperm (t : Tag) (d a b : RField) (m : BitVec 1) (s : State) : Out :=
  tileOp t (fun c => do
    let ty ← c.vtype
    let x ← c.base.vsrc a
    let y ← c.base.vsrc b
    let w := ty.width
    let n := 2048 / w
    let r := mapActive c.base.mt w fun j =>
      let q := vElem w y j
      if m = 1 ∧ n ≤ q then 0 else vElem w x (q % n)
    return (c.live.landV c.slot 3 d.toNat r.1 r.2, some 3)) s

def execVbcst (t : Tag) (d a : RField) (s : State) : Out :=
  tileOp t (fun c => do
    let ty ← c.vtype
    let x ← c.base.src a
    let r := mapActive c.base.mt ty.width fun _ => x.toNat
    return (c.live.landV c.slot 2 d.toNat r.1 r.2, some 2)) s

def execVbcstLane (t : Tag) (d a b : RField) (s : State) : Out :=
  tileOp t (fun c => do
    let ty ← c.vtype
    let x ← c.base.vsrc a
    let r := mapActive c.base.mt ty.width fun _ => vElem ty.width x b.toNat
    return (c.live.landV c.slot 2 d.toNat r.1 r.2, some 2)) s

/-- VIOTA; viota.c counts the active elements below (R195). -/
def execViota (t : Tag) (d a : RField) (m : BitVec 1) (s : State) : Out :=
  tileOp t (fun c => do
    let ty ← c.vtype
    let x ← c.base.src a
    let w := ty.width
    let r := mapActive c.base.mt w fun j =>
      x.toNat + (if m = 1 then ((List.range j).filter (active c.base.mt w)).length else j)
    return (c.live.landV c.slot 2 d.toNat r.1 r.2, some 2)) s

/-! ### Reciprocals, exponentials, activations (R196) -/

def vfunction (t : Tag) (d a : RField) (lat : Nat) (f : Ext → Ext) (s : State) : Out :=
  tileOp t (fun c => do
    let ty ← c.floatType
    let x ← c.base.vsrc a
    let fmt := c.base.regs.fmt
    let w := ty.width
    let r := mapActive c.base.mt w fun j =>
      roundFloat ty .rne 0 (Fmt.ftzo fmt) (f (decodeFlush (Fmt.ftzi fmt) ty (vElem w x j)))
    return (c.live.landV c.slot lat d.toNat r.1 r.2, some lat)) s

def execVrcp (t : Tag) (d a : RField) (s : State) : Out := vfunction t d a 6 Fun.vrcp s
def execVrsq (t : Tag) (d a : RField) (s : State) : Out := vfunction t d a 6 Fun.vrsq s
def execVexp2 (t : Tag) (d a : RField) (s : State) : Out := vfunction t d a 6 Fun.vexp2 s
def execVlog2 (t : Tag) (d a : RField) (s : State) : Out := vfunction t d a 6 Fun.vlog2 s
def execVact (t : Tag) (d a b : RField) (s : State) : Out := vfunction t d a 8 (Fun.vact b.toNat) s

/-! ### Mask operations (R197) -/

/-- A word with bit i as the function says. -/
def bitsOf (f : Nat → Bool) : Word64 :=
  (List.range 64).foldl (fun w i => if f i then w ||| ((1 : Word64) <<< i) else w) 0

/-- The condition of MSPUSH and MSAND per lane (R197). -/
def Ctx.laneCond (c : Ctx) (cc : BitVec 3) (h : BitVec 1) (a b : RField) : Except TrapInfo Word64 := do
  let ty ← c.vtype
  let w := ty.width
  if h = 1 ∧ w = 32 then throw formatTrap
  let x ← c.base.vsrc a
  let y ← c.base.vsrc b
  let fmt := c.base.regs.fmt
  return bitsOf fun i =>
    let e := if w = 32 then i else 2 * i + h.toNat
    let p := vElem w x e
    let q := vElem w y e
    match ty with
    | .int w _ => condInt cc.toNat w p q
    | .float f => condFloat cc.toNat (decodeFlush (Fmt.ftzi fmt) f p) (decodeFlush (Fmt.ftzi fmt) f q)

/-- Push MT and c; a full stack raises MASK_UNDERFLOW with 1 (R197). -/
def Ctx.pushMask (c : Ctx) (v : Word64) : Except TrapInfo (Seat × Option Nat) :=
  let k := c.base.regs.depth
  if 8 ≤ k then .error (trapAt 0x08 1)
  else
    let r := { c.live.regs with mask := c.live.regs.mask.setIfInBounds k (c.base.mt &&& v), depth := k + 1 }
    .ok ({ c.live with regs := r }, some 1)

/-- A push onto a full stack raises MASK_UNDERFLOW with 1 before its condition is formed (R197). -/
def Ctx.roomMask (c : Ctx) : Except TrapInfo Unit := if 8 ≤ c.base.regs.depth then .error (trapAt 0x08 1) else .ok ()

/-- Replace the top entry. -/
def Ctx.setMask (c : Ctx) (v : Word64) : Seat × Option Nat :=
  ({ c.live with regs := { c.live.regs with
      mask := c.live.regs.mask.setIfInBounds (c.base.regs.depth - 1) v } }, some 1)

def execMspush (t : Tag) (cc : BitVec 3) (h : BitVec 1) (a b : RField) (s : State) : Out :=
  tileOp t (fun c => do
    c.roomMask
    c.pushMask (← c.laneCond cc h a b)) s

def execMspushScalar (t : Tag) (a : RField) (s : State) : Out :=
  tileOp t (fun c => do
    c.roomMask
    c.pushMask (← c.base.src a)) s

def execMsinv (t : Tag) (s : State) : Out :=
  tileOp t (fun c =>
    let k := c.base.regs.depth
    let parent := if 2 ≤ k then c.base.regs.mask.getD (k - 2) 0 else BitVec.allOnes 64
    .ok (c.setMask (parent &&& ~~~c.base.mt))) s

/-- Pop; depth 1 raises MASK_UNDERFLOW with 0. The entry above stays as it is (R182, R197). -/
def execMspop (t : Tag) (s : State) : Out :=
  tileOp t (fun c =>
    let k := c.base.regs.depth
    if k ≤ 1 then .error (trapAt 0x08 0)
    else .ok ({ c.live with regs := { c.live.regs with depth := k - 1 } }, some 1)) s

def execMsand (t : Tag) (cc : BitVec 3) (h : BitVec 1) (a b : RField) (s : State) : Out :=
  tileOp t (fun c => do return c.setMask (c.base.mt &&& (← c.laneCond cc h a b))) s

def execMsandScalar (t : Tag) (a : RField) (s : State) : Out :=
  tileOp t (fun c => do return c.setMask (c.base.mt &&& (← c.base.src a))) s

/-! ### Counts and scalar moves (R198, R199) -/

def execVpopc (t : Tag) (d : RField) (s : State) : Out :=
  tileOp t (fun c => .ok (c.live.landS c.slot 2 d.toNat (BitVec.ofNat 64 (popcBits 64 c.base.mt.toNat)), some 2)) s

def execVpopcLanes (t : Tag) (d a : RField) (s : State) : Out :=
  tileOp t (fun c => do
    let x ← c.base.vsrc a
    let n := ((List.range 64).filter fun i => c.base.mt.getLsbD i && vElem 32 x i != 0).length
    return (c.live.landS c.slot 2 d.toNat (BitVec.ofNat 64 n), some 2)) s

def execVxs (t : Tag) (d a b : RField) (s : State) : Out :=
  tileOp t (fun c => do
    let ty ← c.vtype
    let x ← c.base.vsrc a
    let q ← c.base.src b
    let w := ty.width
    let e := vElem w x (q.toNat % (2048 / w))
    let v := match ty with
      | .int w true => BitVec.ofInt 64 (signExtend w e)
      | _ => BitVec.ofNat 64 e
    return (c.live.landS c.slot 2 d.toNat v, some 2)) s

def execVsx (t : Tag) (d a b : RField) (s : State) : Out :=
  tileOp t (fun c => do
    let ty ← c.vtype
    let x ← c.base.src a
    let q ← c.base.src b
    let w := ty.width
    let r := packElems w [(q.toNat % (2048 / w), x.toNat)]
    return (c.live.landV c.slot 2 d.toNat r.1 r.2, some 2)) s

end Sys2Proof.Machine
end

