-- ==== Sys2Proof/Machine/Dispatch.lean ====
section
/-! DEFINITION. One arm per constructor of Instr, each one call of its meaning. -/

namespace Sys2Proof.Machine

def exec (i : Instr) (s : State) : Host.Outcome State Fault Refusal :=
  match i with
  | .nop x1 => Sys2Proof.Machine.execNop x1 s
  | .br x1 x2 x3 x4 x5 => Sys2Proof.Machine.execBr x1 x2 x3 x4 x5 s
  | .brv x1 x2 x3 x4 => Sys2Proof.Machine.execBrv x1 x2 x3 x4 s
  | .jmp x1 x2 => Sys2Proof.Machine.execJmp x1 x2 s
  | .jmpReg x1 => Sys2Proof.Machine.execJmpReg x1 s
  | .call x1 x2 => Sys2Proof.Machine.execCall x1 x2 s
  | .callReg x1 => Sys2Proof.Machine.execCallReg x1 s
  | .ret => Sys2Proof.Machine.execRet s
  | .loop x1 => Sys2Proof.Machine.execLoop x1 s
  | .lbrk x1 => Sys2Proof.Machine.execLbrk x1 s
  | .yield => Sys2Proof.Machine.execYield s
  | .skpz => Sys2Proof.Machine.execSkpz s
  | .skpe => Sys2Proof.Machine.execSkpe s
  | .halt => Sys2Proof.Machine.execHalt s
  | .trap x1 => Sys2Proof.Machine.execTrap x1 s
  | .hndl x1 x2 x3 => Sys2Proof.Machine.execHndl x1 x2 x3 s
  | .hndlRemove x1 => Sys2Proof.Machine.execHndlRemove x1 s
  | .reth => Sys2Proof.Machine.execReth s
  | .fmtw x1 x2 => Sys2Proof.Machine.execFmtw x1 x2 s
  | .bari x1 x2 x3 x4 => Sys2Proof.Machine.execBari x1 x2 x3 x4 s
  | .bara x1 x2 x3 x4 => Sys2Proof.Machine.execBara x1 x2 x3 x4 s
  | .barw x1 x2 => Sys2Proof.Machine.execBarw x1 x2 s
  | .semi x1 x2 x3 x4 => Sys2Proof.Machine.execSemi x1 x2 x3 x4 s
  | .sems x1 x2 x3 x4 => Sys2Proof.Machine.execSems x1 x2 x3 x4 s
  | .semw x1 x2 x3 => Sys2Proof.Machine.execSemw x1 x2 x3 s
  | .wpw x1 x2 => Sys2Proof.Machine.execWpw x1 x2 s
  | .fenceAcq x1 => Sys2Proof.Machine.execFenceAcq x1 s
  | .fenceRel x1 => Sys2Proof.Machine.execFenceRel x1 s
  | .fenceFull x1 => Sys2Proof.Machine.execFenceFull x1 s
  | .fsc => Sys2Proof.Machine.execFsc s
  | .sysr x1 x2 => Sys2Proof.Machine.execSysr x1 x2 s
  | .sysw x1 x2 => Sys2Proof.Machine.execSysw x1 x2 s
  | .brk x1 => Sys2Proof.Machine.execBrk x1 s
  | .uniAdd x1 x2 x3 x4 => Sys2Proof.Machine.execUniAdd x1 x2 x3 x4 s
  | .uniSub x1 x2 x3 x4 => Sys2Proof.Machine.execUniSub x1 x2 x3 x4 s
  | .uniAnd x1 x2 x3 x4 => Sys2Proof.Machine.execUniAnd x1 x2 x3 x4 s
  | .uniOr x1 x2 x3 x4 => Sys2Proof.Machine.execUniOr x1 x2 x3 x4 s
  | .uniXor x1 x2 x3 x4 => Sys2Proof.Machine.execUniXor x1 x2 x3 x4 s
  | .uniShl x1 x2 x3 x4 => Sys2Proof.Machine.execUniShl x1 x2 x3 x4 s
  | .uniShr x1 x2 x3 x4 => Sys2Proof.Machine.execUniShr x1 x2 x3 x4 s
  | .uniSra x1 x2 x3 x4 => Sys2Proof.Machine.execUniSra x1 x2 x3 x4 s
  | .uniMul x1 x2 x3 x4 => Sys2Proof.Machine.execUniMul x1 x2 x3 x4 s
  | .uniMulh x1 x2 x3 x4 x5 => Sys2Proof.Machine.execUniMulh x1 x2 x3 x4 x5 s
  | .uniMin x1 x2 x3 x4 => Sys2Proof.Machine.execUniMin x1 x2 x3 x4 s
  | .uniMax x1 x2 x3 x4 => Sys2Proof.Machine.execUniMax x1 x2 x3 x4 s
  | .minu x1 x2 x3 x4 => Sys2Proof.Machine.execMinu x1 x2 x3 x4 s
  | .maxu x1 x2 x3 x4 => Sys2Proof.Machine.execMaxu x1 x2 x3 x4 s
  | .uniAddi x1 x2 x3 x4 x5 => Sys2Proof.Machine.execUniAddi x1 x2 x3 x4 x5 s
  | .uniLi x1 x2 x3 x4 => Sys2Proof.Machine.execUniLi x1 x2 x3 x4 s
  | .uniLiHi x1 x2 x3 x4 => Sys2Proof.Machine.execUniLiHi x1 x2 x3 x4 s
  | .ldp x1 x2 x3 => Sys2Proof.Machine.execLdp x1 x2 x3 s
  | .vote x1 x2 x3 x4 => Sys2Proof.Machine.execVote x1 x2 x3 x4 s
  | .gidx x1 x2 x3 => Sys2Proof.Machine.execGidx x1 x2 x3 s
  | .hld x1 x2 x3 => Sys2Proof.Machine.execHld x1 x2 x3 s
  | .hget x1 x2 x3 x4 x5 => Sys2Proof.Machine.execHget x1 x2 x3 x4 x5 s
  | .hset x1 x2 x3 x4 => Sys2Proof.Machine.execHset x1 x2 x3 x4 s
  | .hcpy x1 x2 x3 => Sys2Proof.Machine.execHcpy x1 x2 x3 s
  | .hbind x1 x2 x3 => Sys2Proof.Machine.execHbind x1 x2 x3 s
  | .hval x1 x2 x3 => Sys2Proof.Machine.execHval x1 x2 x3 s
  | .uniClz x1 x2 x3 => Sys2Proof.Machine.execUniClz x1 x2 x3 s
  | .uniSel x1 x2 x3 x4 => Sys2Proof.Machine.execUniSel x1 x2 x3 x4 s
  | .adrAdd x1 x2 x3 x4 => Sys2Proof.Machine.execAdrAdd x1 x2 x3 x4 s
  | .adrSub x1 x2 x3 x4 => Sys2Proof.Machine.execAdrSub x1 x2 x3 x4 s
  | .adrAnd x1 x2 x3 x4 => Sys2Proof.Machine.execAdrAnd x1 x2 x3 x4 s
  | .adrOr x1 x2 x3 x4 => Sys2Proof.Machine.execAdrOr x1 x2 x3 x4 s
  | .adrXor x1 x2 x3 x4 => Sys2Proof.Machine.execAdrXor x1 x2 x3 x4 s
  | .adrShl x1 x2 x3 x4 => Sys2Proof.Machine.execAdrShl x1 x2 x3 x4 s
  | .adrShr x1 x2 x3 x4 => Sys2Proof.Machine.execAdrShr x1 x2 x3 x4 s
  | .adrSra x1 x2 x3 x4 => Sys2Proof.Machine.execAdrSra x1 x2 x3 x4 s
  | .adrMul x1 x2 x3 x4 => Sys2Proof.Machine.execAdrMul x1 x2 x3 x4 s
  | .adrMulh x1 x2 x3 x4 x5 => Sys2Proof.Machine.execAdrMulh x1 x2 x3 x4 x5 s
  | .adrMin x1 x2 x3 x4 x5 => Sys2Proof.Machine.execAdrMin x1 x2 x3 x4 x5 s
  | .adrMax x1 x2 x3 x4 x5 => Sys2Proof.Machine.execAdrMax x1 x2 x3 x4 x5 s
  | .adrAddi x1 x2 x3 x4 x5 => Sys2Proof.Machine.execAdrAddi x1 x2 x3 x4 x5 s
  | .adrLi x1 x2 x3 x4 => Sys2Proof.Machine.execAdrLi x1 x2 x3 x4 s
  | .adrLiHi x1 x2 x3 x4 => Sys2Proof.Machine.execAdrLiHi x1 x2 x3 x4 s
  | .cmp x1 x2 x3 x4 x5 x6 => Sys2Proof.Machine.execCmp x1 x2 x3 x4 x5 x6 s
  | .plog x1 x2 x3 x4 x5 => Sys2Proof.Machine.execPlog x1 x2 x3 x4 x5 s
  | .adrSel x1 x2 x3 x4 => Sys2Proof.Machine.execAdrSel x1 x2 x3 x4 s
  | .adrClz x1 x2 x3 x4 => Sys2Proof.Machine.execAdrClz x1 x2 x3 x4 s
  | .popc x1 x2 x3 x4 => Sys2Proof.Machine.execPopc x1 x2 x3 x4 s
  | .tadr x1 x2 x3 x4 x5 => Sys2Proof.Machine.execTadr x1 x2 x3 x4 x5 s
  | .ld x1 x2 x3 x4 x5 x6 => Sys2Proof.Machine.execLd x1 x2 x3 x4 x5 x6 s
  | .st x1 x2 x3 x4 x5 x6 => Sys2Proof.Machine.execSt x1 x2 x3 x4 x5 x6 s
  | .ldr x1 x2 x3 x4 x5 x6 => Sys2Proof.Machine.execLdr x1 x2 x3 x4 x5 x6 s
  | .str x1 x2 x3 x4 x5 x6 => Sys2Proof.Machine.execStr x1 x2 x3 x4 x5 x6 s
  | .amo x1 x2 x3 x4 x5 x6 => Sys2Proof.Machine.execAmo x1 x2 x3 x4 x5 x6 s
  | .amor x1 x2 x3 x4 x5 x6 x7 => Sys2Proof.Machine.execAmor x1 x2 x3 x4 x5 x6 x7 s
  | .ownEng x1 x2 x3 => Sys2Proof.Machine.execOwnEng x1 x2 x3 s
  | .ownThr x1 x2 x3 => Sys2Proof.Machine.execOwnThr x1 x2 x3 s
  | .wpr x1 x2 x3 => Sys2Proof.Machine.execWpr x1 x2 x3 s
  | .ljoin x1 x2 x3 x4 x5 => Sys2Proof.Machine.execLjoin x1 x2 x3 x4 x5 s
  | .ljoinSc x1 x2 x3 x4 x5 => Sys2Proof.Machine.execLjoinSc x1 x2 x3 x4 x5 s
  | .lstm x1 x2 x3 x4 x5 => Sys2Proof.Machine.execLstm x1 x2 x3 x4 x5 s
  | .linc x1 x2 x3 x4 x5 => Sys2Proof.Machine.execLinc x1 x2 x3 x4 x5 s
  | .lld x1 x2 x3 x4 x5 => Sys2Proof.Machine.execLld x1 x2 x3 x4 x5 s
  | .lwait x1 x2 x3 x4 x5 => Sys2Proof.Machine.execLwait x1 x2 x3 x4 x5 s
  | .vadd x1 x2 x3 x4 x5 => Sys2Proof.Machine.execVadd x1 x2 x3 x4 x5 s
  | .vsub x1 x2 x3 x4 x5 => Sys2Proof.Machine.execVsub x1 x2 x3 x4 x5 s
  | .vmul x1 x2 x3 x4 x5 => Sys2Proof.Machine.execVmul x1 x2 x3 x4 x5 s
  | .vfma x1 x2 x3 x4 x5 => Sys2Proof.Machine.execVfma x1 x2 x3 x4 x5 s
  | .vfms x1 x2 x3 x4 x5 => Sys2Proof.Machine.execVfms x1 x2 x3 x4 x5 s
  | .vmin x1 x2 x3 x4 => Sys2Proof.Machine.execVmin x1 x2 x3 x4 s
  | .vmax x1 x2 x3 x4 => Sys2Proof.Machine.execVmax x1 x2 x3 x4 s
  | .vabs x1 x2 x3 x4 => Sys2Proof.Machine.execVabs x1 x2 x3 x4 s
  | .vneg x1 x2 x3 x4 => Sys2Proof.Machine.execVneg x1 x2 x3 x4 s
  | .vand x1 x2 x3 x4 => Sys2Proof.Machine.execVand x1 x2 x3 x4 s
  | .vor x1 x2 x3 x4 => Sys2Proof.Machine.execVor x1 x2 x3 x4 s
  | .vxor x1 x2 x3 x4 => Sys2Proof.Machine.execVxor x1 x2 x3 x4 s
  | .vnot x1 x2 x3 => Sys2Proof.Machine.execVnot x1 x2 x3 s
  | .vshl x1 x2 x3 x4 x5 => Sys2Proof.Machine.execVshl x1 x2 x3 x4 x5 s
  | .vshr x1 x2 x3 x4 x5 => Sys2Proof.Machine.execVshr x1 x2 x3 x4 x5 s
  | .vsra x1 x2 x3 x4 x5 => Sys2Proof.Machine.execVsra x1 x2 x3 x4 x5 s
  | .vsel x1 x2 x3 x4 => Sys2Proof.Machine.execVsel x1 x2 x3 x4 s
  | .vcvt x1 x2 x3 x4 => Sys2Proof.Machine.execVcvt x1 x2 x3 x4 s
  | .vred x1 x2 x3 x4 => Sys2Proof.Machine.execVred x1 x2 x3 x4 s
  | .vscan x1 x2 x3 x4 => Sys2Proof.Machine.execVscan x1 x2 x3 x4 s
  | .vperm x1 x2 x3 x4 x5 => Sys2Proof.Machine.execVperm x1 x2 x3 x4 x5 s
  | .vbcst x1 x2 x3 => Sys2Proof.Machine.execVbcst x1 x2 x3 s
  | .vbcstLane x1 x2 x3 x4 => Sys2Proof.Machine.execVbcstLane x1 x2 x3 x4 s
  | .viota x1 x2 x3 x4 => Sys2Proof.Machine.execViota x1 x2 x3 x4 s
  | .vrcp x1 x2 x3 => Sys2Proof.Machine.execVrcp x1 x2 x3 s
  | .vrsq x1 x2 x3 => Sys2Proof.Machine.execVrsq x1 x2 x3 s
  | .vexp2 x1 x2 x3 => Sys2Proof.Machine.execVexp2 x1 x2 x3 s
  | .vlog2 x1 x2 x3 => Sys2Proof.Machine.execVlog2 x1 x2 x3 s
  | .vmov x1 x2 x3 => Sys2Proof.Machine.execVmov x1 x2 x3 s
  | .mspush x1 x2 x3 x4 x5 => Sys2Proof.Machine.execMspush x1 x2 x3 x4 x5 s
  | .mspushScalar x1 x2 => Sys2Proof.Machine.execMspushScalar x1 x2 s
  | .msinv x1 => Sys2Proof.Machine.execMsinv x1 s
  | .mspop x1 => Sys2Proof.Machine.execMspop x1 s
  | .msand x1 x2 x3 x4 x5 => Sys2Proof.Machine.execMsand x1 x2 x3 x4 x5 s
  | .msandScalar x1 x2 => Sys2Proof.Machine.execMsandScalar x1 x2 s
  | .vpopc x1 x2 => Sys2Proof.Machine.execVpopc x1 x2 s
  | .vpopcLanes x1 x2 x3 => Sys2Proof.Machine.execVpopcLanes x1 x2 x3 s
  | .vact x1 x2 x3 x4 => Sys2Proof.Machine.execVact x1 x2 x3 x4 s
  | .vld x1 x2 x3 x4 x5 x6 => Sys2Proof.Machine.execVld x1 x2 x3 x4 x5 x6 s
  | .vst x1 x2 x3 x4 x5 x6 => Sys2Proof.Machine.execVst x1 x2 x3 x4 x5 x6 s
  | .vlds x1 x2 x3 x4 x5 x6 => Sys2Proof.Machine.execVlds x1 x2 x3 x4 x5 x6 s
  | .vsts x1 x2 x3 x4 x5 x6 => Sys2Proof.Machine.execVsts x1 x2 x3 x4 x5 x6 s
  | .vgth x1 x2 x3 x4 x5 => Sys2Proof.Machine.execVgth x1 x2 x3 x4 x5 s
  | .vsct x1 x2 x3 x4 x5 => Sys2Proof.Machine.execVsct x1 x2 x3 x4 x5 s
  | .vldr x1 x2 x3 x4 x5 x6 => Sys2Proof.Machine.execVldr x1 x2 x3 x4 x5 x6 s
  | .vstr x1 x2 x3 x4 x5 x6 => Sys2Proof.Machine.execVstr x1 x2 x3 x4 x5 x6 s
  | .vxs x1 x2 x3 x4 => Sys2Proof.Machine.execVxs x1 x2 x3 x4 s
  | .vsx x1 x2 x3 x4 => Sys2Proof.Machine.execVsx x1 x2 x3 x4 s
  | .vldx x1 x2 x3 x4 x5 => Sys2Proof.Machine.execVldx x1 x2 x3 x4 x5 s
  | .vtrp x1 x2 x3 x4 x5 => Sys2Proof.Machine.execVtrp x1 x2 x3 x4 x5 s
  | .mpush x1 x2 x3 x4 x5 x6 x7 => Sys2Proof.Machine.execMpush x1 x2 x3 x4 x5 x6 x7 s
  | .mshift x1 x2 x3 x4 x5 x6 x7 x8 x9 => Sys2Proof.Machine.execMshift x1 x2 x3 x4 x5 x6 x7 x8 x9 s
  | .macc x1 x2 x3 x4 x5 x6 x7 x8 x9 => Sys2Proof.Machine.execMacc x1 x2 x3 x4 x5 x6 x7 x8 x9 s
  | .macs x1 x2 x3 x4 x5 x6 x7 x8 x9 => Sys2Proof.Machine.execMacs x1 x2 x3 x4 x5 x6 x7 x8 x9 s
  | .mdrain x1 x2 x3 x4 x5 => Sys2Proof.Machine.execMdrain x1 x2 x3 x4 x5 s
  | .mclr x1 x2 => Sys2Proof.Machine.execMclr x1 x2 s
  | .mbmap x1 x2 x3 => Sys2Proof.Machine.execMbmap x1 x2 x3 s
  | .mchk x1 x2 => Sys2Proof.Machine.execMchk x1 x2 s
  | .mfix x1 x2 x3 x4 => Sys2Proof.Machine.execMfix x1 x2 x3 x4 s
  | .mstat x1 x2 x3 x4 => Sys2Proof.Machine.execMstat x1 x2 x3 x4 s
  | .xadd x1 x2 x3 => Sys2Proof.Machine.execXadd x1 x2 x3 s
  | .xlds x1 x2 x3 x4 => Sys2Proof.Machine.execXlds x1 x2 x3 x4 s
  | .xclr x1 x2 => Sys2Proof.Machine.execXclr x1 x2 s
  | .cpyi x1 x2 x3 x4 x5 x6 => Sys2Proof.Machine.execCpyi x1 x2 x3 x4 x5 x6 s
  | .cpyo x1 x2 x3 x4 x5 x6 => Sys2Proof.Machine.execCpyo x1 x2 x3 x4 x5 x6 s
  | .cpys x1 x2 x3 x4 x5 x6 => Sys2Proof.Machine.execCpys x1 x2 x3 x4 x5 x6 s
  | .cpyx x1 x2 x3 x4 x5 x6 => Sys2Proof.Machine.execCpyx x1 x2 x3 x4 x5 x6 s
  | .cpyr x1 x2 x3 x4 x5 x6 => Sys2Proof.Machine.execCpyr x1 x2 x3 x4 x5 x6 s
  | .cpyl x1 x2 x3 x4 x5 x6 => Sys2Proof.Machine.execCpyl x1 x2 x3 x4 x5 x6 s
  | .cpyk x1 x2 x3 x4 => Sys2Proof.Machine.execCpyk x1 x2 x3 x4 s
  | .rrot x1 x2 x3 x4 x5 x6 => Sys2Proof.Machine.execRrot x1 x2 x3 x4 x5 x6 s
  | .mcst x1 x2 x3 x4 x5 x6 => Sys2Proof.Machine.execMcst x1 x2 x3 x4 x5 x6 s
  | .route x1 x2 x3 x4 x5 x6 => Sys2Proof.Machine.execRoute x1 x2 x3 x4 x5 x6 s
  | .a2av x1 x2 x3 x4 x5 x6 => Sys2Proof.Machine.execA2av x1 x2 x3 x4 x5 x6 s
  | .ared x1 x2 x3 x4 x5 x6 => Sys2Proof.Machine.execAred x1 x2 x3 x4 x5 x6 s
  | .agth x1 x2 x3 x4 x5 x6 => Sys2Proof.Machine.execAgth x1 x2 x3 x4 x5 x6 s
  | .sendo x1 x2 x3 x4 x5 x6 => Sys2Proof.Machine.execSendo x1 x2 x3 x4 x5 x6 s
  | .rngs x1 x2 => Sys2Proof.Machine.execRngs x1 x2 s
  | .bundleSend x1 => Sys2Proof.Machine.execBundleSend x1 s
  | .bundleExecution x1 => Sys2Proof.Machine.execBundleExecution x1 s
  | .repeatExecution x1 => Sys2Proof.Machine.execRepeatExecution x1 s
  | .timingReplay x1 x2 => Sys2Proof.Machine.execTimingReplay x1 x2 s
  | .resultLanding x1 => Sys2Proof.Machine.execResultLanding x1 s
  | .beatAccumulation x1 => Sys2Proof.Machine.execBeatAccumulation x1 s
  | .fmtWriteEffect x1 => Sys2Proof.Machine.execFmtWriteEffect x1 s
  | .fiAccFlip x1 => Sys2Proof.Machine.execFiAccFlip x1 s
  | .scaleEdgeJoin x1 => Sys2Proof.Machine.execScaleEdgeJoin x1 s
  | .gangWaitCompletion x1 => Sys2Proof.Machine.execGangWaitCompletion x1 s
  | .arriveOnRetire x1 => Sys2Proof.Machine.execArriveOnRetire x1 s
  | .monitor x1 => Sys2Proof.Machine.execMonitor x1 s
  | .preemptionRequest x1 x2 => Sys2Proof.Machine.execPreemptionRequest x1 x2 s
  | .forcedHalt x1 => Sys2Proof.Machine.execForcedHalt x1 s
  | .memberHalt x1 => Sys2Proof.Machine.execMemberHalt x1 s
  | .gangCompletion x1 => Sys2Proof.Machine.execGangCompletion x1 s
  | .trapReport x1 => Sys2Proof.Machine.execTrapReport x1 s
  | .handlerEntry x1 => Sys2Proof.Machine.execHandlerEntry x1 s
  | .asyncCauseDelivery x1 => Sys2Proof.Machine.execAsyncCauseDelivery x1 s
  | .save x1 => Sys2Proof.Machine.execSave x1 s
  | .resumption x1 => Sys2Proof.Machine.execResumption x1 s
  | .remoteMessageArrival x1 => Sys2Proof.Machine.execRemoteMessageArrival x1 s
  | .remoteDataArrival x1 => Sys2Proof.Machine.execRemoteDataArrival x1 s
  | .remoteRefusalReturn x1 => Sys2Proof.Machine.execRemoteRefusalReturn x1 s
  | .remoteSignalArrival x1 => Sys2Proof.Machine.execRemoteSignalArrival x1 s
  | .signalOverflowReport x1 => Sys2Proof.Machine.execSignalOverflowReport x1 s
  | .multicastGroupRead x1 x2 => Sys2Proof.Machine.execMulticastGroupRead x1 s x2
  | .axolotlRebuild x1 x2 => Sys2Proof.Machine.execAxolotlRebuild x1 x2 s
  | .scrub x1 x2 => Sys2Proof.Machine.execScrub x1 s x2
  | .generatorWord x1 => Sys2Proof.Machine.execGeneratorWord x1 s
  | .commandStart x1 x2 => Sys2Proof.Machine.execCommandStart x1 x2 s
  | .copySectorTranslation x1 x2 => Sys2Proof.Machine.execCopySectorTranslation x1 x2 s
  | .translationInstall x1 x2 x3 => Sys2Proof.Machine.execTranslationInstall x1 x2 x3 s
  | .sideLogReplay x1 => Sys2Proof.Machine.execSideLogReplay x1 s
  | .copyCompletion x1 x2 x3 => Sys2Proof.Machine.execCopyCompletion x1 x2 s x3
  | .copyDeadlock x1 => Sys2Proof.Machine.execCopyDeadlock x1 s
  | .cpykRetire x1 => Sys2Proof.Machine.execCpykRetire x1 s
  | .routeOutputWrite x1 x2 => Sys2Proof.Machine.execRouteOutputWrite x1 x2 s
  | .a2avCountArrival x1 x2 x3 x4 x5 => Sys2Proof.Machine.execA2avCountArrival x1 x2 x3 x4 s x5
  | .a2avSegmentArrival x1 x2 x3 x4 x5 => Sys2Proof.Machine.execA2avSegmentArrival x1 x2 x3 x4 s x5
  | .aredContribution x1 x2 x3 x4 x5 => Sys2Proof.Machine.execAredContribution x1 x2 x3 x4 s x5
  | .agthBlockArrival x1 x2 x3 x4 x5 => Sys2Proof.Machine.execAgthBlockArrival x1 x2 x3 x4 s x5
  | .rrotPadArrival x1 x2 => Sys2Proof.Machine.execRrotPadArrival x1 x2 s
  | .sendoDelivery => Sys2Proof.Machine.execSendoDelivery s
  | .orderedForward x1 x2 => Sys2Proof.Machine.execOrderedForward x1 x2 s
  | .beacon x1 x2 => Sys2Proof.Machine.execBeacon x1 x2 s
  | .orderStall => Sys2Proof.Machine.execOrderStall s
  | .latticeOpArrival x1 => Sys2Proof.Machine.execLatticeOpArrival x1 s
  | .lldDeposit x1 => Sys2Proof.Machine.execLldDeposit x1 s
  | .lwaitTimeout x1 => Sys2Proof.Machine.execLwaitTimeout x1 s
  | .exchangeRound x1 => Sys2Proof.Machine.execExchangeRound x1 s
  | .exchangeReceive x1 => Sys2Proof.Machine.execExchangeReceive x1 s
  | .scStamp x1 => Sys2Proof.Machine.execScStamp x1 s
  | .scPerform x1 => Sys2Proof.Machine.execScPerform x1 s
  | .heartbeat => Sys2Proof.Machine.execHeartbeat s
  | .releasePerformed x1 => Sys2Proof.Machine.execReleasePerformed x1 s
  | .peerReleaseAck x1 x2 x3 => Sys2Proof.Machine.execPeerReleaseAck x1 x2 s x3
  | .leaseRenewal x1 => Sys2Proof.Machine.execLeaseRenewal x1 s
  | .unmap x1 => Sys2Proof.Machine.execUnmap x1 s
  | .discardDecision x1 x2 => Sys2Proof.Machine.execDiscardDecision x1 x2 s
  | .hostDoorbell x1 => Sys2Proof.Machine.execHostDoorbell x1 s
  | .hostWrite x1 => Sys2Proof.Machine.execHostWrite x1 s
  | .hostRead x1 => Sys2Proof.Machine.execHostRead x1 s
  | .registerWrite x1 x2 x3 => Sys2Proof.Machine.execRegisterWrite x1 x2 x3 s
  | .schedulerScan x1 => Sys2Proof.Machine.execSchedulerScan x1 s
  | .checkpoint => Sys2Proof.Machine.execCheckpoint s
  | .dispatch x1 => Sys2Proof.Machine.execDispatch x1 s
  | .clusterStart x1 x2 => Sys2Proof.Machine.execClusterStart x1 x2 s
  | .schedulerTakeover x1 => Sys2Proof.Machine.execSchedulerTakeover s x1
  | .linkRetry => Sys2Proof.Machine.execLinkRetry s
  | .chorusSync x1 x2 => Sys2Proof.Machine.execChorusSync x1 s x2
  | .marginWindow x1 => Sys2Proof.Machine.execMarginWindow x1 s
  | .marginRecord x1 => Sys2Proof.Machine.execMarginRecord x1 s
  | .hbmChannelSpare x1 x2 => Sys2Proof.Machine.execHbmChannelSpare x1 x2 s
  | .laneSpare x1 => Sys2Proof.Machine.execLaneSpare x1 s
  | .tileLost x1 => Sys2Proof.Machine.execTileLost x1 s
  | .currentBalance x1 x2 x3 => Sys2Proof.Machine.execCurrentBalance x1 x2 x3 s
  | .powerThrottle x1 => Sys2Proof.Machine.execPowerThrottle x1 s
  | .thermalThrottle x1 x2 => Sys2Proof.Machine.execThermalThrottle x1 x2 s
  | .throttleNoticeDelivery x1 => Sys2Proof.Machine.execThrottleNoticeDelivery x1 s
  | .emergencySave => Sys2Proof.Machine.execEmergencySave s
  | .hardTrip x1 => Sys2Proof.Machine.execHardTrip x1 s
  | .thermalResume x1 x2 => Sys2Proof.Machine.execThermalResume s x1 x2
  | .coolantFlowLow => Sys2Proof.Machine.execCoolantFlowLow s
  | .energySample x1 => Sys2Proof.Machine.execEnergySample x1 s
  | .moduleReset x1 x2 x3 => Sys2Proof.Machine.execModuleReset x1 s x2 x3
  | .bundleArrival x1 => Sys2Proof.Machine.execBundleArrival x1 s
  | .linkFault x1 => Sys2Proof.Machine.execLinkFault x1 s
  | .linkRepair x1 => Sys2Proof.Machine.execLinkRepair x1 s
  | .hbmChannelFailure x1 x2 x3 => Sys2Proof.Machine.execHbmChannelFailure x1 x2 s x3
  | .spareChannelSwitch x1 x2 => Sys2Proof.Machine.execSpareChannelSwitch x1 x2 s
  | .retrainEnd x1 => Sys2Proof.Machine.execRetrainEnd x1 s

end Sys2Proof.Machine
end

