-- ==== Sys2Proof/Machine/Agenda.lean ====
section
/-! DEFINITION. Which agent moves next (log entries 3, 4, 6): the agenda, the slots of an open execution one by one, and,
where the agenda is empty, the first event that has something to do. -/

namespace Sys2Proof.Machine

/-! ### What may happen of itself -/

/-- A list that starts at a place within it. -/
def rotated {α : Type} (n : Nat) (l : List α) : List α := l.drop (n % max 1 l.length) ++ l.take (n % max 1 l.length)

/-- A meaning with its arguments. -/
abbrev Event := State → Out

/-- The message of ORDERED_FORWARD is that of a peer port; an own message leaves without one (R414). -/
def noPeer : PeerMsg := { stamp := 0, dev := 0, seq := 0, seat := 0, addr := 0, data := [], sig := none, poison := false }

/-- The other requests of a multicast group that have arrived: one of each tile (R205). -/
def State.companions (s : State) (i : Nat) : List Nat :=
  match s.msgs[i]? with
  | none => []
  | some m =>
    let tileOf (j : Nat) : Option Nat := (s.msgs[j]?).map fun k => k.src / 4
    ((List.range s.msgs.length).filter fun j => j != i && (s.msgs[j]?).any fun k => s.joins m (k, j)).foldl
      (fun l j => if l.any fun a => tileOf a == tileOf j then l else l ++ [j]) []

/-- What is on its way between units. -/
def State.arrivals (s : State) : List Event :=
  (List.range s.replies.length).map execRemoteDataArrival ++
  ((List.range s.reports.length).map fun i => [execRemoteRefusalReturn i, execSignalOverflowReport i]).flatten ++
  ((List.range s.msgs.length).map fun i =>
    [execRemoteMessageArrival i, execRemoteSignalArrival i, fun t => execMulticastGroupRead i t (s.companions i), execLatticeOpArrival i]).flatten ++
  (List.range s.exchange.length).map execExchangeReceive ++
  ((List.range s.waits.length).map fun i => [execLldDeposit i, execLwaitTimeout i]).flatten ++
  ((List.range 8).map execExchangeRound) ++ [execSendoDelivery, execOrderedForward 0 noPeer, execOrderStall] ++
  (s.tiles.map fun t => execSideLogReplay t.id) ++
  ((((s.seats.filter fun (x : Seat) => !x.pads.upset.isEmpty).map fun (x : Seat) => x.id / 4) ++
    (s.tiles.filter fun (t : Tile) => !t.stray.isEmpty).map fun (t : Tile) => t.id).eraseDups.map fun t => execAxolotlRebuild t [])

/-- What a command of a seat's channel does next; ranks on this device bring their own parts. -/
def State.commandEvents (s : State) (x : Seat) (m : Cmd) : List Event :=
  [execCommandStart x.id m.ch, execCopySectorTranslation x.id m.ch, execRouteOutputWrite x.id m.ch, execRrotPadArrival x.id m.ch] ++
  (((List.range m.ranks.length).filter fun r => s.here (m.ranks.getD r 0)).map fun r =>
    [execA2avCountArrival x.id m.ch r 0, execA2avSegmentArrival x.id m.ch r .ready, execAredContribution x.id m.ch r .ready,
     execAgthBlockArrival x.id m.ch r .ready]).flatten ++
  [execCopyCompletion x.id m.ch]

/-- What goes on in a seat beside its executions. -/
def State.seatEvents (s : State) (x : Seat) : List Event :=
  let k := x.id
  [execBundleArrival k, execResultLanding k, execBeatAccumulation k, execScaleEdgeJoin k, execArriveOnRetire k, execFmtWriteEffect k,
    execFiAccFlip k, execGeneratorWord k, execReleasePerformed k, execScStamp k, execScPerform k, execCpykRetire k] ++
  (x.copy.cmds.map (s.commandEvents x)).flatten ++
  [execEnergySample k, execMemberHalt k, execAsyncCauseDelivery k, execThrottleNoticeDelivery k, execMonitor k, execCopyDeadlock k]

/-- What goes on for a gang. -/
def gangEvents (x : Gang) : List Event :=
  let g := x.id
  (x.members.map fun k => k / 32).eraseDups.map (execClusterStart g) ++
  [execForcedHalt g, execTrapReport g, execHandlerEntry g, execSave g, execGangCompletion g, execGangWaitCompletion g, execBundleSend g]

/-- Scheduler and housekeeping core. -/
def State.firmware (s : State) : List Event :=
  (s.queues.map fun q => execSchedulerScan q.q) ++ [execCheckpoint] ++ (s.saved.map fun v => execResumption v.gang.id) ++
  (s.queues.map fun q => execDispatch q.q) ++ (List.range 8).map execLeaseRenewal ++
  (s.tiles.map fun t => [execMarginWindow t.id, execMarginRecord t.id]).flatten ++ [execBeacon 0 (s.watermark 0)] ++
  (s.links.map fun l => execRetrainEnd l.link) ++ [execEmergencySave, execHardTrip false, execHardTrip true, fun t => execThermalResume t]

/-- Executions, from the seat on whose turn it is. -/
def State.executions (s : State) : List Event :=
  rotated s.round (s.seats.map fun x => [execBundleExecution x.id, execRepeatExecution x.id]) |>.flatten

/-- Everything that may happen without the surroundings, in the order in which it is tried. -/
def State.candidates (s : State) : List Event :=
  s.arrivals ++ (s.seats.map s.seatEvents).flatten ++ (s.gangs.map gangEvents).flatten ++ s.firmware ++ [execHeartbeat] ++
  s.executions

/-- The state after an event, if the event changes it. -/
def State.after (s : State) (e : Event) : Option State :=
  match e s with
  | .next t => if t = s then none else some t
  | _ => none

/-- The first candidate that has something to do; where there is none, a nanosecond passes. -/
def State.settleOne (s : State) : State := (s.candidates.findSome? s.after).getD (s.tick (s.chorus + 1))

/-! ### The open execution -/

/-- A word that is no operation at the slot under way: its trap (R87 to R89). -/
def State.illegal (s : State) (c : Cursor) (e : DecodeFault) : State :=
  match c with
  | .seat _ slot base => s.takeTrap base (trapAt (DecodeFault.cause e) 0) slot
  | .seqr _ slot base => { (s.putGang (base.trapSeq (trapAt (DecodeFault.cause e) 0) slot base.pc)) with cursor := none }

/-- The seat whose execution was held: its slot took no effect and raised no trap. -/
def State.held? (s : State) (c : Cursor) : Bool :=
  match c with
  | .seat k _ _ => s.cursor.isNone && (match s.seat? k with | some x => x.run == .run | none => false)
  | .seqr _ _ _ => false

/-- After an execution in a seat the seats behind it have their turn; with each new round a nanosecond has passed, where
no agenda tells the time. -/
def State.nextTurn (s : State) (c : Cursor) : State :=
  match c with
  | .seqr _ _ _ => s
  | .seat k _ _ =>
    let i := s.seats.findIdx (·.id == k)
    if s.round ≤ i || !s.agenda.isEmpty then { s with round := i + 1 } else { s.tick (s.chorus + 1) with round := i + 1 }

/-- After a slot: the cursor moves on; after a hold another seat comes next. -/
def State.afterSlot (s : State) (c : Cursor) : State := if s.held? c then s.nextTurn c else s.pastSlot

/-- The slot under way is decoded and executed. -/
def State.runSlot (s : State) (c : Cursor) : Out :=
  match decode c.word.1 c.word.2.1 c.word.2.2 with
  | .error e => .next (s.illegal c e)
  | .ok i =>
    match exec i s with
    | .next t => .next (t.afterSlot c)
    | o => o

/-- Every slot has executed: a replay that stands first in the agenda comes before the commit; else the execution
commits, and another seat comes next. -/
def State.endExec (s : State) (c : Cursor) : Out :=
  match s.agenda with
  | (t, .timingReplay k why) :: r => execTimingReplay k why { s.tick t with agenda := r }
  | _ => .next (s.commit.nextTurn c)

/-! ### Between executions -/

/-- The first entry of the agenda at its time; without one, what happens of itself. -/
def State.runEvent (s : State) : Out :=
  match s.agenda with
  | (t, e) :: r => exec e { s.tick t with agenda := r }
  | [] => .next s.settleOne

/-- The step. A module without power waits for MODULE_RESET (R378, R402). -/
def State.move (s : State) : Out :=
  if s.moduleOn then
    match s.cursor with
    | some c => if c.done then s.endExec c else s.runSlot c
    | none => s.runEvent
  else
    match s.agenda with
    | (_, .moduleReset failed bad committed) :: r => execModuleReset failed { s with agenda := r } bad committed
    | _ => .fault .unpowered

/-! ### A machine about to run one operation (log entry 6) -/

/-- The kernel of a gang that stands for a load from outside. -/
def Kernel.bare : Kernel :=
  { codeVa := 0, codeWords := 0, mapVa := 0, bundles := 0, loopTab := [], descVa := 0, descSlots := 0, restartable := false }

/-- A gang of one seat at bundle 0. -/
def Gang.bare (words : Words) (standing : Vector Standing 8) : Gang :=
  { id := 0, launch := 0, prio := 0, c := 1, d := 1, dies := [0], seqDie := 0, seqNum := 0, members := [0]
    kernel := Kernel.bare, params := [], tensors := [], g := Vector.replicate 32 0, h := Vector.replicate 16 0, vote := 0
    pc := 0, rep := 0, reps := 1, cycle := 0, landings := [], standing := standing, loops := [], delay := none, hdr := 0
    words := words, off := none, next := none, held := none, fresh := true, flow := .seq, handlers := [], level := false, asideState := none, stop := .run
    edge := true, waiting := false, votePend := none, serial := 0, forced := false, seqTrap := none, lead := none
    saveCount := 0, order := 0, startAt := 0, ext := false }

/-- Its seat, as dispatch forms it with the whole of a tile, at the gang's first execution. -/
def Seat.bare (g : Gang) (stamps : List Nat) : Seat :=
  let cfg : GangCfg := { c := 1, d := 1, dieMask := 1, seqDie := 0, seqNum := 0 }
  let share : Share := { pads := 128, banks := 4, bars := 16, sems := 64, quota := 256 }
  let x := Seat.atDispatch 0 0 0 0 0 cfg share (List.range 128) [] 1 512 0 [] 0
  let it := g.item
  { x with
    standing := g.standing, started := true, prepared := true, go := true, cur := some it, queue := [.exec it]
    sync := { x.sync with scStamps := stamps } }

/-- The state with a gang of one seat whose open execution stands at an operation. The slot is the one whose operation
the word is, by log entry 7. -/
def State.withWord (s : State) (w l : Word32) : State :=
  let sl := ((decodeAnySlot w l).map (·.1)).getD .ctl
  let n := sl.num
  let std := (Vector.replicate 8 Standing.nop).setIfInBounds n { word := w, lit := l, bar := 0, acc := 0 }
  let g := Gang.bare [(n, w, l)] std
  let x := Seat.bare g [s.chorus, s.chorus + 512]
  let atSeq := n == 1 || (n == 0 && seqCodes.contains (opOf w))
  { s with
    moduleOn := true
    gangs := g :: s.gangs.filter (·.id != 0)
    seats := x :: s.seats.filter (·.id != 0)
    cursor := some (if atSeq then .seqr 0 n g else .seat 0 n x) }

end Sys2Proof.Machine
end

