-- ==== Sys2Proof/Machine/Step.lean ====
section
/-! DEFINITION. The step of the device. -/

namespace Sys2Proof.Machine

/-- One step: a slot of the open execution, its commit, or an event. -/
def step (s : State) : Host.Outcome State Fault Refusal := s.move

/-- The state whose next step runs the operation with first word w and further words zero (log entry 6). -/
def State.withFetchWord (s : State) (_nbits w : Nat) : State := s.withWord (BitVec.ofNat 32 w) (BitVec.ofNat 32 (w / 2 ^ 32))

end Sys2Proof.Machine
end

