-- ==== Sys2Proof/Safety.lean ====
section
/-! DEFINITION. What counts as a safe run, and the terms in which statements speak of an open execution. -/

namespace Sys2Proof

/-! ### Operations by what they do -/

/-- The A bit and the predicate of a tile operation (R59, R60). SEL's pq field is an operand (R150); family E has none. -/
def Instr.tag : Instr → Option Tag
  | .adrSel t .. => some { t with p := 0 }
  | .xclr o r => some { o := o, r := r, p := 0 }
  | .adrAdd t .. | .adrSub t .. | .adrAnd t .. | .adrOr t .. | .adrXor t .. | .adrShl t .. | .adrShr t ..
  | .adrSra t .. | .adrMul t .. | .adrMulh t .. | .adrMin t .. | .adrMax t .. | .adrAddi t .. | .adrLi t ..
  | .adrLiHi t .. | .cmp t .. | .plog t .. | .adrClz t .. | .popc t .. | .tadr t .. | .ld t .. | .st t ..
  | .ldr t .. | .str t .. | .amo t .. | .amor t .. | .ownEng t .. | .ownThr t .. | .wpr t .. | .ljoin t ..
  | .ljoinSc t .. | .lstm t .. | .linc t .. | .lld t .. | .lwait t .. | .vadd t .. | .vsub t .. | .vmul t ..
  | .vfma t .. | .vfms t .. | .vmin t .. | .vmax t .. | .vabs t .. | .vneg t .. | .vand t .. | .vor t ..
  | .vxor t .. | .vnot t .. | .vshl t .. | .vshr t .. | .vsra t .. | .vsel t .. | .vcvt t .. | .vred t ..
  | .vscan t .. | .vperm t .. | .vbcst t .. | .vbcstLane t .. | .viota t .. | .vrcp t .. | .vrsq t .. | .vexp2 t ..
  | .vlog2 t .. | .vmov t .. | .mspush t .. | .mspushScalar t .. | .msinv t | .mspop t | .msand t ..
  | .msandScalar t .. | .vpopc t .. | .vpopcLanes t .. | .vact t .. | .vld t .. | .vst t .. | .vlds t ..
  | .vsts t .. | .vgth t .. | .vsct t .. | .vldr t .. | .vstr t .. | .vxs t .. | .vsx t .. | .vldx t ..
  | .vtrp t .. | .mpush t .. | .mshift t .. | .macc t .. | .macs t .. | .mdrain t .. | .mclr t .. | .mbmap t ..
  | .mchk t .. | .mfix t .. | .mstat t .. | .xadd t .. | .xlds t .. | .cpyi t .. | .cpyo t .. | .cpys t ..
  | .cpyx t .. | .cpyr t .. | .cpyl t .. | .cpyk t .. | .rrot t .. | .mcst t .. | .route t .. | .a2av t ..
  | .ared t .. | .agth t .. | .sendo t .. | .rngs t .. => some t
  | _ => none

/-- Operations of the tile whose whole effect is a result on its way to a register. -/
def Instr.landsOnly : Instr → Bool
  | .adrAdd .. | .adrSub .. | .adrAnd .. | .adrOr .. | .adrXor .. | .adrShl .. | .adrShr .. | .adrSra ..
  | .adrMul .. | .adrMulh .. | .adrMin .. | .adrMax .. | .adrAddi .. | .adrLi .. | .adrLiHi .. | .cmp .. | .plog ..
  | .adrSel .. | .adrClz .. | .popc .. | .tadr .. | .ld .. | .wpr .. | .vadd .. | .vsub .. | .vmul .. | .vfma ..
  | .vfms .. | .vmin .. | .vmax .. | .vabs .. | .vneg .. | .vand .. | .vor .. | .vxor .. | .vnot .. | .vshl ..
  | .vshr .. | .vsra .. | .vsel .. | .vred .. | .vscan .. | .vperm .. | .vbcst .. | .vbcstLane .. | .viota ..
  | .vrcp .. | .vrsq .. | .vexp2 .. | .vlog2 .. | .vmov .. | .vpopc .. | .vpopcLanes .. | .vact .. | .vld ..
  | .vlds .. | .vgth .. | .vxs .. | .vsx .. | .vldx .. | .vtrp .. | .mstat .. => true
  | _ => false

/-- Operations that write the seat's pads as they execute (R169 to R173, R223). -/
def Instr.storesPads : Instr → Bool
  | .st .. | .amo .. | .vst .. | .vsts .. | .vsct .. | .mfix .. => true
  | _ => false

/-- Operations that hold a beat (R219). -/
def Instr.holdsBeat : Instr → Bool
  | .macc .. | .macs .. => true
  | .mshift _ _ _ _ be _ _ _ _ => be == 1
  | _ => false

/-! ### Words of the opcode map -/

/-- The last opcode that a slot's table assigns (R81). -/
def Slot.lastOp : Slot → Nat
  | .ctl => 0x1B
  | .uni => 0x1B
  | .adr => 0x21
  | .vec => 0x22
  | .vls => 0x0C
  | .mat => 0x0A
  | .exp => 0x03
  | .xfr => 0x0F

/-- An operation stands in a slot as word w with literal l: its slot is that one (a NOP has every slot), its operands lie within the
limits of decode, and its encoding is these words (R54, R55, R80). -/
def Instr.StandsAs (i : Instr) (sl : Slot) (w l : Word32) : Prop :=
  (i.slot = some sl ∨ ∃ o, i = .nop o) ∧ i.wf = true ∧ encode i = w :: i.literal.toList ∧ ∀ k, i.literal = some k → l = k

end Sys2Proof

namespace Sys2Proof.Machine

/-- A run of n steps that meets no fault and no refusal. -/
def SafeRun (n : Nat) (s : State) : Prop := ∃ t : State, Host.Core.run Sys2Proof.core n s = .next t

/-- Device memory and host windows stand in canonical form: addresses rise, no byte is zero. -/
def State.MemoryWf (s : State) : Prop := Mem.wf s.hbm = true ∧ Mem.wf s.hostMem = true

/-- A seat's pads stand in canonical form. -/
def Seat.PadsWf (x : Seat) : Prop := Mem.wf x.pads.bytes = true

/-- So do the pads of every seat: resident, as the open execution sees it, and as a save holds it. -/
def State.PadsWf (s : State) : Prop :=
  (∀ x ∈ s.seats, x.PadsWf) ∧ (∀ k slot base, s.cursor = some (.seat k slot base) → base.PadsWf) ∧
  ∀ v, v ∈ s.saved ∨ v ∈ s.resumed → ∀ x ∈ v.seats, x.PadsWf

/-- Every seat has a number of its own (R17). -/
def State.SeatsApart (s : State) : Prop := (s.seats.map (·.id)).Nodup

/-- The members of a saved gang stood on tiles of their own, of die pairs each named once (R91). -/
def SavedGang.Apart (v : SavedGang) : Prop := v.gang.dies.Nodup ∧ (v.seats.map fun x => x.id / 4).Nodup

/-- At most 64 regions of at most 65,536 cells, and every cell that the lattice units hold, mark or have under way lies within these
bounds (R303, R345, R346). -/
def State.CellsWf (s : State) : Prop :=
  (∀ r ∈ s.regions, r.num < 64 ∧ r.cells ≤ 2 ^ 16) ∧ (∀ c ∈ s.cells, c.region < 64 ∧ c.idx < 2 ^ 16) ∧
  (∀ m ∈ s.marks, m.2.2.1 < 64 ∧ m.2.2.2 < 2 ^ 16) ∧ ∀ e ∈ s.exchange, e.region < 64 ∧ e.idx < 2 ^ 16

/-- The open execution stands at a slot of a seat: base is the seat as the slot's reads see it, live as it stands. -/
def State.InSeat (s : State) (k slot : Nat) (base live : Seat) : Prop :=
  s.cursor = some (.seat k slot base) ∧ s.seat? k = some live

/-- The open execution stands at a slot of a sequencer. -/
def State.InSeqr (s : State) (g slot : Nat) (base live : Gang) : Prop :=
  s.cursor = some (.seqr g slot base) ∧ s.gang? g = some live

/-- The barrier index that the slot's operation arrives at (R59). -/
def Seat.slotBar (x : Seat) (slot : Nat) : BitVec 4 := (x.standing.getD slot { word := 0, lit := 0, bar := 0, acc := 0 }).bar

/-- The slot's step accumulator (R61). -/
def Seat.slotAcc (x : Seat) (slot : Nat) : Int := (x.standing.getD slot { word := 0, lit := 0, bar := 0, acc := 0 }).acc.toInt

/-- An operation of a seat's slot takes effect: the seat neither skips nor discards, the predicate is true, and an arrival
has a barrier of the seat (R60, R65, R104, R271). -/
def Seat.Takes (x : Seat) (slot : Nat) (t : Tag) : Prop :=
  x.suppressed = false ∧ x.predField t.p = .ok true ∧ (t.r = 1 → (x.slotBar slot).toNat < x.sync.bars.length)

/-- The open execution stands at a slot of seat k whose operation takes effect. -/
def State.Runs (s : State) (k slot : Nat) (base live : Seat) (t : Tag) : Prop := s.InSeat k slot base live ∧ base.Takes slot t

/-- The state after a slot that takes effect: the seat as the operation leaves it, arriving after lat issue cycles. -/
def State.done (s : State) (base : Seat) (slot : Nat) (t : Tag) (x : Seat) (lat : Option Nat) : State :=
  s.putSeat (x.retire slot (base.slotBar slot) t.r lat)

/-- What a meaning sees of the open execution. -/
def State.ctx (s : State) (slot : Nat) (base live : Seat) : Ctx := { s := s, base := base, live := live, slot := slot }

/-- What an operation at a sequencer sees. -/
def State.sctx (s : State) (slot : Nat) (base live : Gang) : SCtx :=
  { s := s, base := base, live := live, slot := slot, chk := s.checker base }

/-! ### Results in the spec's own terms -/

/-- A condition of R85 on two 64-bit values: equal, not equal, less and not less signed, less and not less unsigned,
always. -/
def CondHolds (cc : Nat) (x y : Word64) : Prop :=
  match cc with
  | 0 => x = y
  | 1 => x ≠ y
  | 2 => x.toInt < y.toInt
  | 3 => y.toInt ≤ x.toInt
  | 4 => x.toNat < y.toNat
  | 5 => y.toNat ≤ x.toNat
  | _ => True

/-- r is the number of leading zeros of the n-bit number x (R50). -/
def IsClz (n x r : Nat) : Prop := r ≤ n ∧ x < 2 ^ (n - r) ∧ (r < n → 2 ^ (n - r - 1) ≤ x)

/-- The target of a branch or handler with a label (R119, R120): the literal's bundle number, else the bundle disp7 away;
a number below zero is held modulo 2^64, as a frame reports it. -/
def IsTarget (pc : Nat) (disp : BitVec 7) (lit : Option Word32) (tgt : Nat) : Prop :=
  match lit with
  | some l => tgt = l.toNat % 2 ^ 24
  | none => if 0 ≤ (pc : Int) + disp.toInt then (tgt : Int) = pc + disp.toInt else (tgt : Int) = 2 ^ 64 + (pc + disp.toInt)

/-- The immediate of ADDI and LI: the literal or imm7, sign-extended (R134, R147). -/
def IsImmediate (imm : BitVec 7) (lit : Option Word32) (v : Word64) : Prop :=
  match lit with
  | some l => v.toInt = l.toInt
  | none => v.toInt = imm.toInt

/-- The gang's next state once a sequencer operation has run: nothing but the gang has changed. -/
def State.seqDone (s : State) (x : Gang) : Out := .next (s.putGang x)

/-- The state after a trap of kind F of a sequencer operation: the stream has stopped with its frame, and the open
execution is gone (R363, R364). -/
def State.seqTraps (s : State) (base : Gang) (slot : Nat) (t : TrapInfo) : Out :=
  .next { (s.putGang (base.trapSeq t slot base.pc)) with cursor := none }

/-- The state after a sequencer operation whose read waits for a page: the stream is held with the trap it takes should the
page not be mapped, and the open execution is gone (R56, R141). -/
def State.seqWaits (s : State) (base : Gang) (slot : Nat) (t : TrapInfo) : Out :=
  .next { (s.putGang { base with held := (base.trapSeq t slot base.pc).seqTrap.map fun f => (t.addr.toNat, f) }) with
    cursor := none }

/-- The branch that a sequencer operation leaves to its two delay bundles (R112, R119). -/
def Gang.branching (live : Gang) (pc target : Nat) (taken : Bool) : Gang :=
  { live with flow := .branch { remain := 2, taken := taken, target := target, branch := pc, reth := false } }

/-- The slot that opens first when the bundle executes at the sequencer (R117): CTL's where the bundle's first execution has an
operation of the sequencer there; else UNI's where an operation stands and issues; else none (2). -/
def Gang.OpensAt (x : Gang) (slot : Nat) : Prop :=
  let ctl := x.rep = 0 ∧ ∃ w l, wordAt x.words 0 = some (w, l) ∧ (w.extractLsb' 23 6).toNat ∈ seqCodes
  let u := x.standing.getD 1 Standing.nop
  let uni := u.word.extractLsb' 23 6 ≠ 0 ∧ (x.rep = 0 ∨ u.word.getLsbD 30 = false)
  (ctl → slot = 0) ∧ (¬ctl → uni → slot = 1) ∧ (¬ctl → ¬uni → slot = 2)

/-- Elements of w bits on their way to a V register: the mask covers those that act, each with its value (R167, R181). -/
def IsElems (w : Nat) (act : Nat → Prop) (f : Nat → Nat) (val mask : VReg) : Prop :=
  (∀ b, b < 2048 → (mask.getLsbD b = true ↔ act (b / w))) ∧ ∀ j, w * (j + 1) ≤ 2048 → act j → vElem w val j = f j

/-- The seat's reads meet no result on its way (R69). -/
def Seat.Quiet (x : Seat) : Prop := x.sys.chk = false ∨ x.landings = []

/-- Every byte lies in a pad of the seat (R155). -/
def Seat.Inside (x : Seat) (a n : Nat) : Prop := a + n ≤ 2 ^ 19 ∧ (a + n - 1) / 4096 < x.pads.count

/-- A range touches no poisoned granule (R179). -/
def Seat.Clean (x : Seat) (a n : Nat) : Prop := ∀ g ∈ x.pads.poison, 64 * g + 64 ≤ a ∨ a + n ≤ 64 * g

/-- A thread read of a range waits: a word of it fails its parity, or an access of the seat to its own slot that concerns it is
on its way (R177, R178, R286, R287). -/
def Seat.Waits (x : Seat) (a n : Nat) : Prop :=
  0 < n ∧ ((∃ u ∈ x.pads.upset, popcBits 64 u.2.toNat % 2 = 1 ∧ u.1 < a + n ∧ a < u.1 + 8) ∨
    ∃ o ∈ x.sync.own, o.addr < a + n ∧ a < o.addr + o.len)

/-- No access to a range waits: neither a read nor, for any access of the seat to its own slot on its way, a write (R177, R178,
R286). -/
def Seat.Still (x : Seat) (a n : Nat) : Prop :=
  ¬x.Waits a n ∧ ∀ o ∈ x.sync.own, o.addr + o.len ≤ a ∨ a + n ≤ o.addr

/-- A thread read of a range passes its checks (R155, R157, R177, R179, R286). -/
def Seat.Readable (x : Seat) (a n align : Nat) : Prop := x.Inside a n ∧ a % align = 0 ∧ x.Clean a n ∧ x.Still a n

/-- A thread write of a range passes its checks (R155, R157, R160, R179). -/
def Seat.Writable (x : Seat) (a n align : Nat) : Prop :=
  x.Readable a n align ∧ x.pads.owner.getD (a / 4096) .thread = .thread ∧
    x.pads.owner.getD ((a + n - 1) / 4096) .thread = .thread

/-- The trap of an address outside the pads, or inside and misaligned (R155, R157). -/
def Seat.AddrFault (x : Seat) (a n align c : Nat) : Prop :=
  (¬x.Inside a n ∧ c = 0x0A) ∨ (x.Inside a n ∧ a % align ≠ 0 ∧ c = 0x0B)

/-- A store that changed the bytes of its parts, each an address, a length and a value, and nothing else of the seat. -/
def Seat.Stored (live x : Seat) (parts : List (Nat × Nat × Nat)) : Prop :=
  { x with pads := live.pads } = live ∧ x.pads.owner = live.pads.owner ∧ x.pads.count = live.pads.count ∧
  x.pads.phys = live.pads.phys ∧ (∀ p ∈ parts, leNat (x.padBytes p.1 p.2.1) = p.2.2) ∧
  ∀ q, (∀ p ∈ parts, q < p.1 ∨ p.1 + p.2.1 ≤ q) → Mem.byte x.pads.bytes q = Mem.byte live.pads.bytes q

/-- A message of this operation has gone to the seat's outbox; the seat holds what it concerns of its own slot (R162, R169,
R286). -/
def Seat.Sends (live x : Seat) (dst : Nat) (ea : Word64) (arr stamp : Option Nat) (body : MsgBody) : Prop :=
  ∃ m : Msg, x = { live with
      outbox := live.outbox ++ [m], sync := { live.sync with own := live.sync.own ++ m.ownAccess.toList } } ∧ m.src = live.id ∧ m.dst = dst ∧ m.ea = ea ∧ m.arr = arr ∧
    m.stamp = stamp ∧ m.body = body

/-- The vector element types of R180 that are integers: code, width, signed. -/
def intTypes : List (Nat × Nat × Bool) := [(0x2, 32, true), (0x6, 32, false), (0x1, 16, true), (0x5, 16, false)]

/-- The vector element types of R180 that are floating-point: code and format. -/
def floatTypes : List (Nat × FFmt) := [(0xC, binary32), (0xA, bfloat16), (0xB, binary16)]

/-- The codes of R180's table. -/
def vectorCodes : List Nat := [0x1, 0x2, 0x5, 0x6, 0xA, 0xB, 0xC]

/-- An operation lands elements of w bits in V[d] after lat issue cycles: those that act, each with its value (R183). -/
def LandsElems (i : Instr) (s : State) (slot : Nat) (base live : Seat) (t : Tag) (d lat w : Nat) (act : Nat → Prop)
    (f : Nat → Nat) : Prop :=
  ∃ val mask, IsElems w act f val mask ∧
    exec i s = .next (s.done base slot t (live.landV slot lat d val mask) (some lat))

/-- The nodes of R48's tree over the values w: node i of level k. -/
def treeAt (step : Option Ext → Option Ext → Option Ext) (w : Nat → Option Ext) : Nat → Nat → Option Ext
  | 0, i => w i
  | k + 1, i => step (treeAt step w k (2 * i)) (treeAt step w k (2 * i + 1))

/-- The running values of R49's left fold over the values w. -/
def foldAt (step : Option Ext → Option Ext → Option Ext) (w : Nat → Option Ext) : Nat → Option Ext
  | 0 => w 0
  | i + 1 => step (foldAt step w i) (w (i + 1))

/-- A step of R48 and R49: an identity (none) leaves the other value, and the result is rounded. -/
def redStep (op : Ext → Ext → Ext) (rnd : Ext → Ext) : Option Ext → Option Ext → Option Ext
  | some u, some v => some (rnd (op u v))
  | some u, none => some (rnd u)
  | none, some v => some (rnd v)
  | none, none => none

/-- An integer clamped to the range of w bits (R31, R50). -/
def clampInt (w : Nat) (signed : Bool) (r : Int) : Int :=
  if signed then max (-(2 ^ (w - 1))) (min r (2 ^ (w - 1) - 1)) else max 0 (min r (2 ^ w - 1))

/-- A condition of R197 on two integer elements of w bits. -/
def IntCond (cc w : Nat) (x y : Nat) : Prop :=
  match cc with
  | 0 => x = y
  | 1 => x ≠ y
  | 2 => Int.bmod x (2 ^ w) < Int.bmod y (2 ^ w)
  | 3 => Int.bmod y (2 ^ w) ≤ Int.bmod x (2 ^ w)
  | 4 => x < y
  | _ => y ≤ x

/-- A condition of R46 and R197 on two values: a NaN is unordered, the zeros are equal. -/
def FloatCond (cc : Nat) (x y : Ext) : Prop :=
  let un := x = .nan ∨ y = .nan
  match cc with
  | 0 => ¬un ∧ Ext.lt x y = false ∧ Ext.lt y x = false
  | 1 => un ∨ Ext.lt x y = true ∨ Ext.lt y x = true
  | 2 => ¬un ∧ Ext.lt x y = true
  | 3 => ¬un ∧ Ext.lt x y = false
  | 4 => un ∨ Ext.lt x y = true
  | _ => un ∨ Ext.lt x y = false

/-- The combinations of R202 with the row width and the K positions of R201: A type, B type, ACM, R, κ, bank mode. -/
def BeatTypes (a b acm r k : Nat) (mode : BankMode) : Prop :=
  (acm = 0 ∧ mode = .float ∧
    ((a = b ∧ (a = 0xA ∨ a = 0xB) ∧ r = 64 ∧ k = 1) ∨ (a = b ∧ a = 0xC ∧ r = 32 ∧ k = 1) ∨
     (a = b ∧ a = 0xD ∧ r = 16 ∧ k = 1) ∨ ((a = 8 ∨ a = 9) ∧ (b = 8 ∨ b = 9) ∧ r = 64 ∧ k = 2) ∨
     ((a = 0xE ∧ (b = 8 ∨ b = 9) ∨ (a = 8 ∨ a = 9) ∧ b = 0xE) ∧ r = 64 ∧ k = 2) ∨
     ((a = 0xE ∧ b = 0xA ∨ a = 0xA ∧ b = 0xE) ∧ r = 64 ∧ k = 1))) ∨
  (acm = 1 ∧ r = 64 ∧ k = 2 ∧
    ((mode = .int ∧ (a = 0 ∨ a = 4) ∧ (b = 0 ∨ b = 4)) ∨
     (mode = .intScaled ∧ (a = 0xE ∧ (b = 0 ∨ b = 4) ∨ (a = 0 ∨ a = 4) ∧ b = 0xE))))

/-- The seat's own pads give n bytes at a as an operand of the array: readable, no command in the way (R155, R157, R164). -/
def Seat.Streams (x : Seat) (a n : Nat) : Prop := x.Readable a n n ∧ x.needRange false (a, n) = .ok ()

/-- The value of an edge operand of n bytes: held, the V register's low bytes, or the pads at base + acc × step × n (R209,
R213, R214). -/
def Seat.Feeds (x : Seat) (slot : Nat) (f : RField) (hold v : BitVec 1) (step : Int) (n w : Nat) (held e : BitVec w) : Prop :=
  (hold = 1 ∧ e = held) ∨
  (hold = 0 ∧ v = 1 ∧ ∃ r, x.vsrc f = .ok r ∧ e = r.setWidth w) ∨
  (hold = 0 ∧ v = 0 ∧ ∃ p, x.src f = .ok p ∧
    let a := (p + BitVec.ofInt 64 (x.slotAcc slot * step * n)).toNat
    x.Streams a n ∧ e = BitVec.ofNat w (leNat (x.padBytes a n)))

/-- The scales a beat of n positions takes: none, or the queue's edge of its K block, all of them fit for an integer beat
(R34, R219). -/
def Seat.Scales (x : Seat) (n r : Nat) (mode : BankMode) (sc : BitVec 1024) : Prop :=
  (Fmt.scm x.regs.fmt ≠ 2 ∧ sc = 0) ∨
  (Fmt.scm x.regs.fmt = 2 ∧ (x.mat.kpos + n - 1) / 32 = x.mat.kpos / 32 ∧
    (∃ p, x.mat.scales.find? (fun e => e.1 == x.mat.kpos / 32) = some p ∧ p.2 = sc) ∧
    (mode = .float ∨ ∀ i, i < r → ∀ o ∈ [0, 512], 127 ≤ (sc.extractLsb' (o + 8 * i) 8).toNat ∧
      (sc.extractLsb' (o + 8 * i) 8).toNat < 255))

/-- A beat has been issued: it accumulates eight issue cycles on with the operands read now, kpos and the scale queue advance,
the bank's mode is fixed, and nothing else changes but the edges (R205, R207, R208, R219). -/
def Seat.Beats (base live x : Seat) (slot bank n r : Nat) (mode : BankMode) (sparse : Bool) (a : BitVec 1280) (b : BitVec 2048)
    (sc : BitVec 1024) : Prop :=
  ∃ bt : Beat, x.landings = (live.land slot 8 (.beat bt)).landings ∧ bt.bank = bank ∧ bt.sparse = sparse ∧
    bt.atype = Fmt.atype base.regs.fmt ∧ bt.btype = Fmt.btype base.regs.fmt ∧ bt.mode = mode ∧ bt.a = a ∧ bt.b = b ∧
    bt.scaled = (Fmt.scm base.regs.fmt == 2) ∧ bt.scales = sc ∧ bt.xadd = 0 ∧ bt.cke = Fmt.cke base.regs.fmt ∧
    (∀ q, base.mat.banks[bank]? = some q → bt.h = q.h) ∧
    (∀ i q, live.mat.banks[i]? = some q →
      x.mat.banks[i]? = some (if i = bank then { q with issMode := mode, issRw := r } else q)) ∧
    x.mat.kpos = live.mat.kpos + (if Fmt.scm base.regs.fmt = 2 then n else 0) ∧
    x.mat.scales = (if Fmt.scm base.regs.fmt = 2 then live.mat.scales.filter (fun e => base.mat.kpos / 32 ≤ e.1)
      else live.mat.scales) ∧
    { x with landings := live.landings, mat := live.mat } = live

/-- An event of the surroundings or of a unit leaves the state t. -/
def Happens (i : Instr) (s t : State) : Prop := exec i s = .next t

/-- A command has ended in a fault (R248): it stands as ended with its entries free, its cause is raised in the seat with the
address, and nothing else of the seat has changed. -/
def Seat.CmdFaulted (x y : Seat) (m : Cmd) (cause addr : Nat) : Prop :=
  { y with copy := x.copy, sys := x.sys } = x ∧ { y.copy with cmds := x.copy.cmds } = x.copy ∧
  (∃ gone, y.copy.cmds = x.copy.cmds.map fun q =>
    if q.serial = m.serial then { q with fault := some (cause, addr), lost := q.lost + gone, entry := false } else q) ∧
  ∃ f : Frame, y.sys = { x.sys with latched := x.sys.latched ++ [f] } ∧ f.cause.toNat % 256 = cause % 256 ∧
    f.f1 = BitVec.ofNat 64 addr

/-- The command at the front of a channel of a seat moves bytes: started, not ended, not cut, not through, the seat not halted to be
saved (R424). -/
def State.Moves (s : State) (k c : Nat) (x : Seat) (m : Cmd) : Prop :=
  s.seat? k = some x ∧ x.front c = some m ∧ m.started = true ∧ m.fault = none ∧ m.done < m.len ∧ m.cut = false ∧
    s.halted x = false ∧ ∀ q ∈ x.copy.cmds, q.serial = m.serial → q = m

/-- The next n bytes of a command lie in one sector of memory, and no more of that line follow (R237, R288). -/
def Cmd.OneSector (m : Cmd) (n : Nat) : Prop :=
  let va := fun i => m.gaddr (elemSize (elemCode m.snap)) (m.readAt + i)
  0 < n ∧ n ≤ 128 ∧ m.readAt + n ≤ m.len ∧ (∀ i, i < n → va i / 64 = va 0 / 64) ∧
    (m.readAt + n = m.len ∨ va n / 128 ≠ va 0 / 128)

/-- An event ends a seat's command in a fault. -/
def FailsCmd (i : Instr) (s : State) (x : Seat) (m : Cmd) (cause addr : Nat) : Prop :=
  ∃ t y, Happens i s t ∧ t.seat? x.id = some y ∧ x.CmdFaulted y m cause addr

/-- A semaphore takes k more; past 2^32 - 1 it stays at the top (R270). -/
def Seat.SemPlus (x y : Seat) (i k : Nat) : Prop :=
  y.sync.sems[i]? = (x.sync.sems[i]?).map fun v => BitVec.ofNat 32 (min (v.toNat + k) (2 ^ 32 - 1))

/-- What the entry of a command does to the seat (R228, R231, R233, R244): the start count in the destination, the
channel's issue count past the command, the command at the end of the seat's list, and its bytes charged to the barrier
that the control word names. -/
def Seat.Enters (base live x : Seat) (slot : Nat) (op : CmdOp) (d : RField) (ch : BitVec 3) (lit : Option Word32) (len : Nat)
    (snap : HReg) (g p : Nat) : Prop :=
  let chan := live.copy.chans.getD ch.toNat { issued := 0, w := 0 }
  let w := controlWord (lit.getD 0)
  (∃ m, x.copy.cmds = live.copy.cmds ++ [m] ∧ m.op = op ∧ m.ch = ch.toNat ∧ m.start = chan.issued.toNat ∧ m.len = len ∧
    m.done = 0 ∧ m.started = false ∧ m.fault = none ∧ m.serial = base.cycle ∧ m.snap = snap ∧ m.g = g ∧ m.p = p ∧
    m.ctl = lit.getD 0 ∧ m.owed = if w.bc then len else 0) ∧
  x.copy.chans = live.copy.chans.setIfInBounds ch.toNat
    { chan with issued := BitVec.ofNat 64 (chan.issued.toNat + len) } ∧
  (w.bc = false → x.sync = live.sync) ∧
  (w.bc = true → ∀ q, live.sync.bars[w.bix]? = some q →
    x.sync.bars[w.bix]? = some { q with b := q.b + BitVec.ofNat 32 len }) ∧
  x.landings = (live.landS slot 1 d.toNat chan.issued).landings ∧ x.regs = live.regs ∧ x.pads = live.pads ∧
  x.mat = live.mat ∧ x.sys = live.sys ∧ x.outbox = live.outbox

/-- A rise of the throttle level is noticed (R399): THRSTAT holds the time, the reason and PEND; COUNT has grown where no
notice was latched, up to 255; nothing else of the seat has changed. -/
def Seat.Noticed (x y : Seat) (now reason : Nat) : Prop :=
  let v := x.sys.thrstat
  { y with sys := { y.sys with thrstat := v } } = x ∧ y.sys.thrstat.getLsbD 0 = true ∧
  (y.sys.thrstat.extractLsb' 1 7).toNat = 0 ∧ (y.sys.thrstat.extractLsb' 8 2).toNat = reason ∧
  (y.sys.thrstat.extractLsb' 10 14).toNat = 0 ∧ (y.sys.thrstat.extractLsb' 32 32).toNat = now % 2 ^ 32 ∧
  (y.sys.thrstat.extractLsb' 24 8).toNat =
    min 255 ((v.extractLsb' 24 8).toNat + if v.getLsbD 0 = true then 0 else 1)

/-- The scheduler has been told of notices that were latched now, and of nothing else (R399). -/
def State.Told (s u : State) : Prop :=
  ∀ n ∈ u.notices, n ∈ s.notices ∨ ∃ x ∈ s.seats, x.sys.thrstat.getLsbD 0 = false ∧ ∃ v, n = .throttle x.id v

/-- A stop has been requested of a running gang, or has come about at its boundary (R107). -/
def State.Stopping (s : State) (g : Nat) (why : StopWhy) : Prop :=
  ∃ x, s.gang? g = some x ∧ ((∃ t, x.stop = .asked why t) ∨ x.stop = .haltSent why)

/-- A tile is fenced, in the state u that follows s: its record says so; the cluster's eft stands in for it, or, where the eft
is in use, the die pair is harvested; every gang with a seat there is to be saved (R386, R387). -/
def State.Fences (s u : State) (tile : Nat) : Prop :=
  (u.record (s.physical (s.tile tile)).num).fenced = true ∧
  (s.eftTaken tile = false → u.diepres = s.diepres ∧
    (u.record (tile / 64 * 72 + tile % 64 / 8 * 9 + 8)).subst = true) ∧
  (s.eftTaken tile = true → ∀ d, u.diepres.getLsbD d = (s.diepres.getLsbD d && d != tile / 64)) ∧
  ∀ g x, s.gang? g = some x →
    (∃ y ∈ s.seats, y.gang = g ∧ (y.id / 4 = tile ∨ s.eftTaken tile = true ∧ y.die = tile / 64)) →
    (x.stop = .run → u.Stopping g .fence) ∧ (x.stop = .allotted none → ∃ y, u.gang? g = some y ∧ y.stop = .allotted (some .fence))

end Sys2Proof.Machine
end

