-- ==== Sys2Proof/Certificates/Slice0/Obligations.lean ====
section
/-! DEFINITION. The statements for the provers. Each answers what an operation of the table, an event, or the step does, in
terms of the rules its docstring cites. The slot's execution is open at a seat (State.InSeat, State.Runs) or at a
sequencer (State.InSeqr); base is the seat or gang as the execution's reads see it, live as the slots before left it. -/

open Sys2Proof Sys2Proof.Machine

/-! ### The sequencer: UNI and CTL -/

/-- R82, R83, R103, R116, R133: a source of the UNI slot reads G0 as zero, G1 to G31, or the first work index of a loop level;
while a result for the register is on its way it reads the old value, or with checking on raises UNDERSIZED_STALL with the
producer's bundle and slot. -/
def Obligations.SequencerReads : Prop :=
  ∀ (s : State) (slot : Nat) (base live : Gang) (f : RField),
    (f = 0 → (s.sctx slot base live).src f = .ok 0) ∧
    (f.toNat < 32 → f ≠ 0 → s.checker base = false → (s.sctx slot base live).src f = .ok (base.g.getD f.toNat 0)) ∧
    (f.toNat < 32 → f ≠ 0 → (∀ l ∈ base.landings, ∀ v, l.eff ≠ .gReg f.toNat v) →
      (s.sctx slot base live).src f = .ok (base.g.getD f.toNat 0)) ∧
    (f.toNat < 32 → f ≠ 0 → s.checker base = true → ∀ l v, base.landings = [l] → l.eff = .gReg f.toNat v →
      (s.sctx slot base live).src f = .error { cause := 0x05, addr := 0, ppc := l.pc, pslot := l.slot }) ∧
    (∀ k, f.toNat = 40 + k → k < 6 →
      (s.sctx slot base live).src f = .ok (BitVec.ofNat 64 (base.loopIndex k))) ∧
    (∀ k l, base.loops.reverse[k]? = some l →
      base.loopIndex k = if l.kind = 1 then l.index * base.c else if l.kind = 2 then l.index * base.d else l.index) ∧
    (∀ k, base.loops.length ≤ k → base.loopIndex k = 0)

/-- R133, R116: the three-register UNI operations, for every destination (a write to G0 is discarded by landG) and every
readable source: sum, difference and product modulo 2^64, bitwise operations, shifts by six bits, the high half of the
product, minimum and maximum, each landing after its latency; nothing else changes. -/
def Obligations.UniArithmetic : Prop :=
  ∀ (s : State) (g : Nat) (base live : Gang) (o m : BitVec 1) (d a b : RField) (x y : Word64),
    s.InSeqr g 1 base live → (s.sctx 1 base live).src a = .ok x → (s.sctx 1 base live).src b = .ok y →
    let put := fun (lat : Nat) (v : Word64) => s.seqDone (live.landG 1 lat d.toNat v)
    exec (.uniAdd o d a b) s = put 1 (BitVec.ofNat 64 (x.toNat + y.toNat)) ∧
    exec (.uniSub o d a b) s = put 1 (BitVec.ofInt 64 (x.toInt - y.toInt)) ∧
    exec (.uniAnd o d a b) s = put 1 (x &&& y) ∧
    exec (.uniOr o d a b) s = put 1 (x ||| y) ∧
    exec (.uniXor o d a b) s = put 1 (x ^^^ y) ∧
    exec (.uniShl o d a b) s = put 1 (BitVec.ofNat 64 (x.toNat * 2 ^ (y.toNat % 64))) ∧
    exec (.uniShr o d a b) s = put 1 (BitVec.ofNat 64 (x.toNat / 2 ^ (y.toNat % 64))) ∧
    exec (.uniSra o d a b) s = put 1 (BitVec.ofInt 64 (x.toInt / 2 ^ (y.toNat % 64))) ∧
    exec (.uniMul o d a b) s = put 3 (BitVec.ofNat 64 (x.toNat * y.toNat)) ∧
    exec (.uniMulh o d a b m) s = put 3 (if m = 1 then BitVec.ofNat 64 (x.toNat * y.toNat / 2 ^ 64)
      else BitVec.ofInt 64 (x.toInt * y.toInt / 2 ^ 64)) ∧
    exec (.uniMin o d a b) s = put 1 (if x.toInt ≤ y.toInt then x else y) ∧
    exec (.uniMax o d a b) s = put 1 (if x.toInt ≤ y.toInt then y else x) ∧
    exec (.minu o d a b) s = put 1 (if x.toNat ≤ y.toNat then x else y) ∧
    exec (.maxu o d a b) s = put 1 (if x.toNat ≤ y.toNat then y else x)

/-- R133 to R135, R116: ADDI, LI, li.hi, CLZ, SEL, LDP and GIDX, with every form of the immediate. -/
def Obligations.UniImmediatesAndFacts : Prop :=
  ∀ (s : State) (g : Nat) (base live : Gang) (o : BitVec 1) (d a b : RField) (imm : BitVec 7) (lit : Option Word32)
    (x y e : Word64),
    s.InSeqr g 1 base live → (s.sctx 1 base live).src a = .ok x → (s.sctx 1 base live).src b = .ok y →
    IsImmediate imm lit e →
    let put := fun (lat : Nat) (v : Word64) => s.seqDone (live.landG 1 lat d.toNat v)
    exec (.uniAddi o d a imm lit) s = put 1 (BitVec.ofInt 64 (x.toInt + e.toInt)) ∧
    exec (.uniLi o d imm lit) s = put 1 e ∧
    (∀ z, (s.sctx 1 base live).src d = .ok z →
      exec (.uniLiHi o d imm lit) s = put 1 (BitVec.ofNat 64 (e.toNat % 2 ^ 32 * 2 ^ 32 + z.toNat % 2 ^ 32))) ∧
    (∀ n, IsClz 64 x.toNat n → exec (.uniClz o d a) s = put 1 (BitVec.ofNat 64 n)) ∧
    (∀ v, (s.sctx 1 base live).voteVal = .ok v → exec (.uniSel o d a b) s = put 1 (if v = 0 then y else x)) ∧
    (∀ w, base.params[imm.toNat]? = some w → exec (.ldp o d imm) s = put 4 w) ∧
    (base.params.length ≤ imm.toNat → exec (.ldp o d imm) s = put 4 0) ∧
    (imm = 0 → exec (.gidx o d imm) s = put 1 (BitVec.ofNat 64 base.c)) ∧
    (imm = 1 → exec (.gidx o d imm) s = put 1 (BitVec.ofNat 64 base.d)) ∧
    (imm = 2 → exec (.gidx o d imm) s = put 1 (BitVec.ofNat 64 (dieMaskOf base.dies))) ∧
    (imm = 3 → exec (.gidx o d imm) s = put 1 (BitVec.ofNat 64 base.seqDie)) ∧
    (imm = 4 → exec (.gidx o d imm) s = put 1 (BitVec.ofNat 64 base.seqNum)) ∧
    (imm = 5 → exec (.gidx o d imm) s = put 1 (BitVec.ofNat 64 base.loops.length)) ∧
    (imm = 6 → exec (.gidx o d imm) s = put 1 (BitVec.ofNat 64 base.pc)) ∧
    (imm = 7 → exec (.gidx o d imm) s = put 1 (if base.level then 1 else 0))

/-- R139, R141, R116: HLD, HGET, HSET, HCPY, HBIND and HVAL: a record the launch does not hold raises ILLEGAL_FIELD; a
handle is valid when its slot is below the table's count and the entry read from device memory has VALID set and the
handle's generation; a handle that is not raises STALE_HANDLE (HBIND) or reads 0 (HVAL); a read that cannot be served
raises its cause with the entry's address, and one whose page is not mapped yet holds the stream, with PAGE_FAULT to come
should the page not be mapped. That the read has the rights of the gang's first member is the model's choice (log entry 15). -/
def Obligations.UniShapes : Prop :=
  ∀ (s : State) (g : Nat) (base live : Gang) (o m : BitVec 1) (d a b : RField) (imm : BitVec 7),
    s.InSeqr g 1 base live →
    (∀ r, base.tensors[imm.toNat]? = some r → exec (.hld o d imm) s = s.seqDone (live.land 1 8 (.hReg d.toNat r))) ∧
    (base.tensors.length ≤ imm.toNat → exec (.hld o d imm) s = s.seqTraps base 1 { cause := 0x02, addr := 0 }) ∧
    (∀ h, (s.sctx 1 base live).hsrc a.toNat = .ok h →
      (exec (.hget o d a b m) s = s.seqDone (live.landG 1 2 d.toNat
        (if m = 1 then BitVec.ofInt 64 (hField h b.toNat).toInt else BitVec.ofNat 64 (hField h b.toNat).toNat))) ∧
      exec (.hcpy o d a) s = s.seqDone (live.land 1 2 (.hReg d.toNat h))) ∧
    (∀ x, (s.sctx 1 base live).src a = .ok x →
      exec (.hset o d a b) s = s.seqDone (live.land 1 2 (.hField d.toNat b.toNat (BitVec.ofNat 32 x.toNat)))) ∧
    (∀ x, (s.sctx 1 base live).src a = .ok x →
      let n := x.toNat % 2 ^ 32 / 2 ^ 12
      let va := base.kernel.descVa + 64 * n
      let stale := s.seqTraps base 1 { cause := 0x18, addr := BitVec.ofNat 64 (x.toNat % 2 ^ 32) }
      (base.kernel.descSlots ≤ n →
        exec (.hbind o d a) s = stale ∧ exec (.hval o d a) s = s.seqDone (live.landG 1 8 d.toNat 0)) ∧
      (n < base.kernel.descSlots → ∀ e, s.readNat (base.members.headD 0) va 64 = .error e → e ≠ 0x10 → e ≠ 0 →
        exec (.hbind o d a) s = s.seqTraps base 1 { cause := e, addr := BitVec.ofNat 64 va } ∧
        exec (.hval o d a) s = s.seqTraps base 1 { cause := e, addr := BitVec.ofNat 64 va }) ∧
      (n < base.kernel.descSlots → s.readNat (base.members.headD 0) va 64 = .error 0x10 →
        let waits := s.seqWaits base 1 { cause := 0x10, addr := BitVec.ofNat 64 va }
        exec (.hbind o d a) s = waits ∧ exec (.hval o d a) s = waits) ∧
      (n < base.kernel.descSlots → ∀ w, s.readNat (base.members.headD 0) va 64 = .ok w →
        let gen := (hField (BitVec.ofNat 512 w) 15).toNat
        (gen / 2 ^ 12 % 2 = 1 ∧ gen % 2 ^ 12 = x.toNat % 2 ^ 12 →
          exec (.hbind o d a) s = s.seqDone (live.land 1 8 (.hReg d.toNat (BitVec.ofNat 512 w))) ∧
          exec (.hval o d a) s = s.seqDone (live.landG 1 8 d.toNat 1)) ∧
        (¬(gen / 2 ^ 12 % 2 = 1 ∧ gen % 2 ^ 12 = x.toNat % 2 ^ 12) →
          exec (.hbind o d a) s = stale ∧ exec (.hval o d a) s = s.seqDone (live.landG 1 8 d.toNat 0))))

/-- R116, R133, R68: what has been issued lands at the sequencer no earlier than its cycle, and then in its register: a G
register takes the value, a shape field takes its 32 bits and keeps the other fifteen fields, an H register takes the whole
record of an HLD, HBIND or HCPY and the others keep theirs, the vote register takes the vote. -/
def Obligations.SequencerResultsLand : Prop :=
  ∀ (x : Gang) (lat : Nat) (d : Nat) (v : Word64), x.landings = [] →
    (∀ n, x.cycle + lat ≤ n → 0 < d → d < 32 →
      ({ x.landG 1 lat d v with cycle := n }).settle.g.getD d 0 = v ∧
      ∀ e, e ≠ d → ({ x.landG 1 lat d v with cycle := n }).settle.g.getD e 0 = x.g.getD e 0) ∧
    (∀ n, n < x.cycle + lat → ({ x.landG 1 lat d v with cycle := n }).settle.g = x.g) ∧
    (x.landG 1 lat 0 v = x) ∧
    (∀ n (f : Nat) (w : Word32), x.cycle + lat ≤ n → d < 16 → f < 16 →
      let y := ({ x.land 1 lat (.hField d f w) with cycle := n }).settle
      hField (y.h.getD d 0) f = w ∧ ∀ e, e < 16 → e ≠ f → hField (y.h.getD d 0) e = hField (x.h.getD d 0) e) ∧
    (∀ n r, x.cycle + lat ≤ n → d < 16 →
      let y := ({ x.land 1 lat (.hReg d r) with cycle := n }).settle
      y.h.getD d 0 = r ∧ y.g = x.g ∧ ∀ e, e < 16 → e ≠ d → y.h.getD e 0 = x.h.getD e 0) ∧
    (∀ n r, n < x.cycle + lat → ({ x.land 1 lat (.hReg d r) with cycle := n }).settle.h = x.h) ∧
    (∀ n, x.cycle + lat ≤ n → ({ x.land 1 lat (.vote v) with cycle := n }).settle.vote = v)

/-- R85, R116, R118, R119: BR, BRV, JMP, CALL and RET decide on the values read in their own bundle, form their target, and
leave two delay bundles; CALL's link is the bundle after both, into G31 with latency 1. With cc = 6 nothing is read; a cc of 7 to 15 raises
ILLEGAL_FIELD. -/
def Obligations.Branches : Prop :=
  ∀ (s : State) (g : Nat) (base live : Gang) (cc : BitVec 4) (ga gb : RField) (disp : BitVec 7) (lit : Option Word32)
    (taken : Bool), s.InSeqr g 0 base live →
    (∀ x y, (s.sctx 0 base live).src ga = .ok x → (s.sctx 0 base live).src gb = .ok y →
      (taken = true ↔ CondHolds cc.toNat x y) →
      ∃ n, IsTarget base.pc disp lit n ∧
        exec (.br cc ga gb disp lit) s = s.seqDone (live.branching base.pc n taken)) ∧
    (∀ x y, (s.sctx 0 base live).voteVal = .ok x → (s.sctx 0 base live).src gb = .ok y →
      (taken = true ↔ CondHolds cc.toNat x y) →
      ∃ n, IsTarget base.pc disp lit n ∧ exec (.brv cc gb disp lit) s = s.seqDone (live.branching base.pc n taken)) ∧
    (cc = 6 → ∃ n, IsTarget base.pc disp lit n ∧
      exec (.br cc ga gb disp lit) s = s.seqDone (live.branching base.pc n true) ∧
      exec (.brv cc gb disp lit) s = s.seqDone (live.branching base.pc n true)) ∧
    (∃ n, IsTarget base.pc disp lit n ∧ exec (.jmp disp lit) s = s.seqDone (live.branching base.pc n true) ∧
      exec (.call disp lit) s =
        s.seqDone ((live.landG 0 1 31 (BitVec.ofNat 64 (base.pc + 3))).branching base.pc n true)) ∧
    (∀ x, (s.sctx 0 base live).src ga = .ok x →
      exec (.jmpReg ga) s = s.seqDone (live.branching base.pc x.toNat true) ∧
      exec (.callReg ga) s =
        s.seqDone ((live.landG 0 1 31 (BitVec.ofNat 64 (base.pc + 3))).branching base.pc x.toNat true)) ∧
    (∀ x, (s.sctx 0 base live).src 31 = .ok x → exec .ret s = s.seqDone (live.branching base.pc x.toNat true)) ∧
    (∀ w l : Word32, w.extractLsb' 23 6 = 0x01 ∨ w.extractLsb' 23 6 = 0x02 → 7 ≤ (w.extractLsb' 19 4).toNat →
      decode .ctl w l = .error .illegalField)

/-- R58, R102, R112, R119, R123: after a branch bundle the two bundles behind it follow, then the target of a taken branch, or the
bundle behind them; a transfer without delay bundles goes to its bundle at once. Behind a branch that is not taken a bundle passed
over may be the LAST of the top level, and ends its iteration; behind a taken one it does not (the model's choice, log entry 32). -/
def Obligations.DelayBundles : Prop :=
  ∀ (y base : Gang) (d : Delay), base.item.last = true → d.reth = false →
    (y.flow = .branch d → (y.advance base).pc = base.pc + 1 ∧ (y.advance base).delay = some d) ∧
    (∀ p c, y.flow = .goto p c → (y.advance base).pc = p) ∧
    (∀ z : Gang, z.delay = some d → ∀ pc, d.remain = 2 → d.taken = true ∨ (∀ l r, z.loops = l :: r → l.last ≠ pc) →
      (z.onward pc).pc = pc + 1 ∧ (z.onward pc).delay = some { d with remain := 1 } ∧ (z.onward pc).loops = z.loops) ∧
    (∀ z : Gang, z.delay = some d → ∀ pc, d.remain = 1 → d.taken = true ∨ (∀ l r, z.loops = l :: r → l.last ≠ pc) →
      (z.onward pc).pc = (if d.taken then d.target else pc + 1) ∧ (z.onward pc).loops = z.loops) ∧
    (∀ z : Gang, z.delay = some d → ∀ pc l r, d.taken = false → z.loops = l :: r → l.last = pc →
      (z.onward pc).loops = (loopEnd pc (l :: r)).1 ∧ (z.onward pc).pc = (loopEnd pc (l :: r)).2 ∧ (z.onward pc).delay = none)

/-- R101 to R103, R122, R123: LOOP reads its trip count, then pushes a level with the number of rounds that cover it, or passes the
body over when there is none; a bad entry raises ILLEGAL_FIELD, a count that cannot be read its trap, a seventh level LOOP_DEPTH. LBRK ends the top k levels and goes to
the bundle after the outermost of them, or raises LOOP_DEPTH once the other slots have executed. A level reads as its index, a spatial one as
the round's first work index, in a member as its own. That a number which the loop table does not hold raises ILLEGAL_FIELD is the model's choice: no rule gives that trap (log entry 14). -/
def Obligations.Loops : Prop :=
  ∀ (s : State) (g : Nat) (base live : Gang) (n : BitVec 6) (k : BitVec 3), s.InSeqr g 0 base live → 0 < base.c → 0 < base.d →
    (base.kernel.loopTab[n.toNat]? = none → exec (.loop n) s = s.seqTraps base 0 { cause := 0x02, addr := 0 }) ∧
    (∀ w, base.kernel.loopTab[n.toNat]? = some w → (loopEntry w).ok base = false →
      exec (.loop n) s = s.seqTraps base 0 { cause := 0x02, addr := 0 }) ∧
    (∀ w e, base.kernel.loopTab[n.toNat]? = some w → (loopEntry w).ok base = true →
      (s.sctx 0 base live).trips (loopEntry w) = .error e → e.cause ≠ 0 → exec (.loop n) s = s.seqTraps base 0 e) ∧
    (∀ w t, base.kernel.loopTab[n.toNat]? = some w → (loopEntry w).ok base = true →
      (s.sctx 0 base live).trips (loopEntry w) = .ok t → 6 ≤ base.loops.length →
      exec (.loop n) s = s.seqTraps base 0 { cause := 0x06, addr := 0 }) ∧
    (∀ w t, base.kernel.loopTab[n.toNat]? = some w → (loopEntry w).ok base = true → base.loops.length < 6 →
      (s.sctx 0 base live).trips (loopEntry w) = .ok t →
      let e := loopEntry w
      let width := if e.kind = 1 then base.c else if e.kind = 2 then base.d else 1
      ∃ rounds, t ≤ rounds * width ∧ rounds * width < t + width ∧
        exec (.loop n) s = if rounds = 0 then s.seqDone { live with flow := .goto (e.last + 1) false }
          else s.seqDone { live with
            next := none
            loops := { index := 0, limit := rounds, entry := n.toNat, kind := e.kind, trips := t, first := e.first
                       last := e.last } :: live.loops }) ∧
    (base.loops.length < k.toNat → exec (.lbrk k) s = s.seqDone { live with flow := .depth }) ∧
    (live.flow = .depth → s.commitSeq g base =
      { s.putGang (base.trapSeq { cause := 0x06, addr := 0 } 0 base.pc) with cursor := none }) ∧
    (∀ l, 0 < k.toNat → base.loops[k.toNat - 1]? = some l →
      exec (.lbrk k) s = s.seqDone { live with loops := base.loops.drop k.toNat, flow := .goto (l.last + 1) true }) ∧
    (∀ i l, base.loops.reverse[i]? = some l →
      base.loopIndex i = if l.kind = 1 then l.index * base.c else if l.kind = 2 then l.index * base.d else l.index) ∧
    ∀ (x : Seat) i l, x.levels.reverse[i]? = some l → x.loopIndex i =
      if l.kind = 1 then l.index * x.cfg.c + x.m else if l.kind = 2 then l.index * x.cfg.d + x.e else l.index

/-- R102, R122: at the end of a bundle a level whose LAST it is goes on with its next index at FIRST, or ends; a level that
ends lets the level below it end or go on at the same bundle. -/
def Obligations.IterationEnds : Prop :=
  ∀ (pc : Nat) (l : LoopLevel) (r : List LoopLevel),
    loopEnd pc [] = ([], pc + 1) ∧
    (l.last ≠ pc → loopEnd pc (l :: r) = (l :: r, pc + 1)) ∧
    (l.last = pc → l.index + 1 < l.limit → loopEnd pc (l :: r) = ({ l with index := l.index + 1 } :: r, l.first)) ∧
    (l.last = pc → l.limit ≤ l.index + 1 → loopEnd pc (l :: r) = loopEnd pc r)

/-- R126 to R130: HALT ends the stream, TRAP and BRK raise SW_TRAP and BREAK with their code behind the bundle, HNDL writes and
removes one entry of the handler table, RETH leaves two delay bundles and then the return, and outside handler level
raises ILLEGAL_FIELD. -/
def Obligations.EndTrapAndHandlers : Prop :=
  ∀ (s : State) (g : Nat) (base live : Gang) (code : BitVec 7) (c : RField) (disp : BitVec 7) (lit : Option Word32),
    s.InSeqr g 0 base live →
    exec .halt s = s.seqDone { live with flow := .halt } ∧
    exec (.trap code) s = s.seqDone { live with flow := .trap 0x1C code.toNat } ∧
    exec (.brk code) s = s.seqDone { live with flow := .trap 0x1D code.toNat } ∧
    (∃ h tgt, IsTarget base.pc disp lit tgt ∧ exec (.hndl c disp lit) s = s.seqDone { live with handlers := h } ∧
      h.lookup c.toNat = some tgt ∧ ∀ e, e ≠ c.toNat → h.lookup e = live.handlers.lookup e) ∧
    (∃ h, exec (.hndlRemove c) s = s.seqDone { live with handlers := h } ∧
      h.lookup c.toNat = none ∧ ∀ e, e ≠ c.toNat → h.lookup e = live.handlers.lookup e) ∧
    (base.level = true → exec .reth s = s.seqDone { live with
      flow := .branch { remain := 2, taken := true, target := 0, branch := base.pc, reth := true } }) ∧
    (base.level = false → exec .reth s = s.seqTraps base 0 { cause := 0x02, addr := 0 })

/-- R106, R137: VOTE names destination, source and operation; at the completion of its bundle the vote register and G[d] get
the reduction of the values that the taking-part members read, with latency 1, and the identity where none takes part; that a member
whose read of the register is checked and fails votes with the register's previous value is the model's choice (log entry 32). -/
def Obligations.Vote : Prop :=
  (∀ (s : State) (g : Nat) (base live : Gang) (o : BitVec 1) (d a f : RField), s.InSeqr g 1 base live →
    exec (.vote o d a f) s = s.seqDone { live with votePend := some (d.toNat, a, f.toNat) }) ∧
  (∀ (s : State) (y : Gang) (d : Nat) (a : RField) (op : Nat), y.votePend = some (d, a, op) →
    s.takeVote y = (y.land 1 1 (.vote (voteResult op (s.votesOf y a)))).landG 1 1 d (voteResult op (s.votesOf y a))) ∧
  (∀ vs : List Word64,
    voteResult 0 vs = (if ∃ v ∈ vs, v ≠ 0 then 1 else 0) ∧
    voteResult 1 vs = (if ∀ v ∈ vs, v ≠ 0 then 1 else 0) ∧
    (voteResult 2 vs).toNat = (vs.map BitVec.toNat).sum % 2 ^ 64 ∧
    (∀ v ∈ vs, (voteResult 3 vs).toInt ≤ v.toInt ∧ v.toInt ≤ (voteResult 4 vs).toInt) ∧
    (vs ≠ [] → voteResult 3 vs ∈ vs ∧ voteResult 4 vs ∈ vs) ∧
    (voteResult 3 []).toInt = 2 ^ 63 - 1 ∧ (voteResult 4 []).toInt = -2 ^ 63) ∧
  (∀ (s : State) (y : Gang) (a : RField), (∀ x ∈ s.seats, x.gang = y.id → ∃ i q, x.queue = .exec i :: q) →
    let head := fun (x : Seat) => match x.queue with
      | .exec i :: _ => x.atHead i
      | _ => x
    s.votesOf y a = ((s.seats.filter fun x => x.gang == y.id && !(head x).suppressed).map fun x => (head x).srcVal a)) ∧
  (∀ (s : State) (g : Nat) (base live : Gang) (disp : BitVec 7) (lit : Option Word32), s.InSeqr g 0 base live →
    base.landings = [] → ∃ n, IsTarget base.pc disp lit n ∧
      exec (.brv 1 0 disp lit) s = s.seqDone (live.branching base.pc n (base.vote != 0)))

/-! ### The tile: sources, ADR computation, landing -/

/-- R60, R82, R103, R142, R143, R144, R69: a scalar source of a tile slot reads S0 as zero, S1 to S31, the mirrors of G0 to G7,
the loop indices as the member sees them, the die pair and the tile number; the predicate field reads P0 as true and bit 3
negates. While a result for the register is on its way the old value is read, or with CHKCTL.EN the read raises
UNDERSIZED_STALL with the producer's bundle and slot. -/
def Obligations.TileReads : Prop :=
  ∀ (x : Seat) (f : RField) (p : BitVec 4),
    (f = 0 → x.src f = .ok 0) ∧
    (f.toNat < 32 → f ≠ 0 → x.sys.chk = false → x.src f = .ok (x.regs.s.getD f.toNat 0)) ∧
    (f.toNat < 32 → f ≠ 0 → x.landings = [] → x.src f = .ok (x.regs.s.getD f.toNat 0)) ∧
    (f.toNat < 32 → f ≠ 0 → x.sys.chk = true → ∀ l v, x.landings = [l] → l.eff = .sReg f.toNat v →
      x.src f = .error { cause := 0x05, addr := 0, ppc := l.pc, pslot := l.slot }) ∧
    (∀ k it, f.toNat = 32 + k → k < 8 → x.cur = some it → x.sys.chk = false →
      x.src f = .ok (if k = 0 then 0 else it.g.getD k 0)) ∧
    (∀ k it, f.toNat = 32 + k → k < 8 → x.cur = some it → x.sys.chk = true → ∀ q, it.pendG = [(k, q)] →
      x.src f = .error { cause := 0x05, addr := 0, ppc := q, pslot := 1 }) ∧
    (∀ k, f.toNat = 40 + k → k < 6 → x.src f = .ok (BitVec.ofNat 64 (x.loopIndex k))) ∧
    (∀ k l, x.levels.reverse[k]? = some l → x.loopIndex k =
      if l.kind = 1 then l.index * x.cfg.c + x.m else if l.kind = 2 then l.index * x.cfg.d + x.e else l.index) ∧
    (∀ k, x.levels.length ≤ k → x.loopIndex k = 0) ∧
    (f.toNat = 46 → x.src f = .ok (BitVec.ofNat 64 x.die)) ∧
    (f.toNat = 47 → x.src f = .ok (BitVec.ofNat 64 x.tile)) ∧
    (x.sys.chk = false → x.predField p =
      .ok ((p.toNat % 8 = 0 || x.regs.p.getLsbD (p.toNat % 8)) != p.getLsbD 3)) ∧
    (∀ l v, x.sys.chk = true → p.toNat % 8 ≠ 0 → x.landings = [l] → l.eff = .pReg (p.toNat % 8) v →
      x.predField p = .error { cause := 0x05, addr := 0, ppc := l.pc, pslot := l.slot })

/-- R145, R146, R65, R60: the three-register ADR operations, CLZ and POPC: where the operation takes effect, its result lands in
S[d] after its latency (a write to S0 is discarded by landS), and with A = 1 the operation arrives after the same count;
nothing else changes. -/
def Obligations.AdrArithmetic : Prop :=
  ∀ (s : State) (k : Nat) (base live : Seat) (t : Tag) (m : BitVec 1) (d a b : RField) (x y : Word64),
    s.Runs k 2 base live t → base.src a = .ok x → base.src b = .ok y →
    let put := fun (lat : Nat) (v : Word64) => Host.Outcome.next (s.done base 2 t (live.landS 2 lat d.toNat v) (some lat))
    exec (.adrAdd t d a b) s = put 1 (BitVec.ofNat 64 (x.toNat + y.toNat)) ∧
    exec (.adrSub t d a b) s = put 1 (BitVec.ofInt 64 (x.toInt - y.toInt)) ∧
    exec (.adrAnd t d a b) s = put 1 (x &&& y) ∧
    exec (.adrOr t d a b) s = put 1 (x ||| y) ∧
    exec (.adrXor t d a b) s = put 1 (x ^^^ y) ∧
    exec (.adrShl t d a b) s = put 1 (BitVec.ofNat 64 (x.toNat * 2 ^ (y.toNat % 64))) ∧
    exec (.adrShr t d a b) s = put 1 (BitVec.ofNat 64 (x.toNat / 2 ^ (y.toNat % 64))) ∧
    exec (.adrSra t d a b) s = put 1 (BitVec.ofInt 64 (x.toInt / 2 ^ (y.toNat % 64))) ∧
    exec (.adrMul t d a b) s = put 3 (BitVec.ofNat 64 (x.toNat * y.toNat)) ∧
    exec (.adrMulh t d a b m) s = put 3 (if m = 1 then BitVec.ofNat 64 (x.toNat * y.toNat / 2 ^ 64)
      else BitVec.ofInt 64 (x.toInt * y.toInt / 2 ^ 64)) ∧
    exec (.adrMin t d a b m) s = put 1 (if (if m = 1 then x.toNat ≤ y.toNat else x.toInt ≤ y.toInt) then x else y) ∧
    exec (.adrMax t d a b m) s = put 1 (if (if m = 1 then x.toNat ≤ y.toNat else x.toInt ≤ y.toInt) then y else x) ∧
    (∀ n, (if m = 1 then IsClz 32 (x.toNat % 2 ^ 32) n else IsClz 64 x.toNat n) →
      exec (.adrClz t d a m) s = put 1 (BitVec.ofNat 64 n)) ∧
    exec (.popc t d a m) s =
      put 1 (BitVec.ofNat 64 ((List.range (if m = 1 then 32 else 64)).countP fun i => x.getLsbD i))

/-- R145, R147 to R150: ADDI, LI, li.hi, CMP, PLOG and SEL. CMP with m = 1 conjoins the destination's old value; a write to P0 is
discarded (landP). SEL reads its predicate field as the selecting condition and is never predicated false. -/
def Obligations.AdrImmediateAndPredicates : Prop :=
  ∀ (s : State) (k : Nat) (base live : Seat) (t : Tag) (imm : BitVec 7) (lit : Option Word32) (cc n f : BitVec 3)
    (d a b : RField) (x y e : Word64),
    s.InSeat k 2 base live → base.src a = .ok x → base.src b = .ok y → IsImmediate imm lit e →
    (base.Takes 2 t →
      let put := fun (v : Word64) => Host.Outcome.next (s.done base 2 t (live.landS 2 1 d.toNat v) (some 1))
      exec (.adrAddi t d a imm lit) s = put (BitVec.ofInt 64 (x.toInt + e.toInt)) ∧
      exec (.adrLi t d imm lit) s = put e ∧
      (∀ z, base.src d = .ok z →
        exec (.adrLiHi t d imm lit) s = put (BitVec.ofNat 64 (e.toNat % 2 ^ 32 * 2 ^ 32 + z.toNat % 2 ^ 32))) ∧
      (∀ c, (c = true ↔ CondHolds cc.toNat x y) →
        exec (.cmp t cc n a b 0) s = .next (s.done base 2 t (live.landP 2 n.toNat c) (some 1)) ∧
        ∀ q, base.pred n.toNat = .ok q →
          exec (.cmp t cc n a b 1) s = .next (s.done base 2 t (live.landP 2 n.toNat (c && q)) (some 1))) ∧
      (∀ p q, base.pred a.toNat = .ok p → base.pred b.toNat = .ok q →
        exec (.plog t f n a b) s = .next (s.done base 2 t (live.landP 2 n.toNat
          (([p && q, p || q, p ^^ q, p && !q, p || !q, !(p && q), !(p || q), !(p ^^ q)] : List Bool).getD f.toNat false))
          (some 1)))) ∧
    (∀ q, base.suppressed = false → (t.r = 1 → (base.slotBar 2).toNat < base.sync.bars.length) → base.predField t.p = .ok q →
      exec (.adrSel t d a b) s = .next (s.done base 2 t (live.landS 2 1 d.toNat (if q then x else y)) (some 1)))

/-- R151 to R153: TADR: FORMAT for a reserved element code or a packed tensor, ILLEGAL_FIELD for a bad block shape or mapping, else
the block's home die pair (the one of the k-th set bit of the gang's mask) and its address or offset by form. -/
def Obligations.BlockPlacement : Prop :=
  ∀ (s : State) (k : Nat) (base live : Seat) (t : Tag) (h : BitVec 4) (d sa : RField) (ch : BitVec 3) (hr : HReg) (v : Word64),
    s.Runs k 2 base live t → base.hsrc h.toNat = .ok hr → base.src sa = .ok v →
    let fld := fun i => (hField hr i).toNat
    let br := v.toNat % 2 ^ 32
    let bc := v.toNat / 2 ^ 32
    let rows := fld 10 % 2 ^ 16
    let cols := fld 10 / 2 ^ 16
    let gx := if fld 11 % 2 ^ 8 = 0 then 1 else fld 11 % 2 ^ 8
    let gy := if fld 11 / 2 ^ 8 % 2 ^ 8 = 0 then 1 else fld 11 / 2 ^ 8 % 2 ^ 8
    let n := gx * gy
    let kind := fld 11 / 2 ^ 16 % 2 ^ 8
    let esize := if fld 2 % 16 ∈ [0x0, 0x4, 0x8, 0x9, 0xE] then 1 else if fld 2 % 16 ∈ [0x1, 0x5, 0xA, 0xB] then 2
      else if fld 2 % 16 ∈ [0x2, 0x6, 0xC] then 4 else 8
    let off := (br * rows * fld 7 + bc * cols) * esize % 2 ^ 57
    let addr := (fld 1 % 2 ^ 25 * 2 ^ 32 + fld 0 + off) % 2 ^ 57
    let form := fun (home : Nat) => if ch = 0 then home * 2 ^ 60 + addr else if ch = 1 then home * 2 ^ 60 + off
      else if ch = 2 then home else addr
    let put := fun (home : Nat) => Host.Outcome.next
      (s.done base 2 t (live.landS 2 3 d.toNat (BitVec.ofNat 64 (form home))) (some 3))
    let good := fld 2 % 16 ≠ 0xF ∧ fld 2 / 16 % 16 = 0
    (¬good → exec (.tadr t h d sa ch) s = .next (s.takeTrap base { cause := 0x23, addr := 0 } 2)) ∧
    (good → rows = 0 ∨ cols = 0 ∨ 5 ≤ kind ∨ (kind ≠ 0 ∧ base.cfg.d < n) →
      exec (.tadr t h d sa ch) s = .next (s.takeTrap base { cause := 0x02, addr := 0 } 2)) ∧
    (good → rows ≠ 0 → cols ≠ 0 → kind = 0 → exec (.tadr t h d sa ch) s = put base.die) ∧
    (good → rows ≠ 0 → cols ≠ 0 → kind ≠ 0 → kind < 5 → n ≤ base.cfg.d →
      let j := if kind = 1 then br % n else if kind = 2 then bc % n else if kind = 3 then br % gy * gx + bc % gx
        else min (br / max 1 (((fld 4 + rows - 1) / rows + n - 1) / n)) (n - 1)
      ∀ home, home < 8 → base.cfg.dieMask.getLsbD home = true →
        ((List.range home).countP fun i => base.cfg.dieMask.getLsbD i) = j → exec (.tadr t h d sa ch) s = put home)

/-- R60, R65, R104, R145, R269, R363: every operation of slots 2 to 7 but the beats and SEL: a skipping or discarding seat passes it
over; with a barrier the seat does not have it raises ILLEGAL_FIELD; with a false predicate it only arrives, one issue cycle after its
issue, as the model chooses (log entry 32). -/
def Obligations.SuppressedAndPredicated : Prop :=
  ∀ (i : Instr) (t : Tag), i.tag = some t → i.holdsBeat = false →
    ∀ (s : State) (k slot : Nat) (base live : Seat), s.InSeat k slot base live →
      (base.suppressed = true → exec i s = .next s) ∧
      (base.suppressed = false → t.r = 1 → base.sync.bars.length ≤ (base.slotBar slot).toNat →
        exec i s = .next (s.takeTrap base { cause := 0x02, addr := 0 } slot)) ∧
      (base.suppressed = false → (t.r = 1 → (base.slotBar slot).toNat < base.sync.bars.length) →
        base.predField t.p = .ok false → exec i s = .next (s.done base slot t live (some 1))) ∧
      (∀ e, base.suppressed = false → (t.r = 1 → (base.slotBar slot).toNat < base.sync.bars.length) →
        base.predField t.p = .error e → exec i s = .next (s.takeTrap base e slot))

/-! ### Seat control, system registers, traps, landing -/

/-- R105, R124, R125, R184 to R186: YIELD marks the execution; SKPZ and SKPE move the depth also in a skipping or discarding seat,
and a ninth region or an SKPE at depth 0 raises SKIP_DEPTH; FMTW answers the old FMT and schedules the new one for the
fourth execution after its own, and raises FORMAT for a reserved value with FMT unchanged. A skipping or discarding seat
passes over YIELD and FMTW. -/
def Obligations.SeatControl : Prop :=
  ∀ (s : State) (k : Nat) (base live : Seat) (d a : RField), s.InSeat k 0 base live →
    (base.suppressed = false → exec .yield s = .next (s.putSeat { live with yields := true })) ∧
    (base.suppressed = true → exec .yield s = .next s ∧ exec (.fmtw d a) s = .next s) ∧
    (base.skipDepth < 8 → exec .skpz s = .next (s.putSeat { live with
      skipDepth := base.skipDepth + 1
      skipLevel := if base.suppressed = false ∧ base.mt = 0 then base.skipDepth + 1 else base.skipLevel })) ∧
    (8 ≤ base.skipDepth → exec .skpz s = .next (s.takeTrap base { cause := 0x07, addr := 0 } 0)) ∧
    (0 < base.skipDepth → exec .skpe s = .next (s.putSeat { live with
      skipDepth := base.skipDepth - 1
      skipLevel := if base.skipDepth = base.skipLevel then 0 else base.skipLevel })) ∧
    (base.skipDepth = 0 → exec .skpe s = .next (s.takeTrap base { cause := 0x07, addr := 0 } 0)) ∧
    (∀ v, base.suppressed = false → base.src a = .ok v →
      let n := v.toNat
      let bad := n / 2 ^ 35 ≠ 0 ∨ n / 2 ^ 23 % 2 ≠ 0 ∨ n / 2 ^ 14 % 4 ≠ 0 ∨ n % 16 = 0xF ∨ n / 2 ^ 4 % 16 = 0xF ∨
        n / 2 ^ 8 % 16 = 0xF ∨ n / 2 ^ 16 % 16 = 0xF ∨ 5 ≤ n / 2 ^ 20 % 8 ∨ 2 ≤ n / 2 ^ 12 % 4 ∨ n / 2 ^ 24 % 4 = 3
      (bad → exec (.fmtw d a) s = .next (s.takeTrap base { cause := 0x23, addr := 0 } 0)) ∧
      (¬bad → ∃ x, exec (.fmtw d a) s = .next (s.putSeat x) ∧ x.landings = (live.landS 0 1 d.toNat base.regs.fmt).landings ∧
        x.regs.fmt = live.regs.fmt ∧ x.regs.fmtPend = live.regs.fmtPend ++ [(v, 4)] ∧ x.regs.s = live.regs.s ∧
        x.pads = live.pads ∧ x.sys = live.sys))

/-- R113, R114, R131: SYSR reads the register its number names, with latency 2; the identity registers and GANGCFG hold the fields
of R114, CHKCTL the bit of R69, the frame registers the seat's frame, THRSTAT its fields and, as LEVEL, the level of the seat's die
pair as it is now (R399); a number that is not listed raises ILLEGAL_FIELD. -/
def Obligations.SystemRegisterReads : Prop :=
  ∀ (s : State) (k : Nat) (base live : Seat) (d : RField) (num : BitVec 6), s.InSeat k 0 base live → base.suppressed = false →
    let reads := fun (n : Nat) (v : Word64) => num.toNat = n → exec (.sysr d num) s = .next (s.putSeat (live.landS 0 2 d.toNat v))
    reads 0x00 (BitVec.ofNat 64 base.die) ∧
    reads 0x01 (BitVec.ofNat 64 (base.cluster * 8 + base.slotNo)) ∧
    (base.prio < 8 → reads 0x02 (BitVec.ofNat 64 (base.prio * 2 ^ 8 + base.num))) ∧
    (base.cfg.seqDie < 8 → base.cfg.d ≤ 8 → base.e < 8 → base.cfg.c ≤ 64 → base.m < 64 → base.cfg.seqNum < 32 →
      reads 0x03 (BitVec.ofNat 64 (base.cfg.dieMask.toNat * 2 ^ 40 + base.cfg.seqDie * 2 ^ 36 + base.cfg.d * 2 ^ 32 +
        base.e * 2 ^ 24 + base.cfg.c * 2 ^ 16 + base.m * 2 ^ 8 + base.cfg.seqNum))) ∧
    reads 0x04 (if base.sys.chk then 1 else 0) ∧
    reads 0x05 (BitVec.ofNat 64 base.sys.monlimit.toNat) ∧
    reads 0x06 (BitVec.ofNat 64 s.chorus) ∧
    (base.sync.wheelCnt < 2 ^ 10 → base.sync.wheelStride < 2 ^ 10 → base.sync.wheelFirst < 2 ^ 9 →
      reads 0x07 (BitVec.ofNat 64 (base.sync.wheelCnt * 2 ^ 19 + base.sync.wheelStride * 2 ^ 9 + base.sync.wheelFirst))) ∧
    reads 0x08 base.sys.frame.cause ∧ reads 0x09 base.sys.frame.f0 ∧ reads 0x0A base.sys.frame.f1 ∧
    reads 0x0B base.sys.frame.f2 ∧ reads 0x0C base.sys.frame.f3 ∧ reads 0x0D base.sys.hndlbase ∧
    reads 0x0E (BitVec.ofNat 64 base.sys.substcnt.toNat) ∧
    reads 0x0F (BitVec.ofNat 64 ((s.tile (base.id / 4)).skink.toNat * 2 ^ 32 + (s.tile (base.id / 4)).timing.toNat)) ∧
    reads 0x10 base.sys.fiAcc ∧ reads 0x11 base.sys.fiLatch ∧ reads 0x12 base.sys.ensample ∧
    (∃ v, reads 0x13 v ∧ v.toNat / 2 ^ 16 % 2 ^ 3 = s.power.level.getD base.die 0 % 2 ^ 3 ∧
      ∀ i, i < 64 → i < 16 ∨ 19 ≤ i → v.getLsbD i = base.sys.thrstat.getLsbD i) ∧
    (0x14 ≤ num.toNat → exec (.sysr d num) s = .next (s.takeTrap base { cause := 0x02, addr := 0 } 0))

/-- R6, R69, R113, R131, R367, R383, R400: SYSW writes CHKCTL, HNDLBASE, FI_LATCH and ENSAMPLE, their reserved bits ignored;
an interval outside 10 to 24 leaves ENSAMPLE.EN at 0 and IDX and DROP stay; a read-only register is not written; a number
that is not listed raises ILLEGAL_FIELD. -/
def Obligations.SystemRegisterWrites : Prop :=
  ∀ (s : State) (k : Nat) (base live : Seat) (a : RField) (num : BitVec 6) (v : Word64),
    s.InSeat k 0 base live → base.suppressed = false → base.src a = .ok v →
    let writes := fun (y : Sys) => exec (.sysw a num) s = .next (s.putSeat { live with sys := y })
    (num = 0x04 → writes { live.sys with chk := v.getLsbD 0 }) ∧
    (num = 0x0D → writes { live.sys with hndlbase := v }) ∧
    (num = 0x11 → writes { live.sys with
      fiLatch := BitVec.ofNat 64 (v.toNat / 2 ^ 31 % 2 * 2 ^ 31 + v.toNat % 2 ^ 24) }) ∧
    (num = 0x12 → ∃ e : Word64, writes { live.sys with ensample := e } ∧
      (e.getLsbD 0 = true ↔ v.getLsbD 0 = true ∧ 10 ≤ v.toNat / 2 % 32 ∧ v.toNat / 2 % 32 ≤ 24) ∧
      e.toNat / 2 % 32 = v.toNat / 2 % 32 ∧ e.toNat / 2 ^ 12 % 2 ^ 7 = v.toNat / 2 ^ 12 % 2 ^ 7 ∧
      e.toNat / 2 ^ 40 % 2 ^ 16 = live.sys.ensample.toNat / 2 ^ 40 % 2 ^ 16) ∧
    (num = 0x10 → v.getLsbD 24 = true → v.toNat % 2 ^ 7 < 72 → v.toNat / 2 ^ 22 % 4 < base.mat.banks.length →
      ∃ p : Word64, ∃ e : Word64, writes { live.sys with fiAcc := e, fiPend := some (p, base.cycle + 8) } ∧
        e.getLsbD 24 = true ∧ ∀ b, base.mat.banks[v.toNat / 2 ^ 22 % 4]? = some b →
          p.toNat / 2 ^ 16 % 2 ^ 6 = (v.toNat / 2 ^ 16 % 2 ^ 6 + b.h) % 64 ∧ p.toNat % 2 ^ 7 = v.toNat % 2 ^ 7 ∧
          p.toNat / 2 ^ 10 % 2 ^ 6 = v.toNat / 2 ^ 10 % 2 ^ 6 ∧ p.toNat / 2 ^ 22 % 4 = v.toNat / 2 ^ 22 % 4) ∧
    (num = 0x10 → v.getLsbD 24 = true → 72 ≤ v.toNat % 2 ^ 7 ∨ base.mat.banks.length ≤ v.toNat / 2 ^ 22 % 4 →
      ∃ e : Word64, writes { live.sys with fiAcc := e } ∧ e.getLsbD 24 = false) ∧
    (num.toNat < 0x14 → num.toNat ∉ [0x04, 0x0D, 0x10, 0x11, 0x12] → writes live.sys) ∧
    (0x14 ≤ num.toNat → exec (.sysw a num) s = .next (s.takeTrap base { cause := 0x02, addr := 0 } 0))

/-- R94, R96, R363, R364, R367: a trap of kind F of an operation leaves no effect of its execution: the seat stands as the execution
found it, stopped, its monitor's count at zero, with the frame that names cause, slot, bundle, address, delay state, repeat and
producer; the issue slot of its tile, where the seat holds it, passes to another ready seat of the tile or to none; nothing else of the
device changes and the execution is over. -/
def Obligations.FaultsLeaveNoEffect : Prop :=
  ∀ (s : State) (base : Seat) (it : Item) (t : TrapInfo) (slot : Nat), base.cur = some it → t.cause ≠ 0 →
    ∃ f : Frame,
      let u := s.putSeat { base with sys := { base.sys with frame := f, monCount := 0 }, run := .trapped }
      (s.holder (base.id / 4) ≠ some base.id → s.takeTrap base t slot = { u with cursor := none }) ∧
      (s.holder (base.id / 4) = some base.id → ∃ n, s.takeTrap base t slot =
          { u.putTile { s.tile (base.id / 4) with holder := n, last := base.id % 4 } with cursor := none } ∧
        ∀ m, n = some m → ∃ y ∈ s.seats, y.id = m ∧ m / 4 = base.id / 4 ∧ m ≠ base.id ∧ y.ready = true) ∧
      f.cause.toNat % 2 ^ 8 = t.cause % 2 ^ 8 ∧ f.cause.toNat / 2 ^ 8 % 2 ^ 3 = slot % 8 ∧
      f.cause.getLsbD 12 = false ∧ f.cause.getLsbD 14 = false ∧ f.cause.getLsbD 15 = it.handler ∧
      f.f0.toNat % 2 ^ 24 = it.pc % 2 ^ 24 ∧ f.f0.toNat / 2 ^ 32 = it.pc % 2 ^ 24 ∧ f.f1 = t.addr ∧
      f.f2.getLsbD 63 = it.taken ∧ f.f2.toNat / 2 ^ 61 % 4 = it.remain % 4 ∧ f.f2.toNat / 2 ^ 32 % 2 ^ 24 = it.target % 2 ^ 24 ∧
      f.f2.toNat % 2 ^ 32 = it.rep % 2 ^ 32 ∧
      f.f3.toNat / 2 ^ 8 = t.ppc % 2 ^ 24 ∧ f.f3.toNat % 8 = t.pslot % 8

/-- R364, R367: a trap that the sequencer raises stops the stream with a frame that has SEQ and LEAD set and names the bundle. -/
def Obligations.SequencerFaults : Prop :=
  ∀ (base : Gang) (t : TrapInfo) (slot pc : Nat),
    ∃ f : Frame, base.trapSeq t slot pc = { base with seqTrap := some f } ∧
      f.cause.toNat % 2 ^ 8 = t.cause % 2 ^ 8 ∧ f.cause.toNat / 2 ^ 8 % 2 ^ 3 = slot % 8 ∧
      f.cause.getLsbD 14 = true ∧ f.cause.getLsbD 13 = true ∧ f.cause.getLsbD 12 = false ∧ f.cause.getLsbD 15 = base.level ∧
      f.f0.toNat % 2 ^ 24 = pc % 2 ^ 24 ∧ f.f0.toNat / 2 ^ 32 = pc % 2 ^ 24 ∧ f.f1 = t.addr ∧
      f.f2.toNat % 2 ^ 32 = base.rep % 2 ^ 32

/-- R68, R142, R181: what an operation has sent to a register is not there before its issue cycle and is there from then on: S, P
and V registers, the bits of a V register outside the write's mask unchanged, and no other register changes. -/
def Obligations.ResultsLand : Prop :=
  ∀ (x : Seat) (slot lat d : Nat) (v : Word64) (p : Bool) (w mask : VReg), x.landings = [] →
    (∀ n, n < x.cycle + lat → 0 < d →
      ({ x.landS slot lat d v with cycle := n }).settle.regs = x.regs ∧
      ({ x.landV slot lat d w mask with cycle := n }).settle.regs = x.regs) ∧
    (∀ n, x.cycle + lat ≤ n →
      (0 < d → d < 32 → ∀ e, e < 32 → ({ x.landS slot lat d v with cycle := n }).settle.regs.s.getD e 0 =
        if e = d then v else x.regs.s.getD e 0) ∧
      (d < 32 → ∀ e, e < 32 → ∀ i, i < 2048 → (({ x.landV slot lat d w mask with cycle := n }).settle.vVal e).getLsbD i =
        if e = d ∧ mask.getLsbD i = true then w.getLsbD i else (x.vVal e).getLsbD i) ∧
      (0 < d → ({ x.landS slot lat d v with cycle := n }).settle.regs.p = x.regs.p ∧
        ({ x.landS slot lat d v with cycle := n }).settle.regs.v = x.regs.v ∧
        ({ x.landS slot lat d v with cycle := n }).settle.pads = x.pads ∧
        ({ x.landS slot lat d v with cycle := n }).settle.mat = x.mat)) ∧
    (∀ n, 0 < d → d < 8 → ∀ e, e < 8 → ({ x.landP slot d p with cycle := n }).settle.regs.p.getLsbD e =
      if e = d ∧ x.cycle < n then p else x.regs.p.getLsbD e) ∧
    x.landS slot lat 0 v = x ∧ x.landP slot 0 p = x

/-! ### The stream and the executions of a seat -/

/-- R57, R62 to R67, R84: what stands in a slot. At a bundle's first execution a mentioned slot takes its word with the header's
barrier and an accumulator of zero (of j times its step at a repeat j with CLR = 1), a NOP word and CLR empty the slot, and an
operation that stands moves its accumulator by its step. After a bundle's last execution the one-shot operations are NOP,
and all of them where sticky state clears. One-shot operations issue on the first execution only. -/
def Obligations.StandingOperations : Prop :=
  ∀ (h : Word32) (ws : Words) (rep i : Nat) (o : Standing) (v : Vector Standing 8),
    (∀ w l, wordAt ws i = some (w, l) → w.extractLsb' 23 6 ≠ 0 →
      Standing.next h ws rep i o = { word := w, lit := if w.getLsbD 31 then l else 0, bar := h.extractLsb' 5 4
                                     acc := if h.getLsbD 9 then 0 else BitVec.ofInt 32 (rep * stepOf (Slot.ofNum i) w) }) ∧
    (∀ w l, wordAt ws i = some (w, l) → w.extractLsb' 23 6 = 0 → Standing.next h ws rep i o = Standing.nop) ∧
    (wordAt ws i = none → h.getLsbD 10 = true → Standing.next h ws rep i o = Standing.nop) ∧
    (wordAt ws i = none → h.getLsbD 10 = false → o.word.extractLsb' 23 6 ≠ 0 →
      Standing.next h ws rep i o = { o with acc := o.acc + BitVec.ofInt 32 (stepOf (Slot.ofNum i) o.word) }) ∧
    (∀ c, i < 8 → (standAfter c v).getD i Standing.nop =
      if c = true ∨ (v.getD i Standing.nop).word.getLsbD 30 = true then Standing.nop else v.getD i Standing.nop) ∧
    (o.issues rep = true ↔ o.word.extractLsb' 23 6 ≠ 0 ∧ (rep = 0 ∨ o.word.getLsbD 30 = false))

/-- R54 to R58, R62, R64, R88, R97, R100, R102, R112, R117, R120: the sequencer fetches and checks the bundle at its position. A good
bundle that has an execution left opens the first of its sequencer slots that issues, or, blocking, goes to every member and waits;
further executions of it follow. A bundle that fails a check stops the stream with the trap's frame, which names the bundle, and for
a branch target that cannot be fetched the branch with the target as address. A bundle with no execution left is passed over: it may
end an iteration or a taken branch, which clears sticky state. A word whose page is not mapped yet holds the stream until it is. Once
every member's condition holds and its report has come, the blocking bundle's sequencer slots open. That code is read
with the rights of the gang's first member is the model's choice (log entry 15). -/
def Obligations.StreamGoesOn : Prop :=
  ∀ (s : State) (g : Nat) (x0 : Gang), s.gang? g = some x0 → s.cursor = none →
    let x : Gang := { x0.settle with held := none }
    let ready := ∀ va f, x0.held = some (va, f) → s.vaToPa va ≠ none
    let opens := fun (y : Gang) => ∃ slot, y.OpensAt slot ∧
      exec (.bundleSend g) s = .next { s.putGang { y with flow := .seq } with cursor := some (.seqr g slot { y with flow := .seq }) }
    let fails := fun (t : TrapInfo) (slot : Nat) (y : Gang) =>
      (x0.delay = none → y = x.trapSeq t slot x0.pc) ∧
      (∀ d, x0.delay = some d → d.remain ≠ 0 → y = x.trapSeq t slot x0.pc) ∧
      (∀ d, x0.delay = some d → d.remain = 0 → t.cause = 0x1B →
        y = x.trapSeq { t with addr := BitVec.ofNat 64 d.target } slot d.branch) ∧
      (∀ d, x0.delay = some d → d.remain = 0 → t.cause ≠ 0x1B → y = { x with delay := none }.trapSeq t slot x0.pc)
    (∀ h ws n, x0.sends = true → ready → x.reps = 0 → s.fetch x = .ok (h, ws, n) → x.rep < n →
      s.room x ((n - x.rep) * Header.cycles h) = true →
      let y : Gang := (s.placed x h).loaded h ws n
      y.hdr = h ∧ y.words = ws ∧ y.reps = n ∧ y.pc = x0.pc ∧ y.rep = x0.rep ∧ y.g = x0.settle.g ∧ y.h = x0.settle.h ∧
        y.loops = x0.loops ∧ y.handlers = x0.handlers ∧
        (∀ off w, s.header x = .ok (off, w) → y.off = some off) ∧
        y.standing = (if x0.rep = 0 ∨ Header.clr h = true then standNext h ws x0.rep x0.standing else x0.standing) ∧
        (y.blocks = false → opens y) ∧
        (y.blocks = true → x0.stop = .run →
          exec (.bundleSend g) s = .next ((s.putGang { y with waiting := true }).push g (.exec y.item)))) ∧
    (x0.sends = true → ready → x.reps ≠ 0 → x.blocks = false → opens x) ∧
    (∀ t slot, x0.sends = true → ready → x.reps = 0 → s.fetch x = .error (t, slot) → t.cause ≠ 0 →
      ∃ y : Gang, fails t slot y ∧ exec (.bundleSend g) s = .next (s.putGang y)) ∧
    (∀ t slot, x0.sends = true → ready → x.reps = 0 → s.fetch x = .error (t, slot) → t.cause = 0 →
      ∃ y f, fails { cause := 0x1B, addr := 0 } slot y ∧ y.seqTrap = some f ∧
        exec (.bundleSend g) s = .next (s.putGang { x with held := some (t.addr.toNat, f) })) ∧
    (∀ h ws n, x0.sends = true → ready → x.reps = 0 → s.fetch x = .ok (h, ws, n) → n ≤ x.rep → x0.stop = .run →
      ∃ z : Gang, z.rep = 0 ∧ z.reps = 0 ∧ z.stop = .run ∧ z.g = x0.settle.g ∧ z.h = x0.settle.h ∧ z.serial = x0.serial ∧
        let ends := ∃ l r, x0.loops = l :: r ∧ l.last = x0.pc
        ((∀ d, x0.delay = some d → d.remain = 0) →
          z.loops = (loopEnd x0.pc x0.loops).1 ∧ z.pc = (loopEnd x0.pc x0.loops).2 ∧ z.delay = none ∧
          (¬ends → z.standing = x0.standing ∧ exec (.bundleSend g) s = .next (s.putGang z)) ∧
          (ends → z.standing = standAfter true x0.standing ∧ z.edge = true ∧
            exec (.bundleSend g) s = .next ((s.push g (.note true true false)).putGang z))) ∧
        (∀ d, x0.delay = some d → d.taken = true → d.reth = false → ¬ends →
          (d.remain = 2 → z.pc = x0.pc + 1 ∧ z.delay = some { d with remain := 1 } ∧ z.standing = x0.standing ∧
            exec (.bundleSend g) s = .next (s.putGang z)) ∧
          (d.remain = 1 → z.pc = d.target ∧ z.standing = standAfter true x0.standing ∧
            exec (.bundleSend g) s = .next ((s.push g (.note true false false)).putGang z)))) ∧
    (¬ready → exec (.bundleSend g) s = .next s) ∧
    (x0.waiting = true → ready → x0.seqTrap = none →
      (∀ y ∈ s.seats, y.gang = g → y.waitsDone x0.serial = true ∧ s.meshUp y.die x0.seqDie = true) →
      ∃ slot, x.OpensAt slot ∧ exec (.gangWaitCompletion g) s =
        .next { s.putGang { x with flow := .seq } with cursor := some (.seqr g slot { x with flow := .seq }) }) ∧
    (∀ y ∈ s.seats, x0.waiting = true → y.gang = g → y.waitsDone x0.serial = false → exec (.gangWaitCompletion g) s = .next s)

/-- R62, R63, R94, R97: a bundle's execution reaches the member's queue; a ready seat that may have its tile's issue slot and meets no
hold opens the execution at its queue's head: its due results have landed, its standing operations are those of R62 (first)
or of R63 (repeat), and the slots that issue follow one by one. -/
def Obligations.ExecutionsBegin : Prop :=
  ∀ (s : State) (k : Nat) (x : Seat), s.seat? k = some x → x.id = k →
    (∀ i r, x.transit = .exec i :: r → s.meshUp x.cfg.seqDie x.die = true →
      exec (.bundleArrival k) s = .next (s.putSeat { x with transit := r, queue := x.queue ++ [.exec i] })) ∧
    (∀ it r first, s.cursor = none → x.run = .run → x.started = true → x.queue = .exec it :: r → it.first = first →
      x.yields = false → (it.blocking = false ∨ (x.go = true ∧ x.passesWait it = true)) → s.heldBack x it = false → s.maySlot x = true → x.prepared = false →
      it.decodeFault = none → x.sys.fiLatch.getLsbD 31 = false →
      ∀ z, z = ({ x.catchUp with cur := some it, sync := { x.catchUp.sync with acq := false } } : Seat).prepare it →
      (it.rep = 0 ∨ z.dead = false) → z.voteFault = none → z.scWanted = 0 →
        z.cur = some it ∧ z.regs.s = x.catchUp.regs.s ∧ z.regs.v = x.catchUp.regs.v ∧ z.regs.p = x.catchUp.regs.p ∧
        z.pads = x.catchUp.pads ∧ z.cycle = x.cycle ∧ z.skipDepth = x.skipDepth ∧
        (first = true → z.standing = standNext it.hdr it.words it.rep x.standing) ∧
        (first = false → it.hdr.getLsbD 9 = true → z.standing = x.standing) ∧
        (first = false → it.hdr.getLsbD 9 = false → ∀ i, i < 8 →
          z.standing.getD i Standing.nop = (x.standing.getD i Standing.nop).step i) ∧
        exec (if first then .bundleExecution k else .repeatExecution k) s =
          .next { (s.giveSlot (k / 4) (some k)).putSeat z with cursor := some (.seat k (z.slotFrom 0) z) })

/-- R188, R380 to R382: at its commit an execution that the shadow latches flag is issued again from the state of its first attempt,
and TIMING counts it; one whose skinks disagree is issued again once and SKINK counts it, and a second disagreement raises
SDC_VECTOR. The two results disagree in sign, in exactly one being NaN, or in their keys by more than 1. -/
def Obligations.Replays : Prop :=
  ∀ (s : State) (k slot : Nat) (base : Seat), s.cursor = some (.seat k slot base) → base.id = k → 8 ≤ slot →
    (base.replayed = false → ∃ t, exec (.timingReplay k .timing) s = .next t ∧
      t.cursor = some (.seat k (base.slotFrom 0) { base with replayed := true }) ∧
      (t.tile (k / 4)).timing = (s.tile (k / 4)).timing + 1 ∧ (t.tile (k / 4)).skink = (s.tile (k / 4)).skink ∧
      t.seats = (s.putSeat { base with replayed := true }).seats ∧ t.gangs = s.gangs ∧ t.hbm = s.hbm) ∧
    (∀ u v, base.skinks = true → skinkDisagrees base.skinkCode u v = true → base.skinked = false → ∃ t,
      exec (.timingReplay k (.skink u v)) s = .next t ∧
      t.cursor = some (.seat k (base.slotFrom 0) { base with replayed := true, skinked := true }) ∧
      (t.tile (k / 4)).skink = (s.tile (k / 4)).skink + 1 ∧ (t.tile (k / 4)).timing = (s.tile (k / 4)).timing ∧
      t.seats = (s.putSeat { base with replayed := true, skinked := true }).seats ∧ t.gangs = s.gangs ∧ t.hbm = s.hbm) ∧
    (∀ u v, base.skinks = true → skinkDisagrees base.skinkCode u v = true → base.skinked = true →
      exec (.timingReplay k (.skink u v)) s = .next (s.takeTrap base { cause := 0x19, addr := 0 } 3)) ∧
    (∀ u v, base.skinks = false ∨ skinkDisagrees base.skinkCode u v = false → exec (.timingReplay k (.skink u v)) s = .next s) ∧
    ∀ code f lo n, (code, f, lo, n) ∈ [(0xC, binary32, 15, 16), (0xB, binary16, 3, 12), (0xA, bfloat16, 0, 15), (8, e4m3, 0, 7),
        (9, e5m2, 0, 7)] → ∀ u v, u < 2 ^ f.width → v < 2 ^ f.width →
      let nan := fun (w : Nat) => decodeFloat f w = .nan
      (skinkDisagrees code u v = true ↔ u / 2 ^ (f.width - 1) ≠ v / 2 ^ (f.width - 1) ∨ ¬(nan u ↔ nan v) ∨
        u / 2 ^ lo % 2 ^ n + 1 < v / 2 ^ lo % 2 ^ n ∨ v / 2 ^ lo % 2 ^ n + 1 < u / 2 ^ lo % 2 ^ n)

/-- R59, R68, R165, R186, R187, R208, R219, R267, R383: the seat's oldest due landing takes effect by itself, each kind by its own event; a
due FMT write takes effect; the generator adds its next word to a queue that is not full; an armed flip inverts the stored
bit of the entry at its issue cycle and disarms. -/
def Obligations.TimedEffects : Prop :=
  ∀ (s : State) (k : Nat) (x : Seat), s.seat? k = some x → s.cursor = none →
    (∀ l r, x.landings = l :: r → l.due ≤ x.cycle → x.frozen = false → x.sys.fiPend = none →
      (∀ d v, l.eff = .sReg d v → exec (.resultLanding k) s = .next (s.putSeat ({ x with landings := r }.applyLand (.sReg d v)))) ∧
      (∀ d v m, l.eff = .vReg d v m →
        exec (.resultLanding k) s = .next (s.putSeat ({ x with landings := r }.applyLand (.vReg d v m)))) ∧
      (∀ a bs, l.eff = .pad a bs →
        exec (.resultLanding k) s = .next (s.putSeat ({ x with landings := r }.writeBytes (cellsAt a bs)))) ∧
      (∀ b, l.eff = .beat b → exec (.beatAccumulation k) s =
        .next (s.putSeat ({ x with landings := r }.updBank b.bank fun q => q.accumulate b))) ∧
      (∀ i, l.eff = .clearBank i →
        exec (.beatAccumulation k) s = .next (s.putSeat ({ x with landings := r }.updBank i Bank.clear))) ∧
      (∀ b v, l.eff = .scale b v → exec (.scaleEdgeJoin k) s =
        .next (s.putSeat { x with landings := r, mat := { x.mat with scales := x.mat.scales ++ [(b, v)] } })) ∧
      (∀ i q, l.eff = .arrive i → x.sync.bars[i]? = some q → q.n.toNat + 1 < 2 ^ 32 → exec (.arriveOnRetire k) s =
        .next (s.putSeat { x with landings := r, sync := { x.sync with bars := x.sync.bars.set i { q with n := q.n + 1 } } }))) ∧
    (∀ v r, x.prepared = false → x.regs.fmtPend = [(v, 0)] ++ r → (∀ w ∈ r, w.2 ≠ 0) →
      exec (.fmtWriteEffect k) s = .next (s.putSeat { x with regs := { x.regs with fmt := v, fmtPend := r } })) ∧
    (x.regs.rbq.length < 16 → exec (.generatorWord k) s = .next (s.putSeat { x with regs := { x.regs with
      rbq := x.regs.rbq ++ [genWord x.regs.seed x.regs.genN], genN := x.regs.genN + 1 } })) ∧
    (∀ v d, x.sys.fiPend = some (v, d) → d ≤ x.cycle → (∀ l ∈ x.landings, d < l.due) →
      ∃ y, exec (.fiAccFlip k) s = .next (s.putSeat y) ∧ y.sys.fiPend = none ∧ y.sys.fiAcc.getLsbD 24 = false ∧
        y.regs = x.regs ∧ y.pads = x.pads ∧
        ∀ b, x.mat.banks[v.toNat / 2 ^ 22 % 4]? = some b →
          let e := 64 * (v.toNat / 2 ^ 16 % 64) + v.toNat / 2 ^ 10 % 64
          ∃ b', y.mat.banks[v.toNat / 2 ^ 22 % 4]? = some b' ∧
            b'.entries = putAcc b.entries e (lookupAcc b.entries e ^^^ (1 <<< (v.toNat % 2 ^ 7))))

/-! ### Scratchpad accesses of the ADR and VLS slots -/

/-- R61, R155, R157, R160 to R162, R167, R169, R177, R179, R208, R286: LD reads the sign-extended bytes at S[base] + offset +
accumulator into S[t] with latency 4; ST writes the low bytes of S[t] there and changes no other byte. Outside the seat's pads
SCRATCH_RANGE, else misaligned ALIGN, else (ST) a pad the thread does not own OWNER, else (LD, checked) bytes a drain has yet
to write UNDERSIZED_STALL, else a word that fails its parity or an access to the own slot on its way holds the tile, else a
poisoned granule SCRATCH_ECC, each with the address; a fault writes nothing. That OWNER comes before SCRATCH_ECC is the model's
choice (log entry 32). -/
def Obligations.ScratchScalar : Prop :=
  ∀ (s : State) (k : Nat) (base live : Seat) (t : Tag) (rt rb : RField) (step : BitVec 5) (sz : BitVec 2) (lit : Option Word32)
    (b v : Word64), s.Runs k 2 base live t → base.src rb = .ok b → base.src rt = .ok v → live.PadsWf →
    let ea : Word64 := b + BitVec.ofInt 64 ((lit.elim 0 BitVec.toInt) + base.slotAcc 2)
    let n := 2 ^ sz.toNat
    let a := ea.toNat
    let ldTraps := fun c => exec (.ld t rt rb step sz lit) s = .next (s.takeTrap base { cause := c, addr := ea } 2)
    let stTraps := fun c => exec (.st t rt rb step sz lit) s = .next (s.takeTrap base { cause := c, addr := ea } 2)
    let inside := a + n ≤ 2 ^ 19 ∧ (a + n - 1) / 4096 < base.pads.count
    let poison := a / 64 ∈ base.pads.poison
    (¬inside → ldTraps 0x0A ∧ stTraps 0x0A) ∧
    (inside → a % n ≠ 0 → ldTraps 0x0B ∧ stTraps 0x0B) ∧
    (inside → a % n = 0 → base.sys.chk = true → ∀ l p bs, base.landings = [l] → l.eff = .pad p bs → p < a + n → a < p + bs.length →
      exec (.ld t rt rb step sz lit) s =
        .next (s.takeTrap base { cause := 0x05, addr := 0, ppc := l.pc, pslot := l.slot } 2)) ∧
    (inside → a % n = 0 → base.Quiet → base.Waits a n →
      exec (.ld t rt rb step sz lit) s = .next (s.takeTrap base holdTile 2)) ∧
    (inside → a % n = 0 → poison → base.Still a n → base.Quiet → ldTraps 0x22) ∧
    (inside → a % n = 0 → ¬poison → base.Still a n → base.Quiet →
      exec (.ld t rt rb step sz lit) s = .next (s.done base 2 t (live.landS 2 4 rt.toNat
        (BitVec.ofInt 64 (Int.bmod (leNat (base.padBytes a n)) (2 ^ (8 * n))))) (some 4))) ∧
    (inside → a % n = 0 → base.pads.owner.getD (a / 4096) .thread ≠ .thread → stTraps 0x09) ∧
    (inside → a % n = 0 → base.pads.owner.getD (a / 4096) .thread = .thread →
      (∃ o ∈ base.sync.own, 0 < o.len ∧ o.addr < a + n ∧ a < o.addr + o.len) →
      exec (.st t rt rb step sz lit) s = .next (s.takeTrap base holdTile 2)) ∧
    (inside → a % n = 0 → base.pads.owner.getD (a / 4096) .thread = .thread → poison → base.Still a n → stTraps 0x22) ∧
    (inside → a % n = 0 → base.pads.owner.getD (a / 4096) .thread = .thread → ¬poison → base.Still a n →
      ∃ x : Seat, exec (.st t rt rb step sz lit) s = .next (s.done base 2 t x (some 1)) ∧
        { x with pads := live.pads } = live ∧ x.pads.owner = live.pads.owner ∧ x.pads.count = live.pads.count ∧
        x.pads.phys = live.pads.phys ∧ leNat (x.padBytes a n) = v.toNat % 2 ^ (8 * n) ∧
        ∀ q, q < a ∨ a + n ≤ q → Mem.byte x.pads.bytes q = Mem.byte live.pads.bytes q)

/-- R155, R157, R160, R162, R170, R177, R179, R208, R286: AMO reads and writes one aligned unit of 4 or 8 bytes in one step: the old value,
zero-extended, lands in S[t] with latency 4 (a write to S0 is discarded by landS), and the unit takes the result of its
function; no other byte changes. The checks are those of a thread write and of a thread read. -/
def Obligations.ScratchAtomics : Prop :=
  ∀ (s : State) (k : Nat) (base live : Seat) (t : Tag) (rt rb : RField) (f : BitVec 4) (z : BitVec 1) (lit : Option Word32)
    (b v c : Word64), s.Runs k 2 base live t → base.src rb = .ok b → base.src rt = .ok v →
    (f = 7 → base.src (rt + 1) = .ok c) → f.toNat < 10 → live.PadsWf →
    let ea : Word64 := b + BitVec.ofInt 64 (lit.elim 0 BitVec.toInt)
    let n := if z = 1 then 8 else 4
    let a := ea.toNat
    let w := 8 * n
    let traps := fun c => exec (.amo t rt rb f z lit) s = .next (s.takeTrap base { cause := c, addr := ea } 2)
    let inside := a + n ≤ 2 ^ 19 ∧ (a + n - 1) / 4096 < base.pads.count
    let owner := base.pads.owner.getD (a / 4096) .thread
    let old := leNat (base.padBytes a n)
    let u := v.toNat % 2 ^ w
    let sgn := fun (i : Nat) => Int.bmod (i : Int) (2 ^ w)
    (¬inside → traps 0x0A) ∧ (inside → a % n ≠ 0 → traps 0x0B) ∧
    (inside → a % n = 0 → owner ≠ .thread → traps 0x09) ∧
    (inside → a % n = 0 → owner = .thread → (∀ o ∈ base.sync.own, o.addr + o.len ≤ a ∨ a + n ≤ o.addr) → base.sys.chk = true →
      ∀ l p bs, base.landings = [l] → l.eff = .pad p bs → p < a + n → a < p + bs.length →
      exec (.amo t rt rb f z lit) s =
        .next (s.takeTrap base { cause := 0x05, addr := 0, ppc := l.pc, pslot := l.slot } 2)) ∧
    (inside → a % n = 0 → owner = .thread → base.Quiet → ¬base.Still a n →
      exec (.amo t rt rb f z lit) s = .next (s.takeTrap base holdTile 2)) ∧
    (inside → a % n = 0 → owner = .thread → base.Quiet → base.Still a n → a / 64 ∈ base.pads.poison → traps 0x22) ∧
    (inside → a % n = 0 → owner = .thread → base.Quiet → base.Still a n → a / 64 ∉ base.pads.poison →
      ∃ x : Seat, exec (.amo t rt rb f z lit) s =
          .next (s.done base 2 t (x.landS 2 4 rt.toNat (BitVec.ofNat 64 old)) (some 4)) ∧
        { x with pads := live.pads } = live ∧ x.pads.owner = live.pads.owner ∧ x.pads.count = live.pads.count ∧
        (∀ q, q < a ∨ a + n ≤ q → Mem.byte x.pads.bytes q = Mem.byte live.pads.bytes q) ∧
        leNat (x.padBytes a n) = match f.toNat with
          | 0 => (old + u) % 2 ^ w
          | 1 => if sgn old ≤ sgn u then old else u
          | 2 => if sgn old ≤ sgn u then u else old
          | 3 => old &&& u
          | 4 => old ||| u
          | 5 => old ^^^ u
          | 6 => u
          | 7 => if old = c.toNat % 2 ^ w then u else old
          | 8 => if old ≤ u then old else u
          | _ => if old ≤ u then u else old)

/-- R160, R161, R166: OWN gives a run of pads to the engines, or takes it back: a pad becomes THREAD, or RETURNING while a command
issued before has accesses to it to come, or a started one of another seat; THREAD stays. A run outside the seat raises SCRATCH_RANGE, a start inside a pad ALIGN. WPR reads
the channel's write pointer. Nothing else changes. The model's choices: S[a] is compared without a sign (log entry 27), and the last
byte that a command delivers ends its accesses (log entry 28). -/
def Obligations.PadOwners : Prop :=
  ∀ (s : State) (k : Nat) (base live : Seat) (t : Tag) (d a : RField) (cnt : BitVec 6) (ch : BitVec 7) (v : Word64),
    s.Runs k 2 base live t → base.src a = .ok v →
    let first := v.toNat / 4096
    let n := cnt.toNat + 1
    let run := fun q => first ≤ q ∧ q < first + n
    let own := fun (i : Instr) (f : Owner → Nat → Owner) => ∃ x : Seat, exec i s = .next (s.done base 2 t x (some 1)) ∧
      { x with pads := { x.pads with owner := live.pads.owner } } = live ∧
      ∀ q o, live.pads.owner[q]? = some o → x.pads.owner[q]? = some (f o q)
    let traps := fun c => exec (.ownEng t a cnt) s = .next (s.takeTrap base { cause := c, addr := v } 2) ∧
      exec (.ownThr t a cnt) s = .next (s.takeTrap base { cause := c, addr := v } 2)
    let inside := v.toNat < 2 ^ 19 ∧ first + n ≤ base.pads.count
    (¬inside → traps 0x0A) ∧ (inside → v.toNat % 4096 ≠ 0 → traps 0x0B) ∧
    (inside → v.toNat % 4096 = 0 →
      own (.ownEng t a cnt) (fun o q => if run q then .engine else o) ∧
      own (.ownThr t a cnt) (fun o q => if run q ∧ o = .engine then
        (if (∃ m ∈ base.copy.cmds, m.serial < base.cycle ∧ (m.fault ≠ none ∨ m.done < m.len) ∧ m.touches q = true) ∨
            s.visitors base q ≠ [] then .returning base.cycle (s.visitors base q) else .thread) else o)) ∧
    (ch.toNat < 8 → exec (.wpr t d ch) s = .next (s.done base 2 t (live.landS 2 1 d.toNat
      (base.copy.chans.getD ch.toNat { issued := 0, w := 0 }).w) (some 1)))

/-- R156, R157, R159, R162, R165, R169 to R171, R179, R280, R295: LDR, AMOR and VLDR take landing entries, wait for their data under the
entry's number and send a request to the member seat on the slot that the cluster address names; STR and VSTR send their
bytes. A wrong slot or offset raises SCRATCH_RANGE or ALIGN, poison SCRATCH_ECC at the bundle; without entries the tile is held; an SC form without wheel
positions raises SC_NO_POSITION; with no active lane nothing is sent. An arrival waits for the message only where it writes
nothing back. That poison is found at the bundle, in the granules that no earlier message of the tile to that bank writes whole, and comes
before an OWNER found where the message is performed, is the model's choice (log entries 28 and 32). -/
def Obligations.RemoteAccesses : Prop :=
  ∀ (s : State) (k slot : Nat) (base live : Seat) (t : Tag) (rt rb : RField) (step : BitVec 5) (sz : BitVec 2) (l : Word32)
    (pl : Option Word32) (f : BitVec 4) (z sc : BitVec 1) (b v c : Word64) (u : VReg) (y : Seat),
    s.Runs k slot base live t → base.src rb = .ok b → base.id = live.id →
    let at' := fun (o : Int) => b + BitVec.ofInt 64 o
    let acc := base.slotAcc slot
    let dist := l.toNat / 2 ^ 26
    let off := (l.extractLsb' 0 26).toInt
    let poff := pl.elim 0 BitVec.toInt
    let fits := fun (ea : Word64) (n : Nat) => ea.toNat < 2 ^ 22 ∧ s.clusterSeat base (ea.toNat / 2 ^ 19) = some y ∧
      y.Inside (ea.toNat % 2 ^ 19) n ∧ ea.toNat % 2 ^ 19 % n = 0
    let wrong := fun (ea : Word64) (n cause : Nat) => (2 ^ 22 ≤ ea.toNat ∧ cause = 0x0A) ∨
      (ea.toNat < 2 ^ 22 ∧ s.clusterSeat base (ea.toNat / 2 ^ 19) = none ∧ cause = 0x0A) ∨
      (ea.toNat < 2 ^ 22 ∧ s.clusterSeat base (ea.toNat / 2 ^ 19) = some y ∧ y.AddrFault (ea.toNat % 2 ^ 19) n n cause)
    let traps := fun (i : Instr) (ea : Word64) (cause : Nat) =>
      exec i s = .next (s.takeTrap base { cause := cause, addr := ea } slot)
    let room := fun n => (s.ctx slot base live).landingUse + n ≤ 64
    let full := fun n => 64 < (s.ctx slot base live).landingUse + n
    let arr := if t.r = 1 then some (base.slotBar slot).toNat else none
    let lanes := fun n => (List.range n).filter fun i => base.mt.getLsbD i
    let sent := fun (i : Instr) (x0 : Seat) (ea : Word64) (ar st : Option Nat) (body : MsgBody) (lat : Option Nat) =>
      ∃ x : Seat, x0.Sends x y.id ea ar st body ∧ exec i s = .next (s.done base slot t x lat)
    let ldr := Instr.ldr t rt rb step sz l
    let e1 := at' (off + acc)
    let n1 := 2 ^ sz.toNat
    let str := Instr.str t rt rb step sz pl
    let e2 := at' (poff + acc)
    let amor := Instr.amor t rt rb sc f z l
    let e3 := at' off
    let n3 := if z = 1 then 8 else 4
    let vldr := Instr.vldr t rt rb step sz l
    let nv := 64 * 2 ^ sz.toNat
    let vstr := Instr.vstr t rt rb step sz pl
    -- a poisoned granule that the active lanes of VSTR touch and do not cover
    let seen := s.seenBy live y
    let torn := ∃ g ∈ seen.pads.poison, (∃ i ∈ lanes (nv / 4), (e2.toNat % 2 ^ 19 + 4 * i) / 64 = g) ∧
      ∃ i, i < nv / 4 ∧ i ∉ lanes (nv / 4) ∧ (e2.toNat % 2 ^ 19 + 4 * i) / 64 = g
    let clean := fun (ea : Word64) (n : Nat) => seen.Clean (ea.toNat % 2 ^ 19) n
    (∀ g, g ∈ seen.pads.poison ↔ g ∈ y.pads.poison ∧ ¬∃ m : Msg, ((m ∈ s.msgs ∧ m.src / 4 = live.id / 4) ∨
      Deferred.msg m ∈ live.sync.relq) ∧ m.dst = y.id ∧ m.body.fillsGranule g = true) ∧
    (fits e1 n1 → clean e1 n1 → room 1 → ∃ e, sent ldr (live.landRemote slot dist 1 e (.sReg rt.toNat 0)) e1 none none
      (.load (e1.toNat % 2 ^ 19) n1 e) (some dist)) ∧
    (∀ cause, wrong e1 n1 cause → traps ldr e1 cause) ∧ (fits e1 n1 → ¬clean e1 n1 → traps ldr e1 0x22) ∧
    (fits e1 n1 → clean e1 n1 → full 1 → exec ldr s = .next (s.takeTrap base holdCycles slot)) ∧
    (base.src rt = .ok v → fits e2 n1 → ¬clean e2 n1 → traps str e2 0x22) ∧
    (base.src rt = .ok v → fits e2 n1 → clean e2 n1 → live.releasePending = false → sent str live e2 arr none
      (.store (e2.toNat % 2 ^ 19) ((List.range n1).map fun i => (e2.toNat % 2 ^ 19 + i, BitVec.ofNat 8 (v.toNat / 256 ^ i)))) none) ∧
    (∀ cause, base.src rt = .ok v → wrong e2 n1 cause → traps str e2 cause) ∧
    (base.src rt = .ok v → (f = 7 → base.src (rt + 1) = .ok c) → (f ≠ 7 → c = 0) → (sc = 1 → base.sync.wheelCnt ≠ 0) →
      fits e3 n3 → (¬clean e3 n3 → traps amor e3 0x22) ∧ (clean e3 n3 → room 1 → live.releasePending = false →
      ∃ e, sent amor (live.landRemote slot dist 1 e (.sReg rt.toNat 0) (sc == 1)) e3 none
        (if sc = 1 then base.sync.scStamps.head? else none)
        (.amo (e3.toNat % 2 ^ 19) n3 f.toNat v c e (sc == 1)) (some dist))) ∧
    (sc = 1 → base.sync.wheelCnt = 0 → traps amor 0 0x20) ∧
    (lanes (nv / 4) ≠ [] → fits e1 nv → (∃ j ∈ lanes (nv / 4), ¬seen.Clean (e1.toNat % 2 ^ 19 + 4 * j) 4) → traps vldr e1 0x22) ∧
    (lanes (nv / 4) ≠ [] → fits e1 nv → (∀ j ∈ lanes (nv / 4), seen.Clean (e1.toNat % 2 ^ 19 + 4 * j) 4) → room (nv / 64) → ∃ e mask,
      (∀ i, i < 2048 → (mask.getLsbD i = true ↔ i / 32 ∈ lanes (nv / 4))) ∧
      sent vldr (live.landRemote slot dist (nv / 64) e (.vReg rt.toNat 0 mask)) e1 none none
        (.vload (e1.toNat % 2 ^ 19) (lanes (nv / 4)) nv e) (some dist)) ∧
    (∀ cause, lanes (nv / 4) ≠ [] → wrong e1 nv cause → traps vldr e1 cause) ∧
    (lanes (nv / 4) = [] → exec vldr s = .next (s.done base slot t live (some dist))) ∧
    (base.vsrc rt = .ok u → lanes (nv / 4) ≠ [] → fits e2 nv → torn → traps vstr e2 0x22) ∧
    (base.vsrc rt = .ok u → lanes (nv / 4) ≠ [] → fits e2 nv → ¬torn → live.releasePending = false → ∃ bs,
      sent vstr live e2 arr none (.store (e2.toNat % 2 ^ 19) bs) none ∧
      ∀ w, w ∈ bs ↔ ∃ i j, i ∈ lanes (nv / 4) ∧ j < 4 ∧
        w = (e2.toNat % 2 ^ 19 + 4 * i + j, u.extractLsb' (32 * i + 8 * j) 8)) ∧
    (∀ cause, base.vsrc rt = .ok u → lanes (nv / 4) ≠ [] → wrong e2 nv cause → traps vstr e2 cause) ∧
    (base.vsrc rt = .ok u → lanes (nv / 4) = [] → exec vstr s = .next (s.done base slot t live (some 1)))

/-- R8, R154, R155, R157, R160, R167, R171 to R175, R179, R181: the local accesses of the VLS slot: VLD and VST of whole granules by
lanes, VLDS and VSTS at a stride, VGTH and VSCT at offsets from the lanes of V[b], VTRP transposing rows whose addresses are
exact sums of signed registers (log entry 27), VLDX expanding 2:4 pairs, its index plane at an eighth of the offset, rounded down
(log entry 32). Only elements whose lane the mask selects read, write or trap; the first element that fails decides the trap; of stores
to one address the highest element stays; no other byte changes. -/
def Obligations.ScratchVectors : Prop :=
  ∀ (s : State) (k slot : Nat) (base live : Seat) (t : Tag) (rt rb rc : RField) (step : BitVec 5) (sz : BitVec 2) (m : BitVec 1)
    (lit : Option Word32) (l : Word32) (b c : Word64) (u v : VReg),
    s.Runs k slot base live t → base.src rb = .ok b → base.vsrc rt = .ok u → base.Quiet → live.PadsWf → sz.toNat < 3 →
    let on := fun (i : Nat) => base.mt.getLsbD i = true
    let acc := base.slotAcc slot
    let ea : Word64 := b + BitVec.ofInt 64 (lit.elim 0 BitVec.toInt + acc)
    let n := 64 * 2 ^ sz.toNat
    let lane := fun i => i < n / 4 ∧ on i
    let traps := fun (i : Instr) (cause : Nat) (a : Word64) =>
      exec i s = .next (s.takeTrap base { cause := cause, addr := a } slot)
    let loads := fun (i : Instr) (lat w : Nat) (act : Nat → Prop) (a : Nat → Nat) =>
      LandsElems i s slot base live t rt.toNat lat (8 * w) act fun j => leNat (base.padBytes (a j) w)
    let stores := fun (i : Instr) (parts : List (Nat × Nat × Nat)) =>
      ∃ x, live.Stored x parts ∧ exec i s = .next (s.done base slot t x (some 1))
    -- VLD, VST
    (base.Inside ea.toNat n → ea.toNat % n = 0 → (∀ i, lane i → base.Clean (ea.toNat + 4 * i) 4 ∧ base.Still (ea.toNat + 4 * i) 4) →
      loads (.vld t rt rb step sz lit) 4 4 lane fun i => ea.toNat + 4 * i) ∧
    ((∀ i, ¬lane i) → loads (.vld t rt rb step sz lit) 4 4 lane (fun i => ea.toNat + 4 * i) ∧
      stores (.vst t rt rb step sz lit) []) ∧
    (∀ i cause, lane i → base.AddrFault ea.toNat n n cause →
      traps (.vld t rt rb step sz lit) cause ea ∧ traps (.vst t rt rb step sz lit) cause ea) ∧
    (∀ i, lane i → base.Inside ea.toNat n → ea.toNat % n = 0 → base.Waits (ea.toNat + 4 * i) 4 →
      exec (.vld t rt rb step sz lit) s = .next (s.takeTrap base holdTile slot)) ∧
    (∀ i, lane i → base.Inside ea.toNat n → ea.toNat % n = 0 → ¬base.Clean (ea.toNat + 4 * i) 4 →
      (∀ j, lane j → base.Still (ea.toNat + 4 * j) 4) → traps (.vld t rt rb step sz lit) 0x22 ea) ∧
    (∀ i, lane i → base.Inside ea.toNat n → ea.toNat % n = 0 → base.pads.owner.getD (ea.toNat / 4096) .thread ≠ .thread →
      traps (.vst t rt rb step sz lit) 0x09 ea) ∧
    (base.Writable ea.toNat n n → stores (.vst t rt rb step sz lit)
      (((List.range (n / 4)).filter fun i => base.mt.getLsbD i).map fun i => (ea.toNat + 4 * i, 4, vElem 32 u i))) ∧
    -- VLDS, VSTS
    (let w := 2 ^ sz.toNat
     let a := fun (j : Nat) => b + BitVec.ofInt 64 ((l.extractLsb' 0 20).toInt + acc) +
       BitVec.ofInt 64 (j * (l.extractLsb' 20 12).toInt)
     let act := fun j => j < 64 ∧ on (j * w / 4)
     ((∀ j, act j → base.Readable (a j).toNat w w) → loads (.vlds t rt rb step sz l) 6 w act fun j => (a j).toNat) ∧
     ((∀ j, act j → base.Writable (a j).toNat w w) → ∃ x, live.Stored x (((List.range 64).filter fun j =>
         base.mt.getLsbD (j * w / 4) && (List.range 64).all fun i => i ≤ j || !base.mt.getLsbD (i * w / 4) || a i != a j).map
           fun j => ((a j).toNat, w, vElem (8 * w) u j)) ∧
       exec (.vsts t rt rb step sz l) s = .next (s.done base slot t x (some 1))) ∧
     (∀ j cause, act j → (∀ i, i < j → act i → base.Writable (a i).toNat w w) → base.AddrFault (a j).toNat w w cause →
       traps (.vlds t rt rb step sz l) cause (a j) ∧ traps (.vsts t rt rb step sz l) cause (a j))) ∧
    -- VGTH, VSCT
    (base.vsrc rc = .ok v →
     let w := if m = 1 then 2 else 4
     let a := fun (j : Nat) => b + BitVec.ofNat 64 (vElem 32 v j)
     let act := fun j => j < 64 ∧ on (j * w / 4)
     ((∀ j, act j → base.Readable (a j).toNat w w) → loads (.vgth t rt rb rc m) 6 w act fun j => (a j).toNat) ∧
     ((∀ j, act j → base.Writable (a j).toNat w w) → ∃ x, live.Stored x (((List.range 64).filter fun j =>
         base.mt.getLsbD (j * w / 4) && (List.range 64).all fun i => i ≤ j || !base.mt.getLsbD (i * w / 4) || a i != a j).map
           fun j => ((a j).toNat, w, vElem (8 * w) u j)) ∧
       exec (.vsct t rt rb rc m) s = .next (s.done base slot t x (some 1))) ∧
     (∀ j cause, act j → (∀ i, i < j → act i → base.Writable (a i).toNat w w) → base.AddrFault (a j).toNat w w cause →
       traps (.vgth t rt rb rc m) cause (a j) ∧ traps (.vsct t rt rb rc m) cause (a j))) ∧
    -- VTRP
    (base.src rc = .ok c →
     let cols := if m = 1 then 8 else 16
     let w := if m = 1 then 4 else 2
     let at' : Nat → Nat → Int := fun r col => b.toInt + r * c.toInt + (col * w : Nat)
     let act := fun j => j < 8 * cols ∧ on (j * w / 4)
     let good := fun r => ∀ col, col < cols → act (col * 8 + r) → 0 ≤ at' r col ∧ base.Readable (at' r col).toNat w w
     ((∀ r, r < 8 → good r) → loads (.vtrp t rt rb rc m) 6 w act fun j => (at' (j % 8) (j / 8)).toNat) ∧
     (∀ r, r < 8 → (∀ q, q < r → good q) →
       (∀ col, col < cols → act (col * 8 + r) → at' r col < 0 ∨ ¬base.Inside (at' r col).toNat w →
         traps (.vtrp t rt rb rc m) 0x0A (BitVec.ofInt 64 (at' r 0))) ∧
       (∀ col, col < cols → act (col * 8 + r) →
         (∀ j, j < cols → act (j * 8 + r) → 0 ≤ at' r j ∧ base.Inside (at' r j).toNat w) → (at' r 0) % w ≠ 0 →
         traps (.vtrp t rt rb rc m) 0x0B (BitVec.ofInt 64 (at' r 0))))) ∧
    -- VLDX
    (base.src (rb + 1) = .ok c →
     let ix : Word64 := c + BitVec.ofInt 64 ((lit.elim 0 BitVec.toInt + acc) / 8)
     (on 0 ∨ on 63 → ∀ cause, base.AddrFault ea.toNat 128 128 cause → traps (.vldx t rt rb step lit) cause ea) ∧
     (base.Readable ea.toNat 128 128 → base.Readable ix.toNat 16 16 →
       LandsElems (.vldx t rt rb step lit) s slot base live t rt.toNat 5 16 (fun j => on (j / 2)) fun j =>
         let g := j / 4
         let q := leNat (base.padBytes (ix.toNat + g / 2) 1) / 16 ^ (g % 2) % 16
         if q / 4 = j % 4 then leNat (base.padBytes (ea.toNat + 4 * g + 2) 2)
         else if q % 4 = j % 4 then leNat (base.padBytes (ea.toNat + 4 * g) 2) else 0))

/-! ### The vector unit -/

/-- R31, R46, R47, R180, R183, R189 to R191: the element-wise arithmetic. Under an integer VT each active element is the exact
result modulo 2^w, or clamped with m = 1; under a float VT the exact result with the cases of R46, rounded once by FMT.RM
(RNE for SR), flags FTZI and FTZO applied; under any other VT FORMAT. Inactive elements keep their value. -/
def Obligations.VectorArithmetic : Prop :=
  ∀ (s : State) (k slot : Nat) (base live : Seat) (t : Tag) (d a b : RField) (m : BitVec 1) (x y z : VReg),
    s.Runs k slot base live t → base.vsrc a = .ok x → base.vsrc b = .ok y → base.vsrc d = .ok z →
    let fmt := base.regs.fmt
    let vt := fmt.toNat % 16
    let lands := fun (i : Instr) (lat w : Nat) (f : Nat → Nat) =>
      LandsElems i s slot base live t d.toNat lat w (fun j => base.mt.getLsbD (j * w / 32) = true) f
    (∀ w sg, (vt, w, sg) ∈ intTypes →
      let rd := fun (v : VReg) (j : Nat) => if sg then Int.bmod (vElem w v j) (2 ^ w) else (vElem w v j : Int)
      let out := fun (r : Int) => ((if m = 1 then clampInt w sg r else r) % 2 ^ w).toNat
      lands (.vadd t d a b m) 2 w (fun j => out (rd x j + rd y j)) ∧
      lands (.vsub t d a b m) 2 w (fun j => out (rd x j - rd y j)) ∧
      lands (.vmul t d a b m) 4 w (fun j => out (rd x j * rd y j)) ∧
      lands (.vfma t d a b m) 4 w (fun j => out (rd x j * rd y j + rd z j)) ∧
      lands (.vfms t d a b m) 4 w (fun j => out (rd z j - rd x j * rd y j)) ∧
      lands (.vmin t d a b) 2 w (fun j => if rd x j ≤ rd y j then vElem w x j else vElem w y j) ∧
      lands (.vmax t d a b) 2 w (fun j => if rd x j ≤ rd y j then vElem w y j else vElem w x j) ∧
      lands (.vabs t d a m) 2 w (fun j => out (if rd x j < 0 then -rd x j else rd x j)) ∧
      lands (.vneg t d a m) 2 w (fun j => out (-rd x j))) ∧
    (∀ f, (vt, f) ∈ floatTypes →
      let v := fun (q : VReg) (j : Nat) => decodeFlush (fmt.getLsbD 32) f (vElem f.width q j)
      let code := fmt.toNat / 2 ^ 20 % 8
      let mode := if code = 1 then RMode.rtz else if code = 2 then .rup else if code = 3 then .rdn else .rne
      let dn := code == 3
      let out := fun (r : Ext) => roundFloat f mode 0 (fmt.getLsbD 33) r
      lands (.vadd t d a b m) 2 f.width (fun j => out (Ext.add dn (v x j) (v y j))) ∧
      lands (.vsub t d a b m) 2 f.width (fun j => out (Ext.add dn (v x j) (v y j).neg)) ∧
      lands (.vmul t d a b m) 4 f.width (fun j => out (Ext.mul (v x j) (v y j))) ∧
      lands (.vfma t d a b m) 4 f.width (fun j => out (Ext.add dn (Ext.mul (v x j) (v y j)) (v z j))) ∧
      lands (.vfms t d a b m) 4 f.width (fun j => out (Ext.add dn (v z j) (Ext.mul (v x j) (v y j)).neg)) ∧
      lands (.vmin t d a b) 2 f.width (fun j => out (Ext.minimum (v x j) (v y j))) ∧
      lands (.vmax t d a b) 2 f.width (fun j => out (Ext.maximum (v x j) (v y j))) ∧
      lands (.vabs t d a m) 2 f.width (fun j => out (v x j).abs) ∧
      lands (.vneg t d a m) 2 f.width (fun j => out (v x j).neg)) ∧
    (vt ∉ vectorCodes → ∀ i ∈ [Instr.vadd t d a b m, .vsub t d a b m, .vmul t d a b m, .vfma t d a b m, .vfms t d a b m,
        .vmin t d a b, .vmax t d a b, .vabs t d a m, .vneg t d a m],
      exec i s = .next (s.takeTrap base { cause := 0x23, addr := 0 } slot))

/-- R180, R183, R191, R195, R199: the operations that move bits. The bitwise operations and VMOV ignore VT and act on the active
lanes; VSEL writes every lane; shifts take their amount modulo the width, from each element or from a scalar, and raise
FORMAT under a float VT; VPERM, VBCST, VIOTA, VXS and VSX take width and element count from VT and raise FORMAT outside
R180's table; VXS and VSX ignore the mask. -/
def Obligations.VectorBits : Prop :=
  ∀ (s : State) (k slot : Nat) (base live : Seat) (t : Tag) (d a b : RField) (m : BitVec 1) (x y : VReg) (p q : Word64),
    s.Runs k slot base live t → base.vsrc a = .ok x → base.vsrc b = .ok y →
    let vt := base.regs.fmt.toNat % 16
    let on := fun (i : Nat) => base.mt.getLsbD i = true
    let lanes := fun (i : Instr) (v : VReg) => ∃ mask, (∀ j, j < 2048 → (mask.getLsbD j = true ↔ on (j / 32))) ∧
      exec i s = .next (s.done base slot t (live.landV slot 2 d.toNat v mask) (some 2))
    let lands := fun (i : Instr) (lat w : Nat) (act : Nat → Prop) (f : Nat → Nat) =>
      LandsElems i s slot base live t d.toNat lat w act f
    let traps := fun (i : Instr) => exec i s = .next (s.takeTrap base { cause := 0x23, addr := 0 } slot)
    let wide := fun (w : Nat) => (w = 32 ∧ vt ∈ [0x2, 0x6, 0xC]) ∨ (w = 16 ∧ vt ∈ [0x1, 0x5, 0xA, 0xB])
    lanes (.vand t d a b) (x &&& y) ∧ lanes (.vor t d a b) (x ||| y) ∧ lanes (.vxor t d a b) (x ^^^ y) ∧
    lanes (.vnot t d a) (~~~x) ∧ lanes (.vmov t d a) x ∧
    (∃ v, exec (.vsel t d a b) s = .next (s.done base slot t (live.landV slot 2 d.toNat v (BitVec.allOnes 2048)) (some 2)) ∧
      ∀ i, i < 64 → vElem 32 v i = if base.mt.getLsbD i then vElem 32 x i else vElem 32 y i) ∧
    (∀ w sg, (vt, w, sg) ∈ intTypes → (m = 1 → base.src b = .ok p) →
      let act := fun j => on (j * w / 32)
      let by' := fun j => (if m = 1 then p.toNat else vElem w y j) % w
      lands (.vshl t d a b m) 2 w act (fun j => vElem w x j * 2 ^ by' j % 2 ^ w) ∧
      lands (.vshr t d a b m) 2 w act (fun j => vElem w x j / 2 ^ by' j) ∧
      lands (.vsra t d a b m) 2 w act (fun j => (Int.bmod (vElem w x j) (2 ^ w) / 2 ^ by' j % 2 ^ w).toNat)) ∧
    ((∀ w sg, (vt, w, sg) ∉ intTypes) → traps (.vshl t d a b m) ∧ traps (.vshr t d a b m) ∧ traps (.vsra t d a b m)) ∧
    (∀ w, wide w →
      let n := 2048 / w
      let act := fun j => on (j * w / 32)
      lands (.vperm t d a b m) 3 w act (fun j => if m = 1 ∧ n ≤ vElem w y j then 0 else vElem w x (vElem w y j % n)) ∧
      lands (.vbcstLane t d a b) 2 w act (fun _ => vElem w x b.toNat) ∧
      (base.src a = .ok p → lands (.vbcst t d a) 2 w act (fun _ => p.toNat % 2 ^ w) ∧
        lands (.viota t d a m) 2 w act (fun j => (p.toNat +
          (if m = 1 then (List.range j).countP fun i => base.mt.getLsbD (i * w / 32) else j)) % 2 ^ w)) ∧
      (base.src b = .ok q →
        let e := vElem w x (q.toNat % n)
        exec (.vxs t d a b) s = .next (s.done base slot t (live.landS slot 2 d.toNat
          (if vt = 0x2 ∨ vt = 0x1 then BitVec.ofInt 64 (Int.bmod e (2 ^ w)) else BitVec.ofNat 64 e)) (some 2))) ∧
      (base.src a = .ok p → base.src b = .ok q →
        lands (.vsx t d a b) 2 w (fun j => j = q.toNat % n) (fun _ => p.toNat % 2 ^ w))) ∧
    (vt ∉ vectorCodes → ∀ i ∈ [Instr.vperm t d a b m, .vbcst t d a, .vbcstLane t d a b, .viota t d a m, .vxs t d a b,
      .vsx t d a b], traps i)

/-- R182, R197, R198: the mask stack. A push conjoins the condition with MT on a new entry, or on a full stack raises MASK_UNDERFLOW
with 1 before its condition is formed; MSINV takes the parent without MT; MSPOP goes back, or raises MASK_UNDERFLOW with 0 at depth 1 and leaves the entry
above; MSAND conjoins in place. The condition is per lane, of integers, of floats with a NaN unordered, or from a scalar;
H = 1 under a 32-bit type and a VT outside R180's table raise FORMAT. VPOPC counts. Nothing but the stack changes. -/
def Obligations.MaskStack : Prop :=
  ∀ (s : State) (k slot : Nat) (base live : Seat) (t : Tag) (d a b : RField) (cc : BitVec 3) (h : BitVec 1) (x y : VReg)
    (p : Word64), s.Runs k slot base live t → base.vsrc a = .ok x → base.vsrc b = .ok y →
    live.regs.mask = base.regs.mask → live.regs.depth = base.regs.depth → 1 ≤ base.regs.depth → base.regs.depth ≤ 8 →
    let depth := base.regs.depth
    let mt := base.regs.mask.getD (depth - 1) 0
    let fmt := base.regs.fmt
    let vt := fmt.toNat % 16
    let traps := fun (i : Instr) (c : Nat) (v : Word64) =>
      exec i s = .next (s.takeTrap base { cause := c, addr := v } slot)
    -- the stack after an operation: its depth, and one entry with its new value
    let sets := fun (i : Instr) (n e : Nat) (v : Word64) => ∃ r : Regs,
      exec i s = .next (s.done base slot t { live with regs := r } (some 1)) ∧
      { r with mask := live.regs.mask, depth := live.regs.depth } = live.regs ∧ r.depth = n ∧
      ∀ j, j < 8 → r.mask.getD j 0 = if j = e then v else base.regs.mask.getD j 0
    let elems := fun (w i : Nat) => if w = 32 then i else 2 * i + h.toNat
    -- c is the condition word of the m = 0 forms
    let holds := fun (c : Word64) => cc.toNat < 6 ∧
      ((∃ w sg, (vt, w, sg) ∈ intTypes ∧ ¬(w = 32 ∧ h = 1) ∧ ∀ i, i < 64 →
          (c.getLsbD i = true ↔ IntCond cc.toNat w (vElem w x (elems w i)) (vElem w y (elems w i)))) ∨
       ∃ f, (vt, f) ∈ floatTypes ∧ ¬(f.width = 32 ∧ h = 1) ∧ ∀ i, i < 64 →
          let v := fun q => decodeFlush (fmt.getLsbD 32) f (vElem f.width q (elems f.width i))
          (c.getLsbD i = true ↔ FloatCond cc.toNat (v x) (v y)))
    (∀ c, holds c → depth < 8 → sets (.mspush t cc h a b) (depth + 1) depth (mt &&& c)) ∧
    (depth = 8 → traps (.mspush t cc h a b) 0x08 1 ∧ traps (.mspushScalar t a) 0x08 1) ∧
    (∀ c, holds c → sets (.msand t cc h a b) depth (depth - 1) (mt &&& c)) ∧
    (vt ∉ vectorCodes ∨ (vt ∈ [0x2, 0x6, 0xC] ∧ h = 1) →
      (depth < 8 → traps (.mspush t cc h a b) 0x23 0) ∧ traps (.msand t cc h a b) 0x23 0) ∧
    (base.src a = .ok p →
      (depth < 8 → sets (.mspushScalar t a) (depth + 1) depth (mt &&& p)) ∧
      sets (.msandScalar t a) depth (depth - 1) (mt &&& p)) ∧
    (depth = 1 → sets (.msinv t) depth 0 (~~~mt) ∧ traps (.mspop t) 0x08 0) ∧
    (2 ≤ depth → sets (.msinv t) depth (depth - 1) (base.regs.mask.getD (depth - 2) 0 &&& ~~~mt) ∧
      sets (.mspop t) (depth - 1) 8 0) ∧
    exec (.vpopc t d) s = .next (s.done base slot t (live.landS slot 2 d.toNat
      (BitVec.ofNat 64 ((List.range 64).countP fun i => mt.getLsbD i))) (some 2)) ∧
    exec (.vpopcLanes t d a) s = .next (s.done base slot t (live.landS slot 2 d.toNat
      (BitVec.ofNat 64 ((List.range 64).countP fun i => mt.getLsbD i && vElem 32 x i != 0))) (some 2))

/-- R42 to R49, R180, R192 to R194, R196: VCVT decodes the source part, rounds (in SR mode with a popped word's slices, holding the
tile on an empty queue) and writes the destination part of the active elements; VRED writes element 0 with the exact integer
result or R48's tree, VSCAN every element with the running value; a masked element is the identity. The functions of R196
round by RNE and raise FORMAT under an integer VT; the reciprocals' magnitudes are the exact values truncated to 40 bits. -/
def Obligations.VectorFunctions : Prop :=
  (∀ (s : State) (k slot : Nat) (base live : Seat) (t : Tag) (d a b : RField) (lit : Word32) (x : VReg),
    s.Runs k slot base live t → base.vsrc a = .ok x →
    let fmt := base.regs.fmt
    let vt := fmt.toNat % 16
    let code := fmt.toNat / 2 ^ 20 % 8
    let on := fun (i : Nat) => base.mt.getLsbD i = true
    let traps := fun (i : Instr) => exec i s = .next (s.takeTrap base { cause := 0x23, addr := 0 } slot)
    (let src := lit.toNat % 16
     let dst := lit.toNat / 16 % 16
     let rms := lit.toNat / 2 ^ 8 % 8
     let mode := RMode.ofCode (if rms = 7 then code else rms)
     let sp := lit.toNat / 2 ^ 11 % 4
     let dp := lit.toNat / 2 ^ 13 % 4
     let ok := fun c => c ∉ [0x3, 0x7, 0xD, 0xE, 0xF]
     let cvt := fun (z : BitVec 512) (x0 : Seat) => ∃ val mask,
       IsElems (8 * elemSize dst) (fun j => 64 * dp ≤ j ∧ j < 64 * dp + 64 ∧ on (j - 64 * dp))
         (fun j => roundElem dst mode (z.extractLsb' (8 * (j - 64 * dp)) 8).toNat (fmt.getLsbD 33)
           (decodeElem (fmt.getLsbD 32) src (vElem (8 * elemSize src) x (64 * sp + (j - 64 * dp))))) val mask ∧
       exec (.vcvt t d a lit) s = .next (s.done base slot t (x0.landV slot 3 d.toNat val mask) (some 3))
     (¬(ok src ∧ ok dst) → traps (.vcvt t d a lit)) ∧
     (ok src → ok dst → 64 * (dp + 1) * (8 * elemSize dst) ≤ 2048 →
       (mode ≠ .sr → cvt 0 live) ∧
       (mode = .sr → ∀ z r, live.regs.rbq = z :: r → cvt z { live with regs := { live.regs with rbq := r } }) ∧
       (mode = .sr → live.regs.rbq = [] → exec (.vcvt t d a lit) s = .next (s.takeTrap base holdTile slot)))) ∧
    (∀ w sg, (vt, w, sg) ∈ intTypes →
      let n := 2048 / w
      let rd := fun (j : Nat) => if sg then Int.bmod (vElem w x j) (2 ^ w) else (vElem w x j : Int)
      let vals := fun (m : Nat) => ((List.range m).filter fun j => base.mt.getLsbD (j * w / 32)).map rd
      let least := if sg then -(2 ^ (w - 1) : Int) else 0
      let most := if sg then (2 ^ (w - 1) - 1 : Int) else 2 ^ w - 1
      let best := fun (m : Nat) => ((clampInt w sg (vals m).sum % 2 ^ w).toNat,
        ((vals m).foldl min most % 2 ^ w).toNat, ((vals m).foldl max least % 2 ^ w).toNat)
      let red := fun (f : Nat → Nat) => LandsElems (.vred t d a b) s slot base live t d.toNat 8 w (fun j => j = 0) f
      let scan := fun (f : Nat → Nat) => LandsElems (.vscan t d a b) s slot base live t d.toNat 8 w (fun _ => True) f
      (b = 0 → red (fun _ => (best n).1) ∧ scan (fun j => (best (j + 1)).1)) ∧
      (b = 1 → red (fun _ => (best n).2.1) ∧ scan (fun j => (best (j + 1)).2.1)) ∧
      (b = 2 → red (fun _ => (best n).2.2) ∧ scan (fun j => (best (j + 1)).2.2)) ∧
      (∀ r, r < 2 ^ w → (∀ i, i < w → (r.testBit i = true ↔ ∀ j, j < n → on (j * w / 32) → (vElem w x j).testBit i = true)) →
        b = 3 → red fun _ => r) ∧
      (∀ r, r < 2 ^ w → (∀ i, i < w → (r.testBit i = true ↔ ∃ j, j < n ∧ on (j * w / 32) ∧ (vElem w x j).testBit i = true)) →
        b = 4 → red fun _ => r) ∧
      (∀ r, r < 2 ^ w → (∀ i, i < w → (r.testBit i = true ↔ ((List.range n).countP fun j =>
        base.mt.getLsbD (j * w / 32) && (vElem w x j).testBit i) % 2 = 1)) → b = 5 → red fun _ => r)) ∧
    (∀ f, (vt, f) ∈ floatTypes →
      let w := f.width
      let n := 2048 / w
      let dn := code == 3
      let mode := if code = 1 then RMode.rtz else if code = 2 then .rup else if code = 3 then .rdn else .rne
      let rnd := roundFloat f mode 0 (fmt.getLsbD 33)
      let v := fun j => decodeFlush (fmt.getLsbD 32) f (vElem w x j)
      let vals := fun (j : Nat) => if base.mt.getLsbD (j * w / 32) then some (v j) else none
      let op := fun (p q : Ext) => if b = 0 then Ext.add dn p q else if b = 1 then Ext.minimum p q else Ext.maximum p q
      let unit := if b = 0 then Ext.zero true else if b = 1 then .inf false else .inf true
      let step := redStep op fun e => decodeFloat f (rnd e)
      (b.toNat < 3 →
        LandsElems (.vred t d a b) s slot base live t d.toNat 8 w (fun j => j = 0)
          (fun _ => rnd ((treeAt step vals n.log2 0).getD unit)) ∧
        LandsElems (.vscan t d a b) s slot base live t d.toNat 8 w (fun _ => True)
          (fun j => rnd ((foldAt step vals j).getD unit))) ∧
      (3 ≤ b.toNat → traps (.vred t d a b)) ∧
      (let lands := fun (i : Instr) (lat : Nat) (g : Ext → Ext) =>
         LandsElems i s slot base live t d.toNat lat w (fun j => on (j * w / 32)) fun j =>
           roundFloat f .rne 0 (fmt.getLsbD 33) (g (v j))
       lands (.vrcp t d a) 6 Fun.vrcp ∧ lands (.vrsq t d a) 6 Fun.vrsq ∧ lands (.vexp2 t d a) 6 Fun.vexp2 ∧
       lands (.vlog2 t d a) 6 Fun.vlog2 ∧ lands (.vact t d a b) 8 (Fun.vact b.toNat))) ∧
    (vt ∉ vectorCodes → traps (.vred t d a b) ∧ traps (.vscan t d a b)) ∧
    (vt ∉ [0xA, 0xB, 0xC] → ∀ i ∈ [Instr.vrcp t d a, .vrsq t d a, .vexp2 t d a, .vlog2 t d a, .vact t d a b], traps i)) ∧
  (∀ (n : Bool) (m : Nat) (e : Int), m ≠ 0 →
    (∃ q g, Fun.vrcp (.fin n m e) = .fin n q g ∧ 2 ^ 39 ≤ q ∧ q < 2 ^ 40 ∧
      (q * m : ℚ) * 2 ^ (g + e) ≤ 1 ∧ 1 < ((q + 1) * m : ℚ) * 2 ^ (g + e)) ∧
    (∃ q g, Fun.vrsq (.fin false m e) = .fin false q g ∧ 2 ^ 39 ≤ q ∧ q < 2 ^ 40 ∧
      (q * q * m : ℚ) * 2 ^ (2 * g + e) ≤ 1 ∧ 1 < ((q + 1) * (q + 1) * m : ℚ) * 2 ^ (2 * g + e)) ∧
    Fun.vrsq (.fin true m e) = .nan ∧ Fun.vlog2 (.fin true m e) = .nan) ∧
  (∀ (n : Bool) (e : Int) (i : Nat), i < 2 ^ 15 →
    Fun.vexp2 (.fin n i 0) = .fin false 1 (if n then -(i : Int) else i) ∧
    Fun.vlog2 (.fin false 1 e) = Ext.ofInt e ∧
    Fun.vrcp (.fin n 0 e) = .inf n ∧ Fun.vrcp (.inf n) = .zero n ∧ Fun.vrsq (.fin n 0 e) = .inf n ∧
    Fun.vrsq (.inf false) = .zero false ∧ Fun.vexp2 (.inf true) = .zero false ∧ Fun.vexp2 (.inf false) = .inf false ∧
    Fun.vlog2 (.fin n 0 e) = .inf true ∧ Fun.vlog2 (.inf false) = .inf false ∧
    Fun.vact 0 (.inf true) = .zero false ∧ Fun.vact 0 (.inf false) = .fin false 1 0 ∧ Fun.vact 1 (.inf n) = .fin n 1 0 ∧
    Fun.vact 2 (.inf true) = .zero true ∧ Fun.vact 2 (.inf false) = .inf false ∧
    (∀ f ∈ [Fun.vrcp, Fun.vrsq, Fun.vexp2, Fun.vlog2, Fun.vact 0, Fun.vact 1, Fun.vact 2], f .nan = .nan))

/-! ### The matrix array -/

/-- R59, R201, R202, R205 to R216, R219: MACC, MACS and MSHIFT with a beat take their edges held, from V registers or from the
pads, keep fed edges, and issue a beat that accumulates eight cycles on; MSHIFT moves the rows of the A edge. A bank the seat
does not hold raises BANK_UNALLOTTED; a combination outside R202, another mode or width than the bank's, or the wrong sparse
mode raises FORMAT, and so do a K span that crosses a block, a block whose scale edge is missing and, for an integer beat, a scale
below 127 or 0xFF (of every integer mode, log entry 29); an edge that is pending raises UNDERSIZED_STALL with checking on. A full operand queue holds the tile. A
dead position only arrives and advances kpos, and so does a beat whose predicate is false; a skipping or discarding seat passes it
over and advances kpos. -/
def Obligations.Beats : Prop :=
  (∀ (s : State) (k slot : Nat) (base live : Seat) (t : Tag) (bank : BitVec 2) (a b : RField) (ha hb av bv : BitVec 1)
    (lit : Option Word32) (q : Bank) (r kap : Nat) (mode : BankMode) (sc : BitVec 1024),
    s.Runs k slot base live t → base.id = live.id → base.Quiet → base.mat.banks[bank.toNat]? = some q →
    let fmt := base.regs.fmt
    let at' := (Fmt.atype fmt).toNat
    let spm := Fmt.spm fmt
    let stepA := lit.elim 0 fun l => (l.extractLsb' 0 16).toInt
    let stepB := lit.elim 0 fun l => (l.extractLsb' 16 16).toInt
    let traps := fun (i : Instr) (c : Nat) => exec i s = .next (s.takeTrap base { cause := c, addr := 0 } slot)
    let done := fun (i : Instr) (x : Seat) (lat : Nat) => exec i s = .next (s.done base slot t x (some lat))
    let room := (s.ctx slot base live).queueUse + 1 ≤ 32
    let fits := q.issMode = .unset ∨ (q.issMode = mode ∧ q.issRw = r)
    let macc := Instr.macc t bank a b ha hb av bv lit
    let macs := Instr.macs t bank a b ha hb av bv lit
    let types := BeatTypes at' (Fmt.btype fmt).toNat (Fmt.acm fmt) r kap mode
    (types → base.dead = false → room → fits →
      (spm = 0 ∨ spm = 2 → base.Scales kap r mode sc → ∀ ea eb,
        base.Feeds slot a ha av stepA 128 1024 base.mat.a ea → base.Feeds slot b hb bv stepB 128 1024 base.mat.b eb →
        ∃ x, done macc x 8 ∧ base.Beats live x slot bank.toNat kap r mode false (ea.setWidth 1280) (eb.setWidth 2048) sc ∧
          x.mat.a = ea ∧ x.mat.b = eb ∧ x.mat.sa = live.mat.sa ∧ x.mat.sb = live.mat.sb ∧ x.mat.bitmap = live.mat.bitmap) ∧
      (spm = 1 ∨ spm = 3 → (at' = (Fmt.btype fmt).toNat ∧ at' ∈ [0xA, 0xB]) ∨ (at' ∈ [8, 9] ∧ (Fmt.btype fmt).toNat ∈ [8, 9]) →
        base.Scales (kap * 2) r mode sc → ∀ ea eb,
        ((ha = 1 ∧ ea = base.mat.sa) ∨ (ha = 0 ∧ av = 1 ∧ base.Feeds slot a ha av stepA 128 1280 base.mat.sa ea) ∨
          (ha = 0 ∧ av = 0 ∧ ∃ v i, base.Feeds slot a 0 0 stepA 128 1024 0 v ∧
            base.Feeds slot (a + 1) 0 0 stepA (16 * kap) 256 0 i ∧ ea = BitVec.ofNat 1280 (v.toNat + i.toNat * 2 ^ 1024))) →
        base.Feeds slot b hb bv stepB 256 2048 base.mat.sb eb →
        ∃ x, done macs x 8 ∧ base.Beats live x slot bank.toNat (kap * 2) r mode true ea eb sc ∧
          x.mat.sa = ea ∧ x.mat.sb = eb ∧ x.mat.a = live.mat.a ∧ x.mat.b = live.mat.b ∧ x.mat.bitmap = live.mat.bitmap)) ∧
    ((∀ r k m, ¬BeatTypes at' (Fmt.btype fmt).toNat (Fmt.acm fmt) r k m) → base.dead = false → traps macc 0x23 ∧ traps macs 0x23) ∧
    (types → base.dead = false → ¬room → fits →
      (spm = 0 ∨ spm = 2 → base.Scales kap r mode sc → ∀ ea eb,
        base.Feeds slot a ha av stepA 128 1024 base.mat.a ea → base.Feeds slot b hb bv stepB 128 1024 base.mat.b eb →
        exec macc s = .next (s.takeTrap base holdCycles slot)) ∧
      (spm = 1 ∨ spm = 3 → (at' = (Fmt.btype fmt).toNat ∧ at' ∈ [0xA, 0xB]) ∨ (at' ∈ [8, 9] ∧ (Fmt.btype fmt).toNat ∈ [8, 9]) →
        base.Scales (kap * 2) r mode sc → ∀ ea eb, ha = 1 ∨ av = 1 ∧ base.Feeds slot a ha av stepA 128 1280 base.mat.sa ea →
        base.Feeds slot b hb bv stepB 256 2048 base.mat.sb eb → exec macs s = .next (s.takeTrap base holdCycles slot))) ∧
    (types → base.dead = false → ¬fits → traps macc 0x23 ∧ traps macs 0x23) ∧
    (base.dead = false → (spm = 1 ∨ spm = 3 → traps macc 0x23) ∧ (spm = 0 ∨ spm = 2 → traps macs 0x23)) ∧
    (base.dead = true → types → ∃ x y, done macc x 1 ∧ done macs y 1 ∧
      x.mat.kpos = live.mat.kpos + (if Fmt.scm fmt = 2 then kap else 0) ∧
      y.mat.kpos = live.mat.kpos + (if Fmt.scm fmt = 2 then kap * 2 else 0) ∧
      { x with mat := { x.mat with kpos := live.mat.kpos } } = live ∧ { y with mat := { y.mat with kpos := live.mat.kpos } } = live)) ∧
  (∀ (s : State) (k slot : Nat) (base live : Seat) (t : Tag) (bank : BitVec 2) (a b : RField) (ha hb av bv sv : BitVec 1)
    (lit : Option Word32), s.Runs k slot base live t → base.id = live.id → base.mat.banks[bank.toNat]? = none →
    base.dead = false → ∀ i ∈ [Instr.macc t bank a b ha hb av bv lit, .macs t bank a b ha hb av bv lit, .mshift t bank a b 1 hb sv bv lit],
      exec i s = .next (s.takeTrap base { cause := 0x0C, addr := 0 } slot)) ∧
  (∀ (s : State) (k slot : Nat) (base live : Seat) (t : Tag) (bank : BitVec 2) (a b : RField) (hb bv sv : BitVec 1)
    (lit : Option Word32) (r kap : Nat) (mode : BankMode) (sc : BitVec 1024),
    s.Runs k slot base live t → base.id = live.id → base.Quiet →
    let fmt := base.regs.fmt
    let at' := (Fmt.atype fmt).toNat
    let bt := (Fmt.btype fmt).toNat
    let spm := Fmt.spm fmt
    let stepA := lit.elim 0 fun l => (l.extractLsb' 0 16).toInt
    let stepB := lit.elim 0 fun l => (l.extractLsb' 16 16).toInt
    let traps := fun (i : Instr) => exec i s = .next (s.takeTrap base { cause := 0x23, addr := 0 } slot)
    let done := fun (i : Instr) (x : Seat) (lat : Nat) => exec i s = .next (s.done base slot t x (some lat))
    let room := (s.ctx slot base live).queueUse + 1 ≤ 32
    let fits := fun (q : Bank) => q.issMode = .unset ∨ (q.issMode = mode ∧ q.issRw = r)
    let types := BeatTypes at' bt (Fmt.acm fmt) r kap mode
    let beat := Instr.mshift t bank a b 1 hb sv bv lit
    ((∀ r k m, ¬BeatTypes at' bt (Fmt.acm fmt) r k m) → traps (.mshift t bank a b 0 hb sv bv lit) ∧
      ∀ q, base.mat.banks[bank.toNat]? = some q → base.dead = false → traps beat) ∧
    (∀ q, base.mat.banks[bank.toNat]? = some q → base.dead = false → (types → ¬fits q → traps beat) ∧
      (spm = 1 ∨ spm = 3 → traps beat)) ∧
    (types → ∀ es new eb, es = kap * elemSize at' →
      ((sv = 1 ∧ ∃ v, base.src a = .ok v ∧ new = v.toNat % 2 ^ (8 * es)) ∨ (sv = 0 ∧ ∃ e,
        base.Feeds slot a 0 0 stepA es (8 * es) 0 e ∧ new = e.toNat)) →
      let shifted := fun (e : BitVec 1024) => ∀ i, i < 1024 → e.getLsbD i =
        if i < 8 * es * (r - 1) then base.mat.a.getLsbD (i + 8 * es)
        else if i < 8 * es * r then new.testBit (i - 8 * es * (r - 1)) else base.mat.a.getLsbD i
      (∃ x, done (.mshift t bank a b 0 hb sv bv lit) x 1 ∧ shifted x.mat.a ∧ { x with mat := { x.mat with a := live.mat.a } } = live) ∧
      (∀ q, base.mat.banks[bank.toNat]? = some q → base.dead = false → room → fits q → (spm = 0 ∨ spm = 2) →
        base.Scales kap r mode sc → base.Feeds slot b hb bv stepB 128 1024 base.mat.b eb →
        ∃ x, done beat x 8 ∧ shifted x.mat.a ∧ x.mat.b = eb ∧
          base.Beats live x slot bank.toNat kap r mode false (x.mat.a.setWidth 1280) (eb.setWidth 2048) sc) ∧
      (∀ q, base.mat.banks[bank.toNat]? = some q → base.dead = false → ¬room → fits q → (spm = 0 ∨ spm = 2) →
        base.Scales kap r mode sc → base.Feeds slot b hb bv stepB 128 1024 base.mat.b eb →
        exec beat s = .next (s.takeTrap base holdCycles slot)))) ∧
  (∀ (s : State) (k slot : Nat) (base live : Seat) (t : Tag) (bank : BitVec 2) (a b : RField) (ha hb av bv sv : BitVec 1)
    (lit : Option Word32) (r kap : Nat) (mode : BankMode), s.InSeat k slot base live → base.id = live.id → base.dead = false →
    let fmt := base.regs.fmt
    BeatTypes (Fmt.atype fmt).toNat (Fmt.btype fmt).toNat (Fmt.acm fmt) r kap mode →
    ∀ i n, (i, n) ∈ [(Instr.macc t bank a b ha hb av bv lit, kap), (.macs t bank a b ha hb av bv lit, kap * 2),
        (.mshift t bank a b 1 hb sv bv lit, kap)] →
      let adv : Seat := { live with mat := { live.mat with kpos := live.mat.kpos + (if Fmt.scm fmt = 2 then n else 0) } }
      (base.suppressed = true → exec i s = .next (s.putSeat adv)) ∧
      (base.suppressed = false → (t.r = 1 → (base.slotBar slot).toNat < base.sync.bars.length) → base.predField t.p = .ok false →
        exec i s = .next (s.done base slot t adv (some 1)))) ∧
  (∀ (s : State) (k slot : Nat) (base live : Seat) (t : Tag) (bank : BitVec 2) (a b : RField) (ha hb av bv sv : BitVec 1)
    (lit : Option Word32) (q : Bank) (r kap : Nat) (mode : BankMode), s.Runs k slot base live t → base.id = live.id →
    base.dead = false → base.mat.banks[bank.toNat]? = some q → q.issMode = .unset ∨ (q.issMode = mode ∧ q.issRw = r) →
    let fmt := base.regs.fmt
    let at' := (Fmt.atype fmt).toNat
    let bt := (Fmt.btype fmt).toNat
    let spm := Fmt.spm fmt
    Fmt.scm fmt = 2 → BeatTypes at' bt (Fmt.acm fmt) r kap mode →
    ∀ i n, ((i, n) ∈ [(Instr.macc t bank a b ha hb av bv lit, kap), (.mshift t bank a b 1 hb sv bv lit, kap)] ∧ (spm = 0 ∨ spm = 2)) ∨
        ((i, n) = (Instr.macs t bank a b ha hb av bv lit, kap * 2) ∧ (spm = 1 ∨ spm = 3) ∧
          ((at' = bt ∧ at' ∈ [0xA, 0xB]) ∨ (at' ∈ [8, 9] ∧ bt ∈ [8, 9]))) →
      let block := base.mat.kpos / 32
      let within := (base.mat.kpos + n - 1) / 32 = block
      let missing := ∀ e ∈ base.mat.scales, e.1 ≠ block
      let format := exec i s = .next (s.takeTrap base { cause := 0x23, addr := 0 } slot)
      (¬within → format) ∧
      (within → missing → base.sys.chk = false ∨ (∀ l ∈ base.landings, ∀ v, l.eff ≠ .scale block v) → format) ∧
      (within → missing → base.sys.chk = true → ∀ l v, base.landings = [l] → l.eff = .scale block v →
        exec i s = .next (s.takeTrap base { cause := 0x05, addr := 0, ppc := l.pc, pslot := l.slot } slot)) ∧
      (within → mode ≠ .float → ∀ e, base.mat.scales.find? (fun e => e.1 == block) = some e →
        (∃ j, j < r ∧ ∃ o ∈ [0, 512], (e.2.extractLsb' (o + 8 * j) 8).toNat < 127 ∨ (e.2.extractLsb' (o + 8 * j) 8).toNat = 255) →
        format))

/-- R164, R179, R201, R204, R205, R211, R219, R220: MPUSH sends each edge it loads to its register, from the pads or a V register two cycles
on, from a member seat 24 cycles on by a request (a multicast one for kind 2), raising SCRATCH_ECC for poison and holding the tile
where the operand queue is full. XLDS appends the next scale edge four cycles on, or raises FORMAT where four are held or pending; XCLR empties the queue
and kpos; XADD scales the beat issued five cycles before, raising FORMAT for another scale mode, an exponent outside -1024
to 1023 or an integer beat. -/
def Obligations.EdgesAndScales : Prop :=
  ∀ (s : State) (k slot : Nat) (base live : Seat) (t : Tag) (a b : RField) (step : BitVec 5) (imm : BitVec 7)
    (lit : Option Word32) (y : Seat) (p q : Word64) (ea eb : BitVec 1024),
    s.Runs k slot base live t → base.id = live.id → base.Quiet →
    let stepA := lit.elim 0 fun l => (l.extractLsb' 0 16).toInt
    let stepB := lit.elim 0 fun l => (l.extractLsb' 16 16).toInt
    let acc := base.slotAcc slot
    let done := fun (i : Instr) (x : Seat) (lat : Nat) => exec i s = .next (s.done base slot t x (some lat))
    let traps := fun (i : Instr) (c : Nat) => exec i s = .next (s.takeTrap base { cause := c, addr := 0 } slot)
    (∀ kind v, (kind = 0 ∧ v = 0) ∨ (kind = 3 ∧ v = 1) →
      let fa := base.Feeds slot a 0 v stepA 128 1024 0 ea
      let fb := base.Feeds slot b 0 v stepB 128 1024 0 eb
      (fa → done (.mpush t a b kind 1 0 lit) (live.land slot 2 (.aEdge ea)) 2) ∧
      (fb → done (.mpush t a b kind 0 1 lit) (live.land slot 2 (.bEdge eb)) 2) ∧
      (fa → fb → done (.mpush t a b kind 1 1 lit) ((live.land slot 2 (.aEdge ea)).land slot 2 (.bEdge eb)) 2)) ∧
    (∀ kind, kind = 1 ∨ kind = 2 → base.src a = .ok p → base.src b = .ok q →
      let pa : Word64 := p + BitVec.ofInt 64 (acc * stepA * 128)
      let pb : Word64 := q + BitVec.ofInt 64 (acc * stepB * 128)
      let fits := fun (v : Word64) => v.toNat < 2 ^ 22 ∧ s.clusterSeat base (v.toNat / 2 ^ 19) = some y ∧
        y.Inside (v.toNat % 2 ^ 19) 128 ∧ v.toNat % 128 = 0
      let use := (s.ctx slot base live).queueUse
      let ok := fun (v : Word64) => (s.seenBy live y).Clean (v.toNat % 2 ^ 19) 128 ∧
        (y.id = base.id → base.needRange false (v.toNat % 2 ^ 19, 128) = .ok ())
      (fits pa → ¬(s.seenBy live y).Clean (pa.toNat % 2 ^ 19) 128 → y.id ≠ base.id →
        exec (.mpush t a b kind 1 0 lit) s = .next (s.takeTrap base { cause := 0x22, addr := pa } slot)) ∧
      (fits pa → ok pa → use + 1 ≤ 32 → ∃ x e, (live.landRemote slot 24 0 e (.aEdge 0)).Sends x y.id pa none none
        (.edge (pa.toNat % 2 ^ 19) e (kind == 2)) ∧ done (.mpush t a b kind 1 0 lit) x 24) ∧
      (fits pb → ok pb → use + 1 ≤ 32 → ∃ x e, (live.landRemote slot 24 0 e (.bEdge 0)).Sends x y.id pb none none
        (.edge (pb.toNat % 2 ^ 19) e (kind == 2)) ∧ done (.mpush t a b kind 0 1 lit) x 24) ∧
      (fits pa → fits pb → ok pa → ok pb → use + 2 ≤ 32 → ∃ x0 x e f, e ≠ f ∧ (live.landRemote slot 24 0 e (.aEdge 0)).Sends x0 y.id pa none none
        (.edge (pa.toNat % 2 ^ 19) e (kind == 2)) ∧ (x0.landRemote slot 24 0 f (.bEdge 0)).Sends x y.id pb none none
        (.edge (pb.toNat % 2 ^ 19) f (kind == 2)) ∧ done (.mpush t a b kind 1 1 lit) x 24) ∧
      (fits pa → fits pb → ok pa → ok pb → 32 < use + 2 → exec (.mpush t a b kind 1 1 lit) s = .next (s.takeTrap base holdCycles slot))) ∧
    (base.src a = .ok p →
      let addr := (p + BitVec.ofInt 64 (lit.elim 0 BitVec.toInt + acc)).toNat
      let held := base.mat.scales.length + base.landings.countP fun l => match l.eff with | .scale _ _ => true | _ => false
      (4 ≤ held → traps (.xlds t a step lit) 0x23) ∧
      (held < 4 → base.Streams addr 128 →
        done (.xlds t a step lit) ({ live with mat := { live.mat with nextBlock := base.mat.nextBlock + 1 } }.land slot 4
          (.scale base.mat.nextBlock (BitVec.ofNat 1024 (leNat (base.padBytes addr 128))))) 4)) ∧
    (t.p = 0 → done (.xclr t.o t.r) { live with
      landings := live.landings.filter fun l => match l.eff with | .scale _ _ => false | _ => true
      mat := { live.mat with scales := [], nextBlock := 0, kpos := 0 } } 1) ∧
    (base.src a = .ok p →
      let x := p.toInt + imm.toInt
      let five := fun (l : Landing) => l.issued + 5 = base.cycle
      (Fmt.scm base.regs.fmt ≠ 1 ∨ x < -1024 ∨ 1023 < x → traps (.xadd t a imm) 0x23) ∧
      (Fmt.scm base.regs.fmt = 1 → -1024 ≤ x → x ≤ 1023 →
        (∀ l ∈ base.landings, ∀ bt, five l → l.eff = .beat bt → bt.mode ≠ .float → traps (.xadd t a imm) 0x23) ∧
        ((∀ l ∈ base.landings, ∀ bt, five l → l.eff = .beat bt → bt.mode = .float) →
          ∃ f : Landing → Landing, done (.xadd t a imm) { live with landings := live.landings.map f } 1 ∧
            (∀ l bt, five l → l.eff = .beat bt → f l = { l with eff := .beat { bt with xadd := x } }) ∧
            (∀ l, ¬five l ∨ (∀ bt, l.eff ≠ .beat bt) → f l = l))))

/-- R8, R164, R184, R200, R206 to R208, R215, R217, R218, R221 to R225: the bank operations. A bank the seat does not hold raises
BANK_UNALLOTTED. MDRAIN converts logical row 0 to DF, sends it to V at 6 or to the pads at 10, zeroes the row, moves the head and adds the row to the
drained sums; its place is checked first, then it waits for what its range meets, then poison that it would tear traps (log entry 32);
MCLR clears at 8; MBMAP loads the next bundle's bitmap; MCHK answers its classification, by the first test of R222's table that applies, at 2, or with CKT raises CHECKSUM
after the status, which no earlier result of the bank overwrites; MFIX corrects the one entry that a single failing row and column name, at an exact sum of signed registers (log entries 27 and
29); MSTAT reads at 2. -/
def Obligations.BankOperations : Prop :=
  ∀ (s : State) (k slot : Nat) (base live : Seat) (t : Tag) (bank : BitVec 2) (a b : RField) (h : BitVec 1)
    (lit : Option Word32) (q : Bank) (p u : Word64),
    s.Runs k slot base live t → base.Quiet → live.PadsWf →
    let fmt := base.regs.fmt
    let df := fmt.toNat / 2 ^ 16 % 16
    let done := fun (i : Instr) (x : Seat) (lat : Nat) => exec i s = .next (s.done base slot t x (some lat))
    let traps := fun (i : Instr) (c : Nat) (v : Word64) => exec i s = .next (s.takeTrap base { cause := c, addr := v } slot)
    let changes := fun (x : Seat) (f : Bank → Bank) => ∀ i v, live.mat.banks[i]? = some v →
      x.mat.banks[i]? = some (if i = bank.toNat then f v else v)
    (base.mat.banks.length ≤ bank.toNat → ∀ i ∈ [Instr.mdrain t bank a h lit, .mclr t bank, .mchk t bank, .mfix t bank a b,
      .mstat t bank a b], traps i 0x0C 0) ∧
    (base.mat.banks[bank.toNat]? = some q →
      (let r := if q.mode = .unset then 64 else q.rw
       let n := elemSize df
       let rb := r * n
       let mode := RMode.ofCode (fmt.toNat / 2 ^ 20 % 8)
       let entry := fun (j : Nat) => lookupAcc q.entries (64 * q.h + j)
       let val := fun (ftzi : Bool) (j : Nat) => match q.mode with
         | .unset => Ext.zero false
         | .float => decodeFlush ftzi acc72 (entry j).toNat
         | .int => Ext.ofInt (entry j).toInt
         | .intScaled => (Ext.ofInt (entry j).toInt).scale (-6)
       let out := fun (z : BitVec 512) (j : Nat) =>
         roundElem df mode (z.extractLsb' (8 * j) 8).toNat (fmt.getLsbD 33) (val (fmt.getLsbD 32) j)
       let drained := fun (x0 x : Seat) => ∃ f : Bank → Bank, (∀ i v, x0.mat.banks[i]? = some v →
           x.mat.banks[i]? = some (if i = bank.toNat then f v else v)) ∧
         { x with mat := { x.mat with banks := x0.mat.banks }, landings := x0.landings } = x0 ∧
         ∀ v, v = q → (f v).h = (q.h + 1) % 64 ∧ (f v).ndrn = min (q.ndrn + 1) 64 ∧
           (f v).ovr = (q.ovr || q.ndrn == 64 || decide (64 < q.ndrn)) ∧
           (∀ e, e ∈ (f v).entries ↔ e ∈ q.entries ∧ e.1 / 64 ≠ q.h) ∧ (f v).mode = q.mode ∧ (f v).rw = q.rw ∧
           ((f v).nonFinite = true ↔ q.nonFinite = true ∨ ∃ j, j < r ∧ (val false j).isFinite = false) ∧
           (64 ≤ q.ndrn → (f v).dr = q.dr ∧ (f v).dc = q.dc) ∧
           (q.ndrn < 64 →
             (∀ i, i < 64 → (f v).dr.getD i 0 = if i = q.ndrn then
               rne32 (exactSum (val false 0) ((List.range (r - 1)).map fun j => val false (j + 1))) else q.dr.getD i 0) ∧
             ∀ j, j < 64 → (f v).dc.getD j 0 = if j < r then rne32 (Ext.add false (val32 (q.dc.getD j 0)) (val false j))
               else q.dc.getD j 0)
       let pops := fun (z : BitVec 512) (x0 : Seat) => (mode ≠ .sr ∧ z = 0 ∧ x0 = live) ∨
         (mode = .sr ∧ ∃ rest, live.regs.rbq = z :: rest ∧ x0 = { live with regs := { live.regs with rbq := rest } })
       let i := Instr.mdrain t bank a h lit
       (df = 0xE ∨ (h = 1 ∧ 256 < rb) → traps i 0x23 0) ∧
       (df ≠ 0xE → (h = 1 → rb ≤ 256) → mode = .sr → live.regs.rbq = [] → exec i s = .next (s.takeTrap base holdTile slot)) ∧
       (df ≠ 0xE → df ≠ 0xF → 0 < r → r ≤ 64 → ∀ z x0, pops z x0 →
         (h = 1 → rb ≤ 256 → ∃ x val mask, done i x 6 ∧ drained x0 x ∧ IsElems (8 * n) (fun j => j < r) (out z) val mask ∧
           x.landings = (x0.landV slot 6 a.toNat val mask).landings) ∧
         (h = 0 → base.src a = .ok p →
           let at' := p + BitVec.ofInt 64 (base.slotAcc slot * (lit.elim 0 fun l => (l.extractLsb' 0 16).toInt) * rb)
           let ea := at'.toNat
           let placed := base.Inside ea rb ∧ ea % min rb 256 = 0
           let owned := base.pads.owner.getD (ea / 4096) .thread = .thread ∧ base.pads.owner.getD ((ea + rb - 1) / 4096) .thread = .thread
           let torn := ∃ g ∈ base.pads.poison, 64 * g < ea + rb ∧ ea < 64 * g + 64 ∧ (64 * g < ea ∨ ea + rb < 64 * g + 64)
           (∀ c, base.AddrFault ea rb (min rb 256) c → traps i c at') ∧
           (placed → ¬owned → traps i 0x09 at') ∧
           (∀ e, placed → owned → base.needRange true (ea, rb) = .error e → exec i s = .next (s.takeTrap base e slot)) ∧
           (placed → owned → base.needRange true (ea, rb) = .ok () → torn → traps i 0x22 at') ∧
           (placed → owned → base.needRange true (ea, rb) = .ok () → ¬torn →
             ∃ x bs, done i x 10 ∧ drained x0 x ∧ x.landings = (x0.land slot 10 (.pad ea bs)).landings ∧ bs.length = rb ∧
               ∀ j, j < r → leNat ((bs.drop (n * j)).take n) = out z j % 2 ^ (8 * n))))) ∧
      (∃ x, done (.mclr t bank) x 8 ∧ x.landings = (live.land slot 8 (.clearBank bank.toNat)).landings ∧
        changes x (fun v => { v with issMode := .unset, issRw := 0 }) ∧
        { x with mat := { x.mat with banks := live.mat.banks }, landings := live.landings } = live) ∧
      (let r := q.classify (fmt.toNat / 2 ^ 30 % 4)
       (¬(fmt.getLsbD 29 = true ∧ r.cls = 2) → done (.mchk t bank) (live.land slot 2 (.check bank.toNat r)) 2) ∧
       (fmt.getLsbD 29 = true → r.cls = 2 → ∃ x, done (.mchk t bank) x 2 ∧ changes x (fun v => v.checked r) ∧
         x.after = some ({ cause := 0x1A, addr := BitVec.ofNat 64 (lowestBit r.cols * 2 ^ 8 + lowestBit r.rows) }, slot) ∧
         x.landings = live.landings.filter (fun l => match l.eff with | .check b _ => b != bank.toNat | _ => true) ∧
         x.regs = live.regs ∧ x.pads = live.pads)) ∧
      (∀ gam, gam < 4 →
       let c := q.classify gam
       let r := if q.mode = .unset then 64 else q.rw
       let unchecked := fun (why : Nat) => c.cls = 3 ∧ c.why = why ∧ c.rows = 0 ∧ c.cols = 0 ∧
         ∀ i, i < 64 → c.kr.getD i 0 = 0 ∧ c.kc.getD i 0 = 0
       let endless := ∃ v ∈ [q.cc, q.rc, q.mc, q.mr, q.dr, q.dc], ∃ i n, i < 64 ∧ val32 (v.getD i 0) = .inf n
       let part := fun (d k m key : Word32) (failed : Bool) => key = rne32 (Ext.add false (val32 d) (val32 k).neg) ∧
         (failed = true ↔ Ext.lt ((val32 m).scale (([-12, -8, -16, -20] : List Int).getD gam 0)) (val32 key).abs = true)
       (q.mode = .int ∨ q.mode = .intScaled → unchecked 4) ∧
       (q.mode = .unset ∨ q.mode = .float →
         (q.unck = true → unchecked 5) ∧ (q.unck = false →
         (q.ovr = true → unchecked 6) ∧ (q.ovr = false →
         (q.ndrn < r → unchecked 3) ∧ (r ≤ q.ndrn →
         (q.nonFinite = true → unchecked 1) ∧ (q.nonFinite = false →
         (endless → unchecked 2) ∧ (¬endless → r ≤ 64 →
           c.why = 0 ∧ c.cls = (if c.rows = 0 ∧ c.cols = 0 then 1 else 2) ∧
           (∀ i, i < r → part (q.dr.getD i 0) (q.rc.getD i 0) (q.mr.getD i 0) (c.kr.getD i 0) (c.rows.getLsbD i) ∧
             part (q.dc.getD i 0) (q.cc.getD i 0) (q.mc.getD i 0) (c.kc.getD i 0) (c.cols.getLsbD i)) ∧
           ∀ i, r ≤ i → i < 64 → c.kr.getD i 0 = 0 ∧ c.kc.getD i 0 = 0 ∧ c.rows.getLsbD i = false ∧ c.cols.getLsbD i = false))))))) ∧
      (∀ c : CheckResult, ∃ row col, q.checked c = { q with
          cls := c.cls, why := c.why, rows := c.rows, cols := c.cols, frow := row, fcol := col, kr := c.kr, kc := c.kc, fix := false } ∧
        ∀ m n, (m, n) ∈ [(c.rows, row), (c.cols, col)] →
          (m = 0 → n = 0xFF) ∧ (m ≠ 0 → m.getLsbD n = true ∧ ∀ i, i < n → m.getLsbD i = false)) ∧
      (base.src a = .ok p → base.src b = .ok u →
        let n := elemSize df
        let single := q.cls = 2 ∧ ((List.range 64).countP fun i => q.rows.getLsbD i) = 1 ∧
          ((List.range 64).countP fun i => q.cols.getLsbD i) = 1 ∧ q.fix = false
        let sum : Int := p.toInt + q.frow * u.toInt + q.fcol * n
        let ea := BitVec.ofInt 64 sum
        let i := Instr.mfix t bank a b
        (df = 0xE → traps i 0x23 0) ∧
        (df ≠ 0xE → ¬single → done i live 1) ∧
        (df ≠ 0xE → single → sum < 0 ∨ ¬base.Inside sum.toNat n → traps i 0x0A ea) ∧
        (df ≠ 0xE → single → 0 ≤ sum → base.Inside sum.toNat n → sum % n ≠ 0 → traps i 0x0B ea) ∧
        (df ≠ 0xE → df ≠ 0xF → single → 0 ≤ sum → base.Writable sum.toNat n n →
          ∃ x, done i x 1 ∧ changes x (fun v => { v with fix := true, cls := 1 }) ∧
            live.Stored { x with mat := live.mat } [(sum.toNat, n, roundElem df .rne 0 (fmt.getLsbD 33)
              (Ext.add false (decodeElem false df (leNat (base.padBytes sum.toNat n)))
                (decodeFloat binary32 (q.kr.getD q.frow 0).toNat).neg) % 2 ^ (8 * n))])) ∧
      (let bit := fun (c : Bool) (j : Nat) => if c then 2 ^ j else 0
       let pop := fun (m : Word64) => (List.range 64).countP fun i => m.getLsbD i
       let code := match q.mode with | .unset => 0 | .float => 1 | .int => 2 | .intScaled => 3
       let width := if q.rw = 64 then 1 else if q.rw = 32 then 2 else if q.rw = 16 then 3 else 0
       let reads := fun (sel : Nat) (v : Word64) => b.toNat = sel → done (.mstat t bank a b) (live.landS slot 2 a.toNat v) 2
       reads 0 (BitVec.ofNat 64 (bit q.ovr 50 + bit q.fix 49 + q.ndrn * 2 ^ 42 + width * 2 ^ 40 + q.fcol * 2 ^ 32 +
         q.frow * 2 ^ 24 + pop q.cols * 2 ^ 16 + pop q.rows * 2 ^ 8 + q.cls * 2 ^ 6 + q.why * 2 ^ 3 + bit q.sat 2 + code)) ∧
       reads 1 q.rows ∧ reads 2 q.cols ∧
       (q.frow < 64 → q.fcol < 64 → reads 3 (BitVec.ofNat 64 ((q.kc.getD q.fcol 0).toNat * 2 ^ 32 + (q.kr.getD q.frow 0).toNat))) ∧
       (q.frow = 0xFF → q.fcol = 0xFF → reads 3 0))) ∧
    (∀ addr, (h = 0 ∧ base.src a = .ok addr) ∨ (h = 1 ∧ ∃ r, base.hsrc a.toNat = .ok r ∧ addr = (hField r 12).setWidth 64) →
      (base.Streams addr.toNat 64 → done (.mbmap t a h)
        { live with mat := { live.mat with bitmapNext := some (BitVec.ofNat 512 (leNat (base.padBytes addr.toNat 64))) } } 1) ∧
      ∀ c, base.AddrFault addr.toNat 64 64 c → traps (.mbmap t a h) c addr)

/-- R34, R37, R39, R40, R202, R207, R208, R213, R221: a beat accumulates. In float mode each entry it names takes the exact sum of its
old value and all products, rounded once; in integer mode the saturating integer sum, a product that its shift saturates
setting the sticky flag too, and so does a sum that is clamped; the products of an integer beat are those of its operands, a DSW8
weight counting 64 times its value, shifted left by the block scales; cells outside the row width and
other rows keep theirs, and a beat with CKE adds its cell sums to the checksums. The products of a dense beat are those of
R201's layout, of a 2:4 beat those of R214's. -/
def Obligations.BeatArithmetic : Prop :=
  (∀ (q : Bank) (b : Beat), (q.entries.map (·.1)).Pairwise (· < ·) →
    let x := q.accumulate b
    let at' := fun i j => 64 * ((b.h + i) % 64) + j
    x.mode = b.mode ∧ x.rw = b.width ∧ x.h = q.h ∧
    (∀ i j, i < b.width → j < b.width → lookupAcc x.entries (at' i j) =
      if b.mode = .float then BitVec.ofNat 72 (roundFloat acc72 .rne 0 false
        (exactSum (decodeFloat acc72 (lookupAcc q.entries (at' i j)).toNat) (b.products i j)))
      else BitVec.ofInt 72 (max (-2 ^ 71) (min (2 ^ 71 - 1) ((lookupAcc q.entries (at' i j)).toInt + (b.intProducts i j).sum)))) ∧
    x.unck = (q.unck || !b.cke) ∧
    (∀ e, (∀ i j, i < b.width → j < b.width → e ≠ at' i j) → lookupAcc x.entries e = lookupAcc q.entries e) ∧
    (b.cke = true → b.mode = .float → ∀ j, j < b.width →
      let sums := fun (f : Nat → Ext) => (List.range b.width).map f
      x.cc.getD j 0 = rne32 (exactSum (val32 (q.cc.getD j 0)) (sums fun i => b.cellSum i j)) ∧
      x.rc.getD j 0 = rne32 (exactSum (val32 (q.rc.getD j 0)) (sums fun i => b.cellSum j i)) ∧
      x.mc.getD j 0 = rne32 (exactSum (val32 (q.mc.getD j 0)) (sums fun i => (b.cellSum i j).abs)) ∧
      x.mr.getD j 0 = rne32 (exactSum (val32 (q.mr.getD j 0)) (sums fun i => (b.cellSum j i).abs))) ∧
    (b.cke = false ∨ b.mode ≠ .float → x.cc = q.cc ∧ x.rc = q.rc ∧ x.mc = q.mc ∧ x.mr = q.mr) ∧
    (q.sat = true → x.sat = true) ∧
    (b.mode = .float → x.sat = q.sat) ∧
    (b.mode ≠ .float → (x.sat = true ↔ q.sat = true ∨ ∃ i j, i < b.width ∧ j < b.width ∧
      let beyond := fun (v : Int) => v < -2 ^ 71 ∨ 2 ^ 71 - 1 < v
      ((∃ v ∈ b.intShifted i j, beyond v) ∨ beyond ((lookupAcc q.entries (at' i j)).toInt + (b.intProducts i j).sum))))) ∧
  (∀ (b : Beat) (i j : Nat),
    let operand := fun (code bits : Nat) (v : Int) => (code = 0 ∧ v = Int.bmod bits (2 ^ 8)) ∨ (code = 4 ∧ v = bits) ∨
      (code = 0xE ∧ ∃ u w : Int, v = u + w ∧
        (∀ c y, (c, y) ∈ [(bits / 16, u), (bits, w)] →
          (c % 8 = 7 → y = 0) ∧ (c % 8 ≠ 7 → y = (if c / 8 % 2 = 1 then -1 else 1) * 2 ^ (6 - c % 8))))
    let wide := fun (x : Int) => max (-2 ^ 71) (min (2 ^ 71 - 1) x)
    (∀ c ∈ [b.atype, b.btype], c ∈ [0, 4, 0xE]) → (∀ p ∈ b.pairs i j, p.1 < 2 ^ 8 ∧ p.2 < 2 ^ 8) →
    b.intProducts i j = (b.intShifted i j).map wide ∧
    ∃ f : Nat × Nat → Int, b.intShifted i j = (b.pairs i j).map f ∧ ∀ p ∈ b.pairs i j, ∃ u w,
      operand b.atype.toNat p.1 u ∧ operand b.btype.toNat p.2 w ∧
      let e := fun (o : Nat) => (b.scales.extractLsb' o 8).toNat
      f p = if b.scaled = true then u * w * 2 ^ (e (8 * i) - 127 + (e (512 + 8 * j) - 127)) else u * w) ∧
  (∀ (b : Beat) (i j : Nat), i < 64 → j < 64 → b.sparse = false →
    let ca := b.atype.toNat
    let cb := b.btype.toNat
    ((ca = cb ∧ (ca = 0xA ∨ ca = 0xB)) →
      b.pairs i j = [((b.a.extractLsb' (16 * i) 16).toNat, (b.b.extractLsb' (16 * j) 16).toNat)]) ∧
    (ca = 0xC → cb = 0xC → b.pairs i j = [((b.a.extractLsb' (32 * i) 32).toNat, (b.b.extractLsb' (32 * j) 32).toNat)]) ∧
    (ca = 0xD → cb = 0xD → b.pairs i j = [((b.a.extractLsb' (64 * i) 64).toNat, (b.b.extractLsb' (64 * j) 64).toNat)]) ∧
    (ca = 0xA → cb = 0xE → b.pairs i j =
      [((b.a.extractLsb' (16 * i) 16).toNat, (b.b.extractLsb' (8 * j) 8).toNat)]) ∧
    (((ca = 8 ∨ ca = 9) ∧ (cb = 8 ∨ cb = 9)) ∨ ((ca = 0 ∨ ca = 4) ∧ (cb = 0 ∨ cb = 4)) ∨
        (ca = 0xE ∧ cb ∈ [0, 4, 8, 9]) ∨ (cb = 0xE ∧ ca ∈ [0, 4, 8, 9]) → b.pairs i j =
      [((b.a.extractLsb' (16 * i) 8).toNat, (b.b.extractLsb' (16 * j) 8).toNat),
       ((b.a.extractLsb' (16 * i + 8) 8).toNat, (b.b.extractLsb' (16 * j + 8) 8).toNat)]) ∧
    (ca = 0xE → cb = 0xA → b.pairs i j =
      [((b.a.extractLsb' (8 * i) 8).toNat, (b.b.extractLsb' (16 * j) 16).toNat)])) ∧
  (∀ (b : Beat) (i j : Nat), i < 64 → j < 64 → b.sparse = true → b.atype = b.btype → (b.atype = 0xA ∨ b.atype = 0xB) →
    let slot := fun (kk t : Nat) => (b.a.extractLsb' (16 * (kk * 32 + 2 * (i / 4) + t)) 16).toNat
    let col := fun (kk : Nat) => (b.b.extractLsb' (1024 * kk + 16 * j) 16).toNat
    let nib := fun (kk t : Nat) => (b.a.extractLsb' (1024 + 4 * (kk * 16 + i / 4) + 2 * t) 2).toNat
    let term := fun (kk : Nat) => if nib kk 1 = i % 4 then [(slot kk 1, col kk)]
      else if nib kk 0 = i % 4 then [(slot kk 0, col kk)] else []
    b.pairs i j = term 0 ++ term 1) ∧
  (∀ (b : Beat) (i j : Nat), i < 64 → j < 64 → b.sparse = true → (b.atype = 8 ∨ b.atype = 9) → (b.btype = 8 ∨ b.btype = 9) →
    let slot := fun (kk t : Nat) => (b.a.extractLsb' (8 * (kk * 32 + 2 * (i / 4) + t)) 8).toNat
    let col := fun (kk : Nat) => (b.b.extractLsb' (8 * (kk * 64 + j)) 8).toNat
    let nib := fun (kk t : Nat) => (b.a.extractLsb' (1024 + 4 * (kk * 16 + i / 4) + 2 * t) 2).toNat
    let term := fun (kk : Nat) => if nib kk 1 = i % 4 then [(slot kk 1, col kk)]
      else if nib kk 0 = i % 4 then [(slot kk 0, col kk)] else []
    b.pairs i j = term 0 ++ term 1 ++ term 2 ++ term 3) ∧
  (∀ (b : Beat) (i j : Nat), b.products i j = (b.pairs i j).map fun p =>
    let x := Ext.mul (decodeElem false b.atype.toNat p.1) (decodeElem false b.btype.toNat p.2)
    (if b.scaled then Ext.mul (Ext.mul x (e8m0 (b.scales.extractLsb' (8 * i) 8).toNat))
      (e8m0 (b.scales.extractLsb' (512 + 8 * j) 8).toNat) else x).scale b.xadd)

/-! ### Lattice operations -/

/-- R61, R228, R280, R303, R304, R310 to R315, R295: LJOIN, LSTM and LINC send their operand to the unit; LLD and LWAIT take a
command entry, keep deposit address, semaphore, threshold and deadline, and send a request. The checks of R311 that are made in
the tile come in its order. At 16 posted operations the tile is held. -/
def Obligations.LatticeOperations : Prop :=
  ∀ (s : State) (k slot : Nat) (base live : Seat) (t : Tag) (rt rb : RField) (step : BitVec 5) (lit : Option Word32) (l : Word32)
    (b v thr : Word64), s.Runs k slot base live t → base.id = live.id → base.src rb = .ok b → base.src rt = .ok v →
    let acc := base.slotAcc slot
    let ea : Word64 := b + BitVec.ofInt 64 (lit.elim 0 BitVec.toInt + acc)
    let wa : Word64 := b + BitVec.ofInt 64 ((l.extractLsb' 0 20).toInt + acc)
    let arr := if t.r = 1 then some (base.slotBar slot).toNat else none
    let traps := fun (i : Instr) (c : Nat) (a : Word64) => exec i s = .next (s.takeTrap base { cause := c, addr := a } slot)
    let inLattice := fun (a : Word64) (r : Region) => ∃ e i j, base.extent a.toNat = some e ∧ e.kind = 2 ∧
      s.cellAt base a.toNat = some (r, i, j)
    let nan := fun (w : Word64) => decodeFloat binary64 w.toNat = .nan
    let sends := fun (i : Instr) (op : Nat) (stamp : Option Nat) => ∃ x, exec i s = .next (s.done base slot t x none) ∧
      live.Sends x live.id ea arr stamp (.lattice op ea.toNat v)
    let posts := [(Instr.ljoin t rt rb step lit, 0x1D), (Instr.lstm t rt rb step lit, 0x1E), (Instr.linc t rt rb step lit, 0x1F)]
    let free := (s.ctx slot base live).posted < 16 ∧ live.releasePending = false
    let sc := Instr.ljoinSc t rt rb step lit
    (∀ r, inLattice ea r → ea.toNat % 8 = 0 →
      (¬(r.type = 3 ∧ nan v) → free →
        sends (.ljoin t rt rb step lit) 0x1D none ∧ sends (.lstm t rt rb step lit) 0x1E none ∧
        (base.sync.wheelCnt ≠ 0 → sends sc 0x1D base.sync.scStamps.head?)) ∧
      (r.type = 6 → ea.toNat % 64 = 0 → free → sends (.linc t rt rb step lit) 0x1F none) ∧
      (r.type = 3 → nan v → traps (.ljoin t rt rb step lit) 0x15 ea ∧ traps (.lstm t rt rb step lit) 0x15 ea) ∧
      (r.type ≠ 6 → traps (.linc t rt rb step lit) 0x15 ea) ∧
      (r.type = 6 → ea.toNat % 64 ≠ 0 → traps (.linc t rt rb step lit) 0x0B ea) ∧
      (r.type = 6 → ea.toNat % 64 = 0 → 16 ≤ (s.ctx slot base live).posted → ∀ p ∈ posts,
        exec p.1 s = .next (s.takeTrap base holdTile slot))) ∧
    (∀ r, inLattice ea r → ea.toNat % 8 ≠ 0 → ∀ p ∈ posts, traps p.1 0x0B ea) ∧
    ((∀ e, base.extent ea.toNat = some e → e.kind ≠ 2) → ∀ p ∈ posts, traps p.1 0x0F ea) ∧
    (base.sync.wheelCnt = 0 → traps sc 0x20 0) ∧
    (base.src (rt + 1) = .ok thr →
      let sem := l.toNat / 2 ^ 20 % 64
      let tmo := l.toNat / 2 ^ 26
      let ops := [Instr.lld t rt rb step l, Instr.lwait t rt rb step l]
      (base.copy.quota = 0 → ∀ i ∈ ops, traps i 0x21 0) ∧
      (base.copy.quota ≠ 0 → base.sync.sems.length ≤ sem → ∀ i ∈ ops, traps i 0x02 0) ∧
      (base.copy.quota ≠ 0 → sem < base.sync.sems.length →
        ((∀ e, base.extent wa.toNat = some e → e.kind ≠ 2) → ∀ i ∈ ops, traps i 0x0F wa) ∧
        (∀ r, inLattice wa r →
          let n := if r.type = 6 then 80 else 16
          let unit := if r.type = 6 then 64 else 8
          (¬base.Inside v.toNat n → ∀ i ∈ ops, traps i 0x0A v) ∧
          (base.Inside v.toNat n → wa.toNat % unit ≠ 0 → ∀ i ∈ ops, traps i 0x0B wa) ∧
          (base.Inside v.toNat n → wa.toNat % unit = 0 → v.toNat % 16 ≠ 0 → ∀ i ∈ ops, traps i 0x0B v) ∧
          (base.Inside v.toNat n → wa.toNat % unit = 0 → v.toNat % 16 = 0 →
            (r.type = 3 → nan thr → traps (.lwait t rt rb step l) 0x15 wa) ∧
            (live.entriesUsed + 1 ≤ live.copy.quota → live.releasePending = false →
              let starts := fun (i : Instr) (lld : Bool) (th : Word64) => ∃ (w : Wait) (x : Seat),
                exec i s = .next (s.done base slot t x none) ∧
                ({ live with copy := { live.copy with waits := live.copy.waits ++ [w] } } : Seat).Sends x live.id wa none none
                  (.watch w.id) ∧
                w.va = wa.toNat ∧ w.pad = v.toNat ∧ w.sem = sem ∧ w.lld = lld ∧ w.thr = th ∧ w.size = n ∧ w.arr = arr ∧
                w.deadline = (if tmo = 0 then 0 else s.chorus + 2 ^ tmo) ∧ w.watching = false ∧ w.deposit = none ∧
                w.lto = base.regs.fmt.getLsbD 34
              starts (.lld t rt rb step l) true 0 ∧ (¬(r.type = 3 ∧ nan thr) → starts (.lwait t rt rb step l) false thr))))))

/-- R51, R303, R306 to R309, R311, R313 to R315: at the unit, once the seat's earlier CPYL joins are made (log entry 25): LJOIN joins, LSTM stores a rise or raises NONMONOTONE, LINC counts
up at the slot of the die pair, each at the replica of the seat's own die pair; a refused table raises ACCESS, a poisoned cell
POISON; every rise marks the cell for every round. An LLD reads, an LWAIT deposits where its threshold is passed and else
watches; a deposit waits for the pads, then is written and signals, or ends with SCRATCH_ECC where it would write part of a poisoned
granule (log entry 28), or with ACCESS where the port's table refuses it (log entry 31); every rise of a cell tests the open watches
on it again; a watch at its deadline deposits with ST = 2. A deposit holds the cell, for GCNT the sum of its counts too, and ST; a
cell passes when it is at or above the threshold. A round sends what is marked to the partner and clears the
marks, or, where the partner's table refuses, tells the scheduler; the receiver joins. join is the least upper bound of leq. -/
def Obligations.LatticeUnit : Prop :=
  (∀ (s : State) (i : Nat) (m : Msg) (x : Seat), s.msgs[i]? = some m → m.stamp = none → s.seat? m.src = some x →
    x.joinsFirst m.cycle = false → (∀ q ∈ s.msgs.take i, ¬(q.src = m.src ∧ q.toUnit = true)) →
    (∀ c ∈ s.cells, c.region < 64 ∧ c.idx < 2 ^ 16) →
    let left := { s with msgs := s.msgs.filter (·.serial != m.serial) }
    (∀ op va v r c slot, m.body = .lattice op va v → s.cellAt x va = some (r, c, slot) → r.num < 64 → c < 2 ^ 16 →
      let allowed := s.allows (some (.lattice x.die)) x.id true false = true
      let bad := (x.die, r.num, c) ∈ s.cellPoison
      let old := s.cell x.die r c
      let fails := fun cause => m.arr = none →
        Happens (.latticeOpArrival i) s (left.putSeat (x.latch cause m.slot m.pc m.ea))
      let becomes := fun (v : BitVec 512) => ∃ t, Happens (.latticeOpArrival i) s t ∧ t.cell x.die r c = v ∧ t.msgs = left.msgs ∧
        t.gangs = s.gangs ∧ t.hbm = s.hbm ∧
        (∀ d (q : Region) j, (d, q.num, j) ≠ (x.die, r.num, c) → t.cell d q j = s.cell d q j) ∧
        (∀ y u q sl, s.seat? y.id = some y → y.id ≠ x.id ∨ m.arr = none → y.die = x.die → y.copy.waits = [u] → u.watching = true →
          s.cellAt y u.va = some (q, c, sl) → q.num = r.num →
          t.seat? y.id = some (if v ≠ old ∧ passes r.type u.thr v = true then s.deposit y u (depositBytes r.type 1 v) else y)) ∧
        (v ≠ old → ∀ n, n < s.rounds x.die → (x.die, n, r.num, c) ∈ t.marks)
      (¬allowed → fails 0x11) ∧ (allowed → bad → fails 0x13) ∧
      (allowed → ¬bad →
        (op = 0x1D → r.type ≠ 6 → becomes (joinCell r.type old (v.setWidth 512))) ∧
        (op = 0x1D → r.type = 6 → becomes (joinCell 6 old (setSlot 0 slot v))) ∧
        (op = 0x1E → r.type ≠ 6 → leq64 r.type (cellLane old 0) v = true → becomes (v.setWidth 512)) ∧
        (op = 0x1E → r.type ≠ 6 → leq64 r.type (cellLane old 0) v = false → fails 0x14) ∧
        (op = 0x1E → r.type = 6 → (cellLane old slot).toNat ≤ v.toNat → becomes (setSlot old slot v)) ∧
        (op = 0x1E → r.type = 6 → v.toNat < (cellLane old slot).toNat → fails 0x14) ∧
        (op = 0x1F → becomes (setSlot old x.die
          (BitVec.ofNat 64 (min ((cellLane old x.die).toNat + v.toNat) (2 ^ 64 - 1))))))) ∧
    (∀ w r c slot, m.body = .watch w.id → x.copy.waits = [w] → s.cellAt x w.va = some (r, c, slot) →
      let v := s.cell x.die r c
      let allowed := s.allows (some (.lattice x.die)) x.id false true = true
      let bad := (x.die, r.num, c) ∈ s.cellPoison
      let leaves := fun (l : List Wait) => ({ x with copy := { x.copy with waits := l } } : Seat)
      (¬allowed → Happens (.latticeOpArrival i) s (left.putSeat ((leaves []).latch 0x11 w.slot w.pc (BitVec.ofNat 64 w.va)))) ∧
      (allowed → bad → Happens (.latticeOpArrival i) s (left.putSeat ((leaves []).latch 0x13 w.slot w.pc (BitVec.ofNat 64 w.va)))) ∧
      (allowed → ¬bad → w.lld = true → Happens (.latticeOpArrival i) s
        (left.putSeat (leaves [{ w with deposit := some (depositBytes r.type 0 v) }]))) ∧
      (allowed → ¬bad → w.lld = false → passes r.type w.thr v = false → Happens (.latticeOpArrival i) s
        (left.putSeat (leaves [{ w with watching := true }]))) ∧
      (allowed → ¬bad → w.lld = false → passes r.type w.thr v = true → Happens (.latticeOpArrival i) s
        (left.putSeat (left.deposit x w (depositBytes r.type 1 v)))))) ∧
  (∀ (s : State) (i k : Nat) (w : Wait) (x : Seat), s.waits[i]? = some (k, w) → s.seat? k = some x → x.PadsWf →
    (∀ bs, w.deposit = some bs → w.arr = none →
      let allowed := s.allows (some (.port x.die x.tile)) (0x4800 + x.die) true false = true
      (x.engineOwned w.pad bs.length = true → x.depositClear w bs.length = true → ¬allowed → Happens (.lldDeposit i) s (s.putSeat
        (({ x with copy := { x.copy with waits := x.copy.waits.filter (·.id != w.id) } } : Seat).latch 0x11 w.slot w.pc
          (BitVec.ofNat 64 w.va)))) ∧
      (x.engineOwned w.pad bs.length = true → x.depositClear w bs.length = true → allowed → x.copy.waits = [w] →
        x.partialPoison (cellsAt w.pad bs) = false → ∃ y, Happens (.lldDeposit i) s (s.putSeat y) ∧ y.padBytes w.pad bs.length = bs ∧ y.copy.waits = [] ∧
          x.SemPlus y w.sem 1 ∧ ∀ q, q < w.pad ∨ w.pad + bs.length ≤ q → Mem.byte y.pads.bytes q = Mem.byte x.pads.bytes q) ∧
      (x.engineOwned w.pad bs.length = true → x.depositClear w bs.length = true → allowed →
        x.partialPoison (cellsAt w.pad bs) = true → Happens (.lldDeposit i) s (s.putSeat
          (({ x with copy := { x.copy with waits := x.copy.waits.filter (·.id != w.id) } } : Seat).latch 0x22 w.slot w.pc
            (BitVec.ofNat 64 w.pad)))) ∧
      (x.engineOwned w.pad bs.length = false → Happens (.lldDeposit i) s s)) ∧
    (∀ bs, (x.engineOwned w.pad bs.length = true → x.depositClear w bs.length = true →
        ∀ u, w.deposit = some bs → u = s.deposit x w bs → Happens (.lldDeposit i) s (s.putSeat u)) ∧
      (x.engineOwned w.pad bs.length = false ∨ x.depositClear w bs.length = false → x.copy.waits = [w] →
        s.deposit x w bs = { x with copy := { x.copy with waits := [{ w with watching := false, deposit := some bs }] } })) ∧
    (∀ r c slot, s.cellAt x w.va = some (r, c, slot) → w.watching = true → w.deadline ≠ 0 → w.deadline ≤ s.chorus →
      (x.die, r.num, c) ∉ s.cellPoison →
      let y := s.deposit x w (depositBytes r.type 2 (s.cell x.die r c))
      Happens (.lwaitTimeout i) s (s.putSeat (if w.lto = true then y.latch 0x16 w.slot w.pc (BitVec.ofNat 64 w.va) else y))) ∧
    (w.watching = false ∨ w.deadline = 0 ∨ s.chorus < w.deadline → Happens (.lwaitTimeout i) s s)) ∧
  (∀ (s : State) (r d e : Nat), r < 8 → d < 8 → s.diepres.getLsbD d = true → s.diepres.getLsbD e = true → e < 8 →
    e ≠ d → s.mapNibble d r d = e → s.mapNibble e r e = d → r < s.rounds d → s.meshUp d e = true → s.cellPoison = [] →
    s.allows (some (.lattice e)) (0x4800 + d) true false = true → s.roundDue d r = true →
    (∀ f, f < 8 → f ≠ d → s.diepres.getLsbD f = true → s.roundDue f r = false) →
    ∃ t, Happens (.exchangeRound r) s t ∧ t.cells = s.cells ∧ t.seats = s.seats ∧
      (∀ m, m ∈ t.marks ↔ m ∈ s.marks ∧ ¬(m.1 = d ∧ m.2.1 = r)) ∧
      ∀ g i, (d, r, g, i) ∈ s.marks → ∀ q, s.regions.find? (·.num == g) = some q →
        { src := d, dst := e, region := g, idx := i, val := s.cell d q i } ∈ t.exchange) ∧
  (∀ (s : State) (r d e : Nat), r < 8 → d < 8 → s.diepres.getLsbD d = true → s.diepres.getLsbD e = true → e < 8 →
    e ≠ d → s.mapNibble d r d = e → s.mapNibble e r e = d → r < s.rounds d → s.meshUp d e = true →
    s.allows (some (.lattice e)) (0x4800 + d) true false = false → s.roundDue d r = true →
    (∀ f, f < 8 → f ≠ d → s.diepres.getLsbD f = true → s.roundDue f r = false) →
    (s.cellPoison = [] → (∃ m ∈ s.marks, m.1 = d ∧ m.2.1 = r) → .refused d e s.chorus ∉ s.notices →
      Happens (.exchangeRound r) s { s with notices := s.notices ++ [.refused d e s.chorus] }) ∧
    ((∀ m ∈ s.marks, ¬(m.1 = d ∧ m.2.1 = r)) → Happens (.exchangeRound r) s s)) ∧
  (∀ (s : State) (i : Nat) (p : Exchange) (g : Region), s.exchange[i]? = some p → s.regions.find? (·.num == p.region) = some g →
    (∀ c ∈ s.cells, c.region < 64 ∧ c.idx < 2 ^ 16) → g.num < 64 → p.idx < 2 ^ 16 →
    (s.diepres.getLsbD p.dst = true → (p.dst, p.region, p.idx) ∉ s.cellPoison → ∃ t, Happens (.exchangeReceive i) s t ∧
      t.exchange = s.exchange.eraseIdx i ∧ t.cell p.dst g p.idx = joinCell g.type (s.cell p.dst g p.idx) p.val ∧
      ∀ d (q : Region) j, (d, q.num, j) ≠ (p.dst, g.num, p.idx) → t.cell d q j = s.cell d q j) ∧
    ((p.dst, p.region, p.idx) ∈ s.cellPoison →
      Happens (.exchangeReceive i) s { s with exchange := s.exchange.eraseIdx i })) ∧
  (∀ (type st : Nat) (v : BitVec 512) (thr : Word64), st < 4 → type < 7 →
    let sum := ((List.range 8).map fun j => (v.extractLsb' (64 * j) 64).toNat).sum % 2 ^ 64
    let bs := depositBytes type st v
    (type ≠ 6 → bs.length = 16 ∧ leNat (bs.take 8) = v.toNat % 2 ^ 64 ∧ leNat (bs.drop 8) = st ∧
      passes type thr v = leq64 type thr (v.extractLsb' 0 64)) ∧
    (type = 6 → bs.length = 80 ∧ leNat (bs.take 64) = v.toNat ∧ leNat ((bs.drop 64).take 8) = sum ∧ leNat (bs.drop 72) = st ∧
      (passes type thr v = true ↔ thr.toNat ≤ sum))) ∧
  (∀ (type : Nat) (a b c : Word64), type < 6 → (type = 3 → isNan64 a = false ∧ isNan64 b = false ∧ isNan64 c = false) →
    leq64 type a (join64 type a b) = true ∧ leq64 type b (join64 type a b) = true ∧
    (leq64 type a c = true → leq64 type b c = true → leq64 type (join64 type a b) c = true))

/-! ### Synchronisation -/

/-- R269 to R271, R274 to R277, R279 to R283: SEMI and BARI set, SEMS and BARA add here or send a message to the member they name,
after a release where REL is set; SEMW and BARW take what they waited for, WPW nothing; FENCE releases, acquires or both; FSC
without wheel positions raises SC_NO_POSITION. An index beyond the allotment or the gang raises ILLEGAL_FIELD. A local
arrival beyond 2^32 - 1 raises BARRIER_OVERFLOW with the count unchanged; a semaphore stays at the top and SEM_OVERFLOW
follows. The conditions of the waits are those of R277 and R283. -/
def Obligations.Synchronisation : Prop :=
  ∀ (s : State) (k : Nat) (base live : Seat) (d a : RField) (imm : BitVec 7) (lit : Option Word32) (re : BitVec 1)
    (sc : BitVec 3) (v : Word64), s.InSeat k 0 base live → base.suppressed = false → base.id = live.id → base.src a = .ok v →
    live.sync.sems.length = base.sync.sems.length → live.sync.bars.length = base.sync.bars.length →
    let i := d.toNat
    let done := fun (o : Instr) (x : Seat) => exec o s = .next (s.putSeat x)
    let traps := fun (o : Instr) (c : Nat) (w : Word64) => exec o s = .next (s.takeTrap base { cause := c, addr := w } 0)
    let sync := fun (y : Sync) => ({ live with sync := y } : Seat)
    let set := match lit with | some l => l | none => if a = 0 then imm.setWidth 32 else v.setWidth 32
    let n : Word32 := if a = 0 then imm.setWidth 32 else v.setWidth 32
    let l := (lit.getD 0).toNat
    let rel := (lit.getD 0).getLsbD 27
    let rm := (lit.getD 0).getLsbD 13
    let after := fun (scope : Nat) (y : Sync) =>
      ({ y with relq := y.relq ++ [.release { scope := scope, below := s.serial, cycle := base.cycle }] } : Sync)
    let sgn := if rel = true then after (l / 2 ^ 24 % 8) live.sync else live.sync
    let didx := l / 2 ^ 20 % 16
    let midx := l / 2 ^ 14 % 64
    let sends := fun (o : Instr) (body : MsgBody) => ∀ y, didx < base.cfg.d → midx < base.cfg.c →
      s.seats.find? (fun y => y.gang == base.gang && y.e == didx && y.m == midx) = some y → live.releasePending = false →
      ∃ x, done o x ∧ (sync sgn).Sends x y.id (BitVec.ofNat 64 i) none none body
    (base.sync.sems.length ≤ i → ∀ o ∈ [Instr.semi d a imm lit, .sems d a imm lit, .semw d a imm], traps o 0x02 0) ∧
    (base.sync.bars.length ≤ i → ∀ o ∈ [Instr.bari d a imm lit, .bara d a imm lit, .barw d re], traps o 0x02 0) ∧
    (∀ c, live.sync.sems[i]? = some c →
      done (.semi d a imm lit) (sync { live.sync with sems := live.sync.sems.set i set }) ∧
      done (.semw d a imm) (sync { live.sync with sems := live.sync.sems.set i (c - n) }) ∧
      (rm = false → c.toNat + n.toNat < 2 ^ 32 →
        done (.sems d a imm lit) (sync { sgn with sems := live.sync.sems.set i (c + n) })) ∧
      (rm = false → 2 ^ 32 ≤ c.toNat + n.toNat → ∃ x, done (.sems d a imm lit) x ∧
        x.sync = { sgn with sems := live.sync.sems.set i 0xFFFFFFFF } ∧ x.regs = live.regs ∧ x.pads = live.pads ∧
        ∃ f : Frame, x.sys = { live.sys with latched := live.sys.latched ++ [f] } ∧ f.cause.toNat % 256 = 0x0E ∧
          f.f1.toNat = i) ∧
      (rm = true → sends (.sems d a imm lit) (.sem i n)) ∧
      (rm = true → base.cfg.d ≤ didx ∨ base.cfg.c ≤ midx → traps (.sems d a imm lit) 0x02 0)) ∧
    (∀ c, live.sync.bars[i]? = some c →
      done (.bari d a imm lit) (sync { live.sync with bars := live.sync.bars.set i { c with x := set, n := 0 } }) ∧
      (rm = false → c.n.toNat + n.toNat < 2 ^ 32 →
        done (.bara d a imm lit) (sync { sgn with bars := live.sync.bars.set i { c with n := c.n + n } })) ∧
      (rm = false → 2 ^ 32 ≤ c.n.toNat + n.toNat → traps (.bara d a imm lit) 0x0D (BitVec.ofNat 64 i)) ∧
      (rm = true → sends (.bara d a imm lit) (.bar i n)) ∧
      (rm = true → base.cfg.d ≤ didx ∨ base.cfg.c ≤ midx → traps (.bara d a imm lit) 0x02 0) ∧
      done (.barw d re) (if re = 1 then sync { live.sync with bars := live.sync.bars.set i { c with n := c.n - c.x } } else live)) ∧
    done (.wpw d a) live ∧
    done (.fenceAcq sc) (sync { live.sync with acq := true }) ∧
    done (.fenceRel sc) (sync (after sc.toNat live.sync)) ∧
    done (.fenceFull sc) (sync { after sc.toNat live.sync with acq := true }) ∧
    (base.sync.wheelCnt = 0 → traps .fsc 0x20 0) ∧
    (base.sync.wheelCnt ≠ 0 → done .fsc (sync { live.sync with fscDrain := none })) ∧
    (∀ c, base.sync.sems[i]? = some c → (base.waitHolds (.semw d a imm) = true ↔ n.toNat ≤ c.toNat)) ∧
    (∀ c, base.sync.bars[i]? = some c → (base.waitHolds (.barw d re) = true ↔ c.x.toNat ≤ c.n.toNat ∧ c.b = 0)) ∧
    (i < 8 → (base.waitHolds (.wpw d a) = true ↔
      v.toNat ≤ (base.copy.chans.getD i { issued := 0, w := 0 }).w.toNat)) ∧
    (base.sync.wheelCnt ≠ 0 → (base.waitHolds .fsc = true ↔ base.sync.fscDrain ≠ none))

/-! ### Copies and engines -/

/-- R138, R153, R156, R157, R227 to R234, R236 to R243: the copy commands check in the order of R238 and enter their channel with
the start count in the destination, the length counted, the shape kept and the charge made. CPYS takes two cluster ranges. A
quota of 0 or a length of 2^32 or more raises COPY_BAD, a wrong element or PACK FORMAT, a wrong control word ILLEGAL_FIELD, the
pad side SCRATCH_RANGE or ALIGN, the memory side ALIGN, a charge too large BARRIER_OVERFLOW. Without an entry or a snapshot
slot the tile is held. CPYL's element size where the address names no cell is the model's choice (log entry 16). -/
def Obligations.Copies : Prop :=
  ∀ (s : State) (k slot : Nat) (base live : Seat) (t : Tag) (h : BitVec 4) (d sa : RField) (ch : BitVec 3)
    (lit : Option Word32) (hr : HReg) (a b : Word64),
    s.Runs k slot base live t → base.hsrc h.toNat = .ok hr → base.src sa = .ok a → base.src (sa + 1) = .ok b →
    let fld := fun i => (hField hr i).toNat
    let code := fld 2 % 16
    let pack := fld 2 / 16 % 16
    let count := fld 3 * fld 4 * fld 5 * fld 6
    let g := (fld 1 % 2 ^ 25 * 2 ^ 32 + fld 0 + b.toNat) % 2 ^ 57
    let size := if code ∈ [0x0, 0x4, 0x8, 0x9, 0xE] then 1 else if code ∈ [0x1, 0x5, 0xA, 0xB] then 2
      else if code ∈ [0x2, 0x6, 0xC] then 4 else 8
    let w := controlWord (lit.getD 0)
    let control := (w.sig = true → w.sem < base.sync.sems.length) ∧ (w.bc = true → w.bix < base.sync.bars.length) ∧
      (w.rm = true → w.didx < base.cfg.d ∧ w.midx < base.cfg.c)
    let charge := fun (n : Nat) => w.bc = true → ∀ q, base.sync.bars[w.bix]? = some q → q.b.toNat + n < 2 ^ 32
    let traps := fun (i : Instr) (c : Nat) (v : Word64) => exec i s = .next (s.takeTrap base { cause := c, addr := v } slot)
    let room := live.entriesUsed + 1 ≤ live.copy.quota ∧ live.needSnapshot hr = .ok ()
    let pads := fun (v : Word64) (n es : Nat) => (n = 0 ∨ base.Inside v.toNat n) ∧ v.toNat % es = 0
    let formats := fun (op : CmdOp) => match op with
      | .cpyx => pack = 1 ∧ code ∈ [0x0, 0x1, 0x4, 0x5, 0x8, 0x9, 0xA, 0xB, 0xE]
      | .cpyr => pack = 0 ∧ code ∉ [0x8, 0x9, 0xE, 0xF]
      | .cpyl => pack = 0
      | _ => pack = 0 ∧ code ≠ 0xF
    let shapes := fun (op : CmdOp) => op = .cpyx → fld 3 % 8 = 0 ∧ fld 7 % 4 = 0 ∧ fld 8 % 4 = 0 ∧ fld 9 % 4 = 0
    let ops := [(Instr.cpyi t h d sa ch lit, CmdOp.cpyi), (.cpyo t h d sa ch lit, .cpyo), (.cpyx t h d sa ch lit, .cpyx),
      (.cpyr t h d sa ch lit, .cpyr), (.cpyl t h d sa ch lit, .cpyl)]
    (∀ p ∈ ops, ∀ es, es = (if p.2 = .cpyl then (match s.regionAt base g with
        | some r => if r.type = 6 then 64 else 8 | none => 8) else if code = 0xF then 0 else size) →
      let n := es * count
      let fits := base.copy.quota ≠ 0 ∧ n < 2 ^ 32 ∧ shapes p.2
      (¬fits → traps p.1 0x21 0) ∧
      (fits → ¬formats p.2 → traps p.1 0x23 0) ∧
      (fits → formats p.2 → ¬control → traps p.1 0x02 0) ∧
      (fits → formats p.2 → control → n ≠ 0 → ¬base.Inside a.toNat n → traps p.1 0x0A a) ∧
      (fits → formats p.2 → control → (n = 0 ∨ base.Inside a.toNat n) → a.toNat % es ≠ 0 → traps p.1 0x0B a) ∧
      (fits → formats p.2 → control → pads a n es → g % es ≠ 0 → traps p.1 0x0B (BitVec.ofNat 64 g)) ∧
      (fits → formats p.2 → control → pads a n es → g % es = 0 → ¬charge n → traps p.1 0x0D (BitVec.ofNat 64 w.bix)) ∧
      (fits → formats p.2 → control → pads a n es → g % es = 0 → charge n → room →
        ∃ x, exec p.1 s = .next (s.done base slot t x (some 1)) ∧
          base.Enters live x slot p.2 d ch lit n hr g a.toNat) ∧
      (fits → formats p.2 → control → pads a n es → g % es = 0 → charge n → live.copy.quota < live.entriesUsed + 1 →
        s.draining base = false → exec p.1 s = .next (s.takeTrap base holdQuota slot))) ∧
    (let n := size * count
     let cluster := fun (v : Word64) => v.toNat < 2 ^ 22 ∧ v.toNat % size = 0 ∧
       ∃ y, s.clusterSeat base (v.toNat / 2 ^ 19) = some y ∧ (n = 0 ∨ y.Inside (v.toNat % 2 ^ 19) n)
     let outside := fun (v : Word64) => 2 ^ 22 ≤ v.toNat ∨ (v.toNat < 2 ^ 22 ∧ (s.clusterSeat base (v.toNat / 2 ^ 19) = none ∨
       (n ≠ 0 ∧ ∃ y, s.clusterSeat base (v.toNat / 2 ^ 19) = some y ∧ ¬y.Inside (v.toNat % 2 ^ 19) n)))
     let i := Instr.cpys t h d sa ch lit
     let ok := base.copy.quota ≠ 0 ∧ n < 2 ^ 32 ∧ code ≠ 0xF ∧ pack = 0 ∧ control
     (base.copy.quota = 0 → traps i 0x21 0) ∧
     (ok → outside a → traps i 0x0A a) ∧ (ok → cluster a → outside b → traps i 0x0A b) ∧
     (ok → cluster a → cluster b → charge n → room → ∃ x, exec i s = .next (s.done base slot t x (some 1)) ∧
       base.Enters live x slot .cpys d ch lit n hr a.toNat b.toNat))

/-- R249, R253 to R255, R257, R258, R260, R261, R263 to R265, R267: the engine commands check in R238's order and enter their
channel with two entries and their counted length: ROUTE's output, A2AV's capacity, ARED's and AGTH's destination, MCST's
bytes, RROT's 4096 and SENDO's 64. A quota below two and the conditions of each entry raise COPY_BAD. An SC SENDO without wheel
positions raises SC_NO_POSITION. CPYK gives all ones where no such command stands, and else leaves the command to be retired.
RNGS empties the queue and seeds the generator, once in a repeating bundle. How far A2AV's send area reaches when it issues is the
model's reading (log entry 17), and so is that an AGTH whose source is some block of its destination enters, and is checked against its
own block when the rank table is read (log entry 19). -/
def Obligations.Engines : Prop :=
  ∀ (s : State) (k slot : Nat) (base live : Seat) (t : Tag) (h : BitVec 4) (d sa : RField) (ch : BitVec 3)
    (lit : Option Word32) (hr : HReg) (a b : Word64),
    s.Runs k slot base live t → base.hsrc h.toNat = .ok hr → base.src sa = .ok a → base.src (sa + 1) = .ok b →
    let fld := fun i => (hField hr i).toNat
    let code := fld 2 % 16
    let es := if code ∈ [0x0, 0x4, 0x8, 0x9, 0xE] then 1 else if code ∈ [0x1, 0x5, 0xA, 0xB] then 2
      else if code ∈ [0x2, 0x6, 0xC] then 4 else if code = 0xF then 0 else 8
    let dense := code ≠ 0xF ∧ fld 2 / 16 % 16 = 0
    let w := controlWord (lit.getD 0)
    let control := (w.sig = true → w.sem < base.sync.sems.length) ∧ (w.bc = true → w.bix < base.sync.bars.length) ∧
      (w.rm = true → w.didx < base.cfg.d ∧ w.midx < base.cfg.c)
    let charge := fun (n : Nat) => w.bc = true → ∀ q, base.sync.bars[w.bix]? = some q → q.b.toNat + n < 2 ^ 32
    let traps := fun (i : Instr) (c : Nat) (v : Word64) => exec i s = .next (s.takeTrap base { cause := c, addr := v } slot)
    let two := live.entriesUsed + 2 ≤ live.copy.quota
    let image := live.needSnapshot hr = .ok ()
    let span := fun (v : Word64) (n al : Nat) => (n = 0 ∨ base.Inside v.toNat n) ∧ v.toNat % al = 0
    let off := fun (v : Word64) (n al c : Nat) =>
      (n ≠ 0 ∧ ¬base.Inside v.toNat n ∧ c = 0x0A) ∨ ((n = 0 ∨ base.Inside v.toNat n) ∧ v.toNat % al ≠ 0 ∧ c = 0x0B)
    let apart := fun (n m : Nat) => n = 0 ∨ m = 0 ∨ b.toNat + m ≤ a.toNat ∨ a.toNat + n ≤ b.toNat
    let enters := fun (i : Instr) (op : CmdOp) (n : Nat) (img : HReg) => ∃ x,
      exec i s = .next (s.done base slot t x (some 1)) ∧ base.Enters live x slot op d ch lit n img a.toNat b.toNat
    let ranks := 1 ≤ fld 3 ∧ fld 3 ≤ 256
    let words := 4 * (fld 13 * fld 3)
    let sorted := 8 * fld 13 * fld 3 + 8 * fld 4 + 8 * ((fld 4 + 63) / 64)
    let part := es * fld 4
    let whole := fld 3 * part
    let choices := 1 ≤ fld 3 ∧ fld 3 ≤ 16 ∧ 1 ≤ fld 4 ∧ fld 4 ≤ 4096 ∧ fld 13 * fld 3 ≤ 65536 ∧ apart words sorted
    let reduces := ranks ∧ part < 2 ^ 32 ∧ fld 14 < 3 ∧ (a = b ∨ apart part part)
    let gathers := ranks ∧ whole < 2 ^ 32 ∧ ((∃ j, j < fld 3 ∧ a.toNat = b.toNat + j * part) ∨ apart part whole)
    (base.copy.quota < 2 → ∀ i ∈ [Instr.route t h d sa ch lit, .a2av t h d sa ch lit, .ared t h d sa ch lit,
      .agth t h d sa ch lit, .mcst t h d sa ch lit, .rrot t h d sa ch lit], traps i 0x21 0) ∧
    (2 ≤ base.copy.quota →
      (∀ (i : Instr) (op : CmdOp) (ok form : Prop) (n1 a1 n2 a2 : Nat) (img : HReg), (i, op, ok, form, n1, a1, n2, a2, img) ∈
          [(Instr.route t h d sa ch lit, CmdOp.route, choices, True, words, 4, sorted, 8, hr),
           (.ared t h d sa ch lit, .ared, reduces, dense ∧ code ∉ [0x8, 0x9, 0xE], part, es, part, es, hr),
           (.agth t h d sa ch lit, .agth, gathers, dense, part, es, whole, es, hr),
           (.rrot t h d sa ch lit, .rrot, True, True, 4096, 4096, 4096, 4096, h.setWidth 512)] →
        (¬ok → traps i 0x21 0) ∧ (ok → ¬form → traps i 0x23 0) ∧ (ok → form → ¬control → traps i 0x02 0) ∧
        (ok → form → control →
          (∀ c, off a n1 a1 c → traps i c a) ∧ (span a n1 a1 → ∀ c, off b n2 a2 c → traps i c b) ∧
          (span a n1 a1 → span b n2 a2 → ¬charge n2 → traps i 0x0D (BitVec.ofNat 64 w.bix)) ∧
          (span a n1 a1 → span b n2 a2 → charge n2 → two → (op ≠ .rrot → image) → enters i op n2 img) ∧
          (span a n1 a1 → span b n2 a2 → charge n2 → live.copy.quota < live.entriesUsed + 2 → s.draining base = false →
            exec i s = .next (s.takeTrap base holdQuota slot)))) ∧
      (let i := Instr.a2av t h d sa ch lit
       let tab := fld 14
       let total := ((List.range (fld 3)).map fun j => leNat (base.padBytes (tab + 4 * j) 4)).foldl (· + ·) 0
       let area := fun (v : Word64) (n : Nat) => v.getLsbD 63 = true ∨ n = 0 ∨ base.Inside (v &&& 0x7FFFF).toNat n
       let table := base.Inside tab (8 * fld 3) ∧ tab % 4 = 0
       (¬ranks → traps i 0x21 0) ∧ (ranks → ¬control → traps i 0x02 0) ∧
       (ranks → control → ¬base.Inside tab (8 * fld 3) → traps i 0x0A (BitVec.ofNat 64 tab)) ∧
       (ranks → control → base.Inside tab (8 * fld 3) → tab % 4 ≠ 0 → traps i 0x0B (BitVec.ofNat 64 tab)) ∧
       (ranks → control → table → ¬area a total → traps i 0x0A (a &&& 0x7FFFF)) ∧
       (ranks → control → table → area a total → ¬area b (fld 13) → traps i 0x0A (b &&& 0x7FFFF)) ∧
       (ranks → control → table → area a total → area b (fld 13) → charge (fld 13) → two → image →
         enters i .a2av (fld 13) hr)) ∧
      (let i := Instr.mcst t h d sa ch lit
       let n := es * (fld 3 * fld 4 * fld 5 * fld 6)
       let targets := (∃ j, j < 8 ∧ b.getLsbD (56 + j) = true) ∧ b.extractLsb' 19 37 = 0
       let spot := b.toNat % 2 ^ 19
       let reached := ∀ j, j < 8 → b.getLsbD (56 + j) = true → ∃ y, s.clusterSeat base j = some y ∧ (n = 0 ∨ y.Inside spot n)
       let ok := n < 2 ^ 32 ∧ targets
       (¬ok → traps i 0x21 0) ∧ (ok → ¬dense → traps i 0x23 0) ∧
       (ok → dense → w.rm = true ∨ ¬control → traps i 0x02 0) ∧
       (ok → dense → w.rm = false → control → ∀ c, off a n es c → traps i c a) ∧
       (ok → dense → w.rm = false → control → span a n es →
         (∀ j, j < 8 → b.getLsbD (56 + j) = true → (∀ m, m < j → b.getLsbD (56 + m) = false) → s.clusterSeat base j = none →
           traps i 0x0A (BitVec.ofNat 64 (j * 2 ^ 19 + spot))) ∧
         (reached → spot % es = 0 → charge n → two → image → enters i .mcst n hr)))) ∧
    (let i := Instr.sendo t h d sa ch lit
     let sc := b.getLsbD 63 = true
     let goes := 2 ≤ base.copy.quota ∧ ranks ∧ (b.extractLsb' 32 16).toNat < fld 3 ∧ b.extractLsb' 48 15 = 0 ∧
       b.extractLsb' 19 13 = 0
     (sc → base.sync.wheelCnt = 0 → traps i 0x20 0) ∧
     ((sc → base.sync.wheelCnt ≠ 0) →
       (¬goes → traps i 0x21 0) ∧
       (goes → w.rm = true ∨ ¬control → traps i 0x02 0) ∧
       (goes → w.rm = false → control → (∀ c, off a 64 64 c → traps i c a) ∧
         (span a 64 64 → b.toNat % 64 ≠ 0 → traps i 0x0B (b &&& 0x7FFFF)) ∧
         (span a 64 64 → b.toNat % 64 = 0 → charge 64 → two → image → enters i .sendo 64 hr)))) ∧
    (let named := fun (m : Cmd) => m.ch = ch.toNat ∧ m.start = a.toNat ∧ (m.op.isCopy = true ∨ m.fault ≠ none)
     let x := live.landS slot 10 d.toNat (BitVec.allOnes 64)
     (base.copy.quota = 0 → traps (.cpyk t d sa ch) 0x21 0) ∧
     (base.copy.quota ≠ 0 → (∀ m ∈ base.copy.cmds, ¬named m) → exec (.cpyk t d sa ch) s = .next (s.done base slot t x (some 1))) ∧
     (base.copy.quota ≠ 0 → ∀ m ∈ base.copy.cmds, named m → (∀ q ∈ base.copy.cmds, named q → q = m) → ∃ y,
       exec (.cpyk t d sa ch) s = .next (s.done base slot t y (some 1)) ∧
       y = { x with copy := { x.copy with kills := x.copy.kills ++ [(ch.toNat, m.serial, d.toNat, base.cycle)] } })) ∧
    ((∀ c, base.cur = some c → c.rep = 0) → exec (.rngs t sa) s = .next (s.done base slot t
      { live with regs := { live.regs with rbq := [], seed := a, genN := 0 } } (some 1))) ∧
    (∀ c, base.cur = some c → c.rep ≠ 0 → exec (.rngs t sa) s = .next (s.done base slot t live (some 1)))

/-! ### Messages, reports and parity -/

/-- R162, R165, R168 to R171, R177 to R179, R205, R270 to R272, R276, R289, R334: a store that arrives writes its bytes at the
target and retires there; a read or an atomic sends its data back. A refused table, a pad that is not THREAD and poison go back
as refusals and write nothing. One read serves a multicast group. Data waits in its entry; a refusal frees the entry. A signal
counts at its target or sends its overflow back; every report raises its cause in the seat it came from. An upset changes a
word; an access to a word whose parity fails waits. A word that fails alone in its column is rebuilt; two poison their granules;
in a group with a failing word, a column of even upsets poisons the granules of the group. A word of a pad that no seat holds counts
in its column as any other. A cell lost is poisoned, and open watches on it raise POISON. That poison found where a message is
performed comes back as a report, which is latched, is the model's choice (log entry 28), and so is that an access waits for the rebuild of a
word whose parity fails (log entry 30), and what a column's parity is once it is poisoned (log entry 32). -/
def Obligations.Messages : Prop :=
  (∀ (s : State) (i : Nat) (m : Msg) (x y : Seat), s.msgs[i]? = some m → m.stamp = none →
    (∀ q ∈ s.msgs.take i, (q.src / 4 ≠ m.src / 4 ∨ q.dst / 4 ≠ m.dst / 4) ∧ (q.src = m.src → q.stamp = none)) →
    (∀ z ∈ s.seats, ∀ q, .msg q ∈ z.sync.relq → q.serial < m.serial → q.src / 4 ≠ m.src / 4 ∨ q.dst / 4 ≠ m.dst / 4) →
    let left := s.takeMsg m
    left.seat? m.src = some x → left.seat? m.dst = some y → s.pathUp m.src m.dst = true → m.body.waitsParity y = false →
    y.PadsWf →
    let may := fun w r => s.allows (some (.port y.die y.tile)) m.src w r = true
    let goes := fun (t : State) => Happens (.remoteMessageArrival i) s t
    let refused := fun (c : Nat) (e : Option Nat) => goes { left with reports := left.reports ++
      [{ seat := m.src, overflow := false, cause := c, addr := m.ea, pc := m.pc, slot := m.slot, entry := e }] }
    let answers := fun (e : Nat) (d : Land) (t : State) => { t with replies := t.replies ++ [{ seat := m.src, entry := e, dst := d }] }
    let threads := fun (a n : Nat) => y.pads.owner.getD (a / 4096) .thread = .thread ∧
      y.pads.owner.getD ((a + n - 1) / 4096) .thread = .thread
    (m.src ≠ m.dst → left = { s with msgs := s.msgs.filter (·.serial != m.serial) }) ∧
    (∀ a n bs, m.body = .store a bs → (∀ p ∈ bs, a ≤ p.1 ∧ p.1 < a + n) → (∃ p ∈ bs, p.1 + 1 = a + n) →
      (bs.map (·.1)).Nodup →
      let torn := ∃ g ∈ y.pads.poison, (bs.filter fun p => p.1 / 64 == g).length ≠ 0 ∧
        (bs.filter fun p => p.1 / 64 == g).length ≠ 64
      (¬may true false → refused 0x11 none) ∧ (may true false → ¬threads a n → refused 0x09 none) ∧
      (may true false → threads a n → torn → refused 0x22 none) ∧
      (may true false → threads a n → ¬torn → ∃ z : Seat,
        goes (match m.arr, (left.putSeat z).seat? m.src with
          | some b, some v => (left.putSeat z).putSeat (v.arrive b m.slot m.pc)
          | _, _ => left.putSeat z) ∧
        { z with pads := y.pads } = y ∧ z.pads.owner = y.pads.owner ∧ (∀ p ∈ bs, Mem.byte z.pads.bytes p.1 = p.2) ∧
        ∀ q, (∀ p ∈ bs, p.1 ≠ q) → Mem.byte z.pads.bytes q = Mem.byte y.pads.bytes q)) ∧
    (∀ a n e r d v0, m.body = .load a n e → 0 < n → n ≤ 8 → x.remotes.find? (·.id == e) = some r → r.dst = .sReg d v0 →
      (¬may false true → refused 0x11 (some e)) ∧
      (may false true → ¬y.Clean a n → refused 0x22 (some e)) ∧
      (may false true → y.Clean a n → ∃ v : Word64, v.toInt = Int.bmod (leNat (y.padBytes a n)) (2 ^ (8 * n)) ∧
        goes (answers e (.sReg d v) left))) ∧
    (∀ a lanes n e r d v0 k0, m.body = .vload a lanes n e → x.remotes.find? (·.id == e) = some r → r.dst = .vReg d v0 k0 →
      lanes.Nodup → (∀ j ∈ lanes, j < 64) →
      (may false true → (∃ j ∈ lanes, ¬y.Clean (a + 4 * j) 4) → refused 0x22 (some e)) ∧
      (may false true → (∀ j ∈ lanes, y.Clean (a + 4 * j) 4 ∧ 4 * j + 4 ≤ n) → ∃ val mask,
        IsElems 32 (· ∈ lanes) (fun j => leNat (y.padBytes (a + 4 * j) 4)) val mask ∧
        goes (answers e (.vReg d val mask) left))) ∧
    (∀ a n f v c e sc r d v0, m.body = .amo a n f v c e sc → x.remotes.find? (·.id == e) = some r → r.dst = .sReg d v0 →
      0 < n →
      (¬may true true → refused 0x11 (some e)) ∧ (may true true → ¬threads a n → refused 0x09 (some e)) ∧
      (may true true → threads a n → ¬y.Clean a n → refused 0x22 (some e)) ∧
      (may true true → threads a n → y.Clean a n →
        let old := leNat (y.padBytes a n)
        let new := amoFn f (8 * n) old (v.toNat % 2 ^ (8 * n)) (c.toNat % 2 ^ (8 * n))
        ∃ z : Seat, goes (answers e (.sReg d (BitVec.ofNat 64 old)) (left.putSeat z)) ∧ y.Stored z [(a, n, new % 2 ^ (8 * n))])) ∧
    (∀ a e r v0, m.body = .edge a e false → x.remotes.find? (·.id == e) = some r → r.dst = .aEdge v0 →
      may false true → y.Clean a 128 → goes (answers e (.aEdge (BitVec.ofNat 1024 (leNat (y.padBytes a 128)))) left)) ∧
    (∀ j n, m.body = .sem j n → ∃ z rs, y.SemPlus z j n.toNat ∧ z.pads = y.pads ∧ z.regs = y.regs ∧ z.copy = y.copy ∧
      (∀ q, q ≠ j → z.sync.sems[q]? = y.sync.sems[q]?) ∧ z.sync.bars = y.sync.bars ∧
      rs = (if (y.sync.sems.getD j 0).toNat + n.toNat < 2 ^ 32 then [] else
        [{ seat := m.src, overflow := true, cause := 0x0E, addr := m.ea, pc := m.pc, slot := m.slot, entry := none }]) ∧
      Happens (.remoteSignalArrival i) s { left.putSeat z with reports := left.reports ++ rs }) ∧
    (∀ j n q, m.body = .bar j n → y.sync.bars[j]? = some q →
      (q.n.toNat + n.toNat < 2 ^ 32 → Happens (.remoteSignalArrival i) s (left.putSeat
        { y with sync := { y.sync with bars := y.sync.bars.set j { q with n := q.n + n } } })) ∧
      (2 ^ 32 ≤ q.n.toNat + n.toNat → ∃ z, z.sync = y.sync ∧ z.pads = y.pads ∧
        Happens (.remoteSignalArrival i) s { left.putSeat z with reports := left.reports ++
          [{ seat := m.src, overflow := true, cause := 0x0D, addr := m.ea, pc := m.pc, slot := m.slot, entry := none }] }))) ∧
  (∀ (s : State) (i : Nat) (m : Msg) (y : Seat), s.msgs[i]? = some m → s.seat? m.dst = some y →
    m.body.span.isSome = true → m.body.waitsParity y = true → m.src ≠ m.dst → Happens (.remoteMessageArrival i) s s) ∧
  (∀ (s : State) (i a : Nat) (also : List Nat) (y : Seat) (m : Msg), s.msgs[i]? = some m → s.seat? m.dst = some y →
    (∀ k ∈ s.msgs, k.dst = m.dst ∧ (∃ e, k.body = .edge a e true) ∧ s.pathUp k.src k.dst = true) →
    (∀ z ∈ s.seats, z.sync.relq = []) → s.msgs.Pairwise (fun k q => k.src / 4 ≠ q.src / 4) → (s.msgs.map (·.serial)).Nodup →
    (∀ k ∈ s.msgs, s.allows (some (.port y.die y.tile)) k.src false true = true) → y.parityFails a 128 = false →
    y.Clean a 128 → (i :: also).Nodup → (∀ j ∈ also, j < s.msgs.length) →
    let still := fun (x : Seat) => ({ x with sync := { x.sync with own := [] } } : Seat)
    ∃ t, Happens (.multicastGroupRead i also) s t ∧ t.seats.map still = s.seats.map still ∧ t.reports = s.reports ∧
      (∀ j k, s.msgs[j]? = some k → (k ∈ t.msgs ↔ j ∉ i :: also)) ∧
      t.replies.length = s.replies.length + 1 + also.length ∧
      ∀ j ∈ i :: also, ∀ k x e r v, s.msgs[j]? = some k → k.body = .edge a e true → s.seat? k.src = some x →
        x.remotes.find? (·.id == e) = some r → r.dst = .bEdge v →
        { seat := k.src, entry := e, dst := .bEdge (BitVec.ofNat 1024 (leNat (y.padBytes a 128))) } ∈ t.replies) ∧
  (∀ (s : State) (i : Nat) (r : Reply) (x : Seat), s.replies[i]? = some r → s.seat? r.seat = some x →
    Happens (.remoteDataArrival i) s { (s.putSeat { x with remotes := x.remotes.map fun e =>
      if e.id = r.entry then { e with arrived := true, dst := r.dst } else e }) with replies := s.replies.eraseIdx i }) ∧
  (∀ (s : State) (i : Nat) (r : Report) (x : Seat), s.reports[i]? = some r → s.seat? r.seat = some x →
    ∃ z t, t = { s.putSeat z with reports := s.reports.eraseIdx i } ∧
      Happens (if r.overflow = true then .signalOverflowReport i else .remoteRefusalReturn i) s t ∧
      z.regs = x.regs ∧ z.pads = x.pads ∧
      (∃ f : Frame, z.sys = { x.sys with latched := x.sys.latched ++ [f] } ∧ f.cause.toNat % 256 = r.cause % 256 ∧
        f.f1 = r.addr) ∧
      (r.entry = none → z.remotes = x.remotes) ∧ ∀ e, r.entry = some e → z.remotes = x.remotes.filter (·.id != e)) ∧
  (∀ (s : State) (k a b : Nat) (v w : BitVec 64) (x : Seat), s.seat? k = some x → (s.seats.map (·.id)).Nodup → k < 2048 →
    x.PadsWf → v ≠ 0 → w ≠ 0 → a < b → a % 8 = 0 → b % 8 = 0 → b + 8 ≤ 4096 * x.pads.count →
    (∀ z ∈ s.seats, z.id / 4 = k / 4 → z.id ≠ k → z.pads.upset = []) → (s.tile (k / 4)).parErr = [] → (s.tile (k / 4)).stray = [] →
    let odd := fun (u : BitVec 64) => popcBits 64 u.toNat % 2 = 1
    let group := fun q => (x.pads.phys.getD (q / 4096) 0 / 32, q / 64 % 32)
    let rebuilt := fun (y : Seat) => ∃ t, Happens (.axolotlRebuild (k / 4) []) s t ∧ t.seat? k = some y ∧
      (t.tile (k / 4)).ecc = (s.tile (k / 4)).ecc + 1
    let same := fun (y : Seat) (p : Nat → Prop) => ∀ q, ¬p q → Mem.byte y.pads.bytes q = Mem.byte x.pads.bytes q
    (x.pads.upset = [] →
      Happens (.axolotlRebuild (k / 4) []) s s ∧
      ∃ t y, Happens (.scrub (k / 4) [.word k a v]) s t ∧ t.seat? k = some y ∧ y.pads.upset = [(a, v)] ∧
        leNat (y.padBytes a 8) = (BitVec.ofNat 64 (leNat (x.padBytes a 8)) ^^^ v).toNat ∧ same y (fun q => a ≤ q ∧ q < a + 8) ∧
        (t.tile (k / 4)).scrubRow = ((s.tile (k / 4)).scrubRow + 1) % 256) ∧
    (x.pads.upset = [(a, v)] → odd v → ∃ y, rebuilt y ∧ y.pads.upset = [] ∧ y.pads.poison = x.pads.poison ∧
      leNat (y.padBytes a 8) = (BitVec.ofNat 64 (leNat (x.padBytes a 8)) ^^^ v).toNat ∧ same y (fun q => a ≤ q ∧ q < a + 8)) ∧
    (x.pads.upset = [(a, v)] → ¬odd v → Happens (.axolotlRebuild (k / 4) []) s s) ∧
    (x.pads.upset = [(a, v), (b, w)] → odd v → odd w → group a = group b → a / 8 % 8 = b / 8 % 8 →
      ∃ y, rebuilt y ∧ a / 64 ∈ y.pads.poison ∧ b / 64 ∈ y.pads.poison ∧ same y (fun _ => False)) ∧
    (x.pads.upset = [(a, v), (b, w)] → odd v → ¬odd w → group a = group b → a / 8 % 8 ≠ b / 8 % 8 →
      ∃ y, rebuilt y ∧ ∀ q, q < 4096 * x.pads.count → group q = group b → q / 64 ∈ y.pads.poison)) ∧
  (∀ (s : State) (tile : Nat) (r : Region) (i : Nat), tile < 512 → r ∈ s.regions → i < r.cells → s.failingGroups tile = [] →
    (tile / 64, r.num, i) ∉ s.cellPoison →
    ∃ t, Happens (.axolotlRebuild tile [(r.num, i)]) s t ∧ t.cellPoison = s.cellPoison ++ [(tile / 64, r.num, i)] ∧
      ∀ y w q n, s.seat? y.id = some y → y.copy.waits = [w] → y.die = tile / 64 → w.watching = true →
        s.cellAt y w.va = some (q, i, n) → q.num = r.num →
        t.seat? y.id = some (({ y with copy := { y.copy with waits := [] } } : Seat).latch 0x13 w.slot w.pc (BitVec.ofNat 64 w.va))) ∧
  (∀ (s : State) (k a q o : Nat) (v w : BitVec 64) (x : Seat), s.seat? k = some x → (s.seats.map (·.id)).Nodup → k < 2048 →
    x.PadsWf → a % 8 = 0 → o % 8 = 0 → a + 8 ≤ 4096 * x.pads.count → q < 128 → o < 4096 → w ≠ 0 →
    (∀ z ∈ s.seats, z.id / 4 = k / 4 → z.id ≠ k → z.pads.upset = []) → (s.tile (k / 4)).parErr = [] →
    (∀ z ∈ s.seats, z.id / 4 = k / 4 → q ∉ z.pads.phys) →
    let odd := fun (u : BitVec 64) => popcBits 64 u.toNat % 2 = 1
    let column := x.pads.phys.getD (a / 4096) 0 / 32 = q / 32 ∧ a / 64 % 32 = o / 64 % 32 ∧ a / 8 % 8 = o / 8 % 8
    ((s.tile (k / 4)).stray = [] → ∃ t, Happens (.scrub (k / 4) [.stray q o w]) s t ∧
      (t.tile (k / 4)).stray = [((q, o), w)] ∧ t.seats = s.seats) ∧
    ((s.tile (k / 4)).stray = [((q, o), w)] → odd w →
      (x.pads.upset = [] → ∃ t, Happens (.axolotlRebuild (k / 4) []) s t ∧ (t.tile (k / 4)).stray = [] ∧ t.seats = s.seats) ∧
      (x.pads.upset = [(a, v)] → odd v → column → ∃ t y, Happens (.axolotlRebuild (k / 4) []) s t ∧
        (t.tile (k / 4)).stray = [] ∧ t.seat? k = some y ∧ a / 64 ∈ y.pads.poison))) ∧
  (∀ (s : State) (tile : Nat), tile < 512 →
    Happens (.scrub tile []) s (s.putTile { s.tile tile with scrubRow := ((s.tile tile).scrubRow + 1) % 256 }))

/-! ### Channels -/

/-- R160, R161, R178, R179, R229 to R232, R237, R239, R243 to R249, R252, R258, R259, R280, R294, R330, R331: a command starts once its pads serve it, no
release before it stands, and the scoreboard is clear; a CPYL waits for its seat's lattice operations under way (log entry 25,
the model's reading). An inbound sector is written into the pads in dense order and W follows;
it waits for a translation; bytes of an unfinished 8-byte unit of the pad are held back for the next sector (R288). Links to the home
that carry no traffic hold the channel (R388). The commands of a seat that has halted to be saved read nothing more (R424). An outbound one is performed at its home or parked. Bytes go from pad to pad; a cell is joined. A
read waits for its channel's parked sectors and for a rebuild. A refused table, poison and a cause of the translation end the command. ROUTE writes its whole output. Parked sectors replay.
Completion frees the entry, hands the pads over and signals; CPYK's retirement does so too, with the rest as its result. A hold
that can never end raises COPY_BAD. The model's choices: a part of a poisoned granule that a command would write ends it with
SCRATCH_ECC, its last byte delivered ends its accesses, and a halted command that a pending release waits for goes on (log entry 28). -/
def Obligations.ChannelEvents : Prop :=
  (∀ (s : State) (k c : Nat) (x : Seat) (m : Cmd), s.seat? k = some x → x.front c = some m → m.started = false → m.fault = none →
    m.cut = false → s.halted x = false → (∀ q ∈ x.copy.cmds, q.serial = m.serial → q = m) → m.op ∉ [.a2av, .ared, .agth, .sendo] →
    let e := Instr.commandStart k c
    let serves := ∀ r ∈ m.reads ++ m.writes, ∀ b, b < r.2 → (x.pads.owner.getD ((r.1 + b) / 4096) .thread).serves m.serial = true
    let free := ∀ r, .release r ∈ x.sync.relq → m.serial < r.cycle
    (¬serves → Happens e s s) ∧ (¬free → Happens e s s) ∧ (m.op = .cpyl → s.unitBusy x m = true → Happens e s s) ∧
    (s.scHolds x m = true → Happens e s s) ∧
    (serves → free → s.remoteServe x m = true → x.scoreClear m = true → (m.op = .cpyl → s.unitBusy x m = false) →
      s.scHolds x m = false →
      (∀ a, s.portRefusal x m = some a → FailsCmd e s x m 0x11 a) ∧
      (s.portRefusal x m = none → s.sourceFails x m = true → Happens e s s) ∧
      (s.portRefusal x m = none → s.sourceFails x m = false → Happens e s (s.putSeat (x.updCmd m.serial fun q =>
        { q with started := true, buf := if m.op = .rrot then x.padBytes m.g 4096 else [] }))))) ∧
  (∀ (s : State) (k c : Nat) (x : Seat) (m : Cmd), s.Moves k c x m → m.op.collective = false → s.sourceFails x m = true →
    Happens (.copySectorTranslation k c) s s) ∧
  (∀ (s : State) (k c : Nat) (x : Seat) (m : Cmd) (g : Gang) (w : StopWhy), s.seat? k = some x → x.front c = some m →
    s.gang? x.gang = some g → g.stop = .haltSent w → w ≠ .cancel → w ≠ .kill → x.run ≠ .run → x.sync.relq = [] →
    Happens (.copySectorTranslation k c) s s ∧ Happens (.commandStart k c) s s) ∧
  (∀ (s : State) (k c n : Nat) (x : Seat) (m : Cmd), s.Moves k c x m → m.OneSector n → x.PadsWf → s.MemoryWf → c < 8 →
    s.sourceFails x m = false →
    let e := Instr.copySectorTranslation k c
    let va := fun i => m.gaddr (elemSize (elemCode m.snap)) (m.readAt + i)
    let from' := m.p + m.done
    let first := x.copy.cmds.find? (fun q => q.ch == c && q.done < q.len) = some m
    let master := 0x800 + k * 8 + c
    (m.op = .cpyi →
      (s.translate x false false (va 0) = .untranslated → Happens e s s) ∧
      (∀ cause, s.translate x false false (va 0) = .fault cause → m.buf = [] → FailsCmd e s x m cause (va 0)) ∧
      ∀ pa et disc, s.translate x false false (va 0) = .pa pa et disc →
        let all := m.buf.length + n
        let whole := if m.readAt + n = m.len then all else all - (from' + all) % 8
        let may := s.allows (s.homeOf (pa / 64 * 64)) master false true = true
        let bad := disc = false ∧ pa / 64 * 64 < 2 ^ 47 ∧ pa / 64 ∈ s.hbmPoison
        let torn := ∃ g, g ∈ x.pads.poison ∧ from' / 64 ≤ g ∧ g ≤ (from' + all - 1) / 64 ∧
          ¬(m.p ≤ 64 * g ∧ 64 * g + 64 ≤ m.p + m.len)
        let held := s.parkedAhead x c (va 0) = true ∨ s.homeUp x.die pa = false
        let byte := fun (i : Nat) => if i < m.buf.length then m.buf.getD i 0
          else if disc = true ∨ (pa / 64 * 64 < 2 ^ 47 ∧ pa / 64 ∈ s.hbmPoison) then 0
          else (s.readPa (pa / 64 * 64) 64).getD (va (i - m.buf.length) % 64) 0
        (held → Happens e s s) ∧ (¬held → ¬may → m.buf = [] → FailsCmd e s x m 0x11 (va 0)) ∧
        (¬held → may → bad → et = false → m.buf = [] → FailsCmd e s x m 0x13 (va 0)) ∧
        (¬held → may → ¬bad → torn → m.buf = [] → FailsCmd e s x m 0x22 from') ∧
        (¬held → may → ¬bad ∨ et = true → ¬torn → ∃ t y, Happens e s t ∧ t.seat? k = some y ∧ t.hbm = s.hbm ∧ y.regs = x.regs ∧
          (∀ i, i < whole → Mem.byte y.pads.bytes (from' + i) = byte i) ∧
          (∀ q, q < from' ∨ from' + whole ≤ q → Mem.byte y.pads.bytes q = Mem.byte x.pads.bytes q) ∧
          (∃ q ∈ y.copy.cmds, q.serial = m.serial ∧ q.done = m.done + whole ∧ q.buf.length = all - whole ∧
            ∀ i, i < all - whole → q.buf.getD i 0 = byte (whole + i)) ∧
          (first → m.done + whole < m.len → ∀ ch, y.copy.chans[c]? = some ch → ch.w = BitVec.ofNat 64 (m.start + m.done + whole)) ∧
          ((controlWord m.ctl).bc = false → y.sync = x.sync))) ∧
    (m.op = .cpyo →
      let log := (s.tile (k / 4)).sideLog
      (∀ pa et disc, s.translate x true false (va 0) = .pa pa et disc → s.homeUp x.die pa = false → Happens e s s) ∧
      (∀ pa et, s.translate x true false (va 0) = .pa pa et true → log.length < 256 → s.homeUp x.die pa = true →
        s.allows (s.homeOf pa) master true false = true → ∃ t y p, Happens e s t ∧ t.seat? k = some y ∧
        (t.tile (k / 4)).sideLog = log ++ [p] ∧ p.va = va 0 ∧ p.raised = true ∧ t.hbm = s.hbm ∧
        ∃ f : Frame, y.sys.latched = x.sys.latched ++ [f] ∧ f.cause.toNat % 256 = 0x12) ∧
      (s.translate x true false (va 0) = .untranslated → log.length < 256 → ∃ t y p, Happens e s t ∧ t.seat? k = some y ∧
        (t.tile (k / 4)).sideLog = log ++ [p] ∧ p.seat = k ∧ p.cmd = m.serial ∧ p.va = va 0 ∧
        p.bytes = ((List.range n).map fun i => (va i, Mem.byte x.pads.bytes (from' + i))) ∧ t.hbm = s.hbm ∧ y.sync = x.sync ∧
        (first → m.done + n < m.len → ∀ ch, y.copy.chans[c]? = some ch → ch.w = BitVec.ofNat 64 (m.start + m.done + n))) ∧
      (s.translate x true false (va 0) = .untranslated → 256 ≤ log.length → Happens e s s) ∧
      (∀ cause, s.translate x true false (va 0) = .fault cause → FailsCmd e s x m cause (va 0)) ∧
      ∀ pa et, s.translate x true false (va 0) = .pa pa et false → log = [] → pa % 64 = va 0 % 64 → pa < 2 ^ 47 →
        s.homeUp x.die pa = true →
        let may := s.allows (s.homeOf pa) master true false = true
        (¬may → FailsCmd e s x m 0x11 (va 0)) ∧
        (may → pa / 64 ∈ s.hbmPoison → n < 64 → FailsCmd e s x m 0x13 (va 0)) ∧
        (may → pa / 64 ∉ s.hbmPoison → (∀ i j, i < j → j < n → va i ≠ va j) → ∃ t y, Happens e s t ∧ t.seat? k = some y ∧
          y.pads = x.pads ∧ (∀ i, i < n → Mem.byte t.hbm (pa + va i - va 0) = Mem.byte x.pads.bytes (from' + i)) ∧
          ∀ a, (∀ i, i < n → a ≠ pa + va i - va 0) → Mem.byte t.hbm a = Mem.byte s.hbm a))) ∧
  (∀ (s : State) (k c es i slot : Nat) (x : Seat) (m : Cmd) (ext : Extent) (r : Region), s.Moves k c x m → m.op = .cpyl →
    s.sourceFails x m = false → es = s.cmdElem x .cpyl m.snap m.g → (∀ q ∈ s.cells, q.region < 64 ∧ q.idx < 2 ^ 16) → r.num < 64 → i < 2 ^ 16 →
    let e := Instr.copySectorTranslation k c
    let va := m.gaddr es m.done
    let v : BitVec 512 := BitVec.ofNat 512 (leNat (x.padBytes (m.p + m.done) es))
    let may := s.allows (some (.lattice x.die)) (0x800 + k * 8 + c) true false = true
    let bad := (x.die, r.num, i) ∈ s.cellPoison
    (∀ cause, s.translate x true true va = .fault cause → FailsCmd e s x m cause va) ∧
    (s.translate x true true va = .cell ext → s.cellAt x va = some (r, i, slot) →
      (¬may → FailsCmd e s x m 0x11 va) ∧ (may → bad → FailsCmd e s x m 0x13 va) ∧
      (may → ¬bad → r.type = 3 → isNan64 (v.extractLsb' 0 64) = true → FailsCmd e s x m 0x15 va) ∧
      (may → ¬bad → ¬(r.type = 3 ∧ isNan64 (v.extractLsb' 0 64) = true) → ∃ t, Happens e s t ∧
        t.cell x.die r i = joinCell r.type (s.cell x.die r i) v ∧
        (x.poisoned (m.p + m.done) es = true → (x.die, r.num, i) ∈ t.cellPoison) ∧
        ∀ d (q : Region) j, (d, q.num, j) ≠ (x.die, r.num, i) → t.cell d q j = s.cell d q j))) ∧
  (∀ (s : State) (k c : Nat) (x a b : Seat) (m : Cmd), s.Moves k c x m → m.op = .cpys → m.g < 2 ^ 22 → m.p < 2 ^ 22 →
    s.clusterSeat x (m.g / 2 ^ 19) = some a → s.clusterSeat x (m.p / 2 ^ 19) = some b → s.seat? b.id = some b → b.PadsWf →
    s.sourceFails x m = false →
    let spot := m.p % 2 ^ 19
    let n := min (m.len - m.done) (64 - (spot + m.done) % 64)
    let e := Instr.copySectorTranslation k c
    let torn := b.enginePartial spot (spot + m.len) (spot + m.done) n
    (∀ v, s.portRefusal x m = some v → FailsCmd e s x m 0x11 v) ∧
    (s.portRefusal x m = none → torn = true → FailsCmd e s x m 0x22 (spot + m.done)) ∧
    (s.portRefusal x m = none → torn = false → ∃ t z, Happens e s t ∧ t.seat? b.id = some z ∧
      (∀ i, i < n → Mem.byte z.pads.bytes (m.p % 2 ^ 19 + m.done + i) = Mem.byte a.pads.bytes (m.g % 2 ^ 19 + m.done + i)) ∧
      ∀ q, q < m.p % 2 ^ 19 + m.done ∨ m.p % 2 ^ 19 + m.done + n ≤ q →
        Mem.byte z.pads.bytes q = Mem.byte b.pads.bytes q)) ∧
  (∀ (s : State) (k c : Nat) (x : Seat) (m : Cmd), s.seat? k = some x → x.copy.cmds = [m] → m.ch = c → c < 8 → x.PadsWf →
    (s.tile (k / 4)).sideLog = [] →
    let w := controlWord m.ctl
    let left := BitVec.ofNat 64 ((if m.fault = none then 0 else 2 ^ 63) + (m.len - m.done + m.lost))
    let leaves := fun (e : Instr) (owed : Nat) => ∃ t y, Happens e s t ∧ t.seat? k = some y ∧ y.copy.cmds = [] ∧
      (∀ ch, x.copy.chans[c]? = some ch → ∃ z, y.copy.chans[c]? = some z ∧ z.issued = ch.issued ∧ z.w = ch.issued) ∧
      (w.sig = true → x.SemPlus y w.sem 1) ∧ (w.sig = false → y.sync.sems = x.sync.sems) ∧
      (w.bc = true → ∀ q, x.sync.bars[w.bix]? = some q →
        y.sync.bars[w.bix]? = some { q with b := q.b - BitVec.ofNat 32 owed }) ∧
      (∀ q below : Nat, x.pads.owner[q]? = some (Owner.returning below []) → y.pads.owner[q]? = some Owner.thread) ∧
      y.copy.kills = x.copy.kills.tail ∧ ∀ d i l, x.copy.kills = [(c, m.serial, d, i)] → x.landings = [l] → l.slot = 7 →
        l.due = i + 10 → l.eff = .sReg d (BitVec.allOnes 64) → y.landings = [{ l with eff := .sReg d left }]
    (m.op.isCopy = true → w.rm = false →
      (m.started = true → m.fault = none → m.done = m.len → x.copy.kills = [] → leaves (.copyCompletion k c) m.owed) ∧
      (∀ d i, x.copy.kills = [(c, m.serial, d, i)] → leaves (.cpykRetire k) m.owed)) ∧
    (m.op = .route → m.started = true → m.fault = none → m.done < m.len → w.bc = false →
      let tk := (hField m.snap 13).toNat * (hField m.snap 3).toNat
      let ex := (hField m.snap 4).toNat
      m.len = 8 * tk + 8 * ex + 8 * ((ex + 63) / 64) → s.sourceFails x m = false →
      (x.enginePartial m.p (m.p + m.len) m.p m.len = true → FailsCmd (.routeOutputWrite k c) s x m 0x22 m.p) ∧
      (x.enginePartial m.p (m.p + m.len) m.p m.len = false → ∃ y, Happens (.routeOutputWrite k c) s (s.putSeat y) ∧
        y.padBytes m.p m.len = routeOutput (hField m.snap 3).toNat ex (hField m.snap 14).toNat
          ((List.range tk).map fun i => leNat (x.padBytes (m.g + 4 * i) 4)) ∧
        (∀ q, q < m.p ∨ m.p + m.len ≤ q → Mem.byte y.pads.bytes q = Mem.byte x.pads.bytes q) ∧
        ∀ ch, x.copy.chans[c]? = some ch → ∃ z, y.copy.chans[c]? = some z ∧ z.w = ch.issued))) ∧
  (∀ (q ex cap i : Nat) (ws : List Nat), i < ex → ws.length < 2 ^ 32 →
    let out := routeOutput q ex cap ws
    let raw := (ws.filter fun w => w % 2 ^ 16 == i).length
    out.length = 8 * ws.length + 8 * ex + 8 * ((ex + 63) / 64) ∧
    leNat ((out.drop (8 * ws.length + 4 * i)).take 4) = if cap = 0 then raw else min raw cap) ∧
  (∀ (s : State) (tile pa : Nat) (et : Bool) (p : Parked) (rest : List Parked) (x : Seat) (m : Cmd),
    (s.tile tile).sideLog = p :: rest → s.seat? p.seat = some x → x.copy.cmds.find? (·.serial == p.cmd) = some m →
    s.MemoryWf → p.combine = none → p.poison = false → s.translate x true false p.va = .pa pa et false →
    p.bytes ≠ [] → (p.bytes.map (·.1)).Nodup → (∀ b ∈ p.bytes, b.1 / 64 = p.va / 64) → pa % 64 = p.va % 64 → pa < 2 ^ 47 →
    (s.homeUp x.die pa = false → Happens (.sideLogReplay tile) s s) ∧ (s.homeUp x.die pa = true →
    s.allows (s.homeOf pa) p.master true false = true → pa / 64 ∉ s.hbmPoison → lineMate p (p :: rest) = none →
    ∃ t, Happens (.sideLogReplay tile) s t ∧ (t.tile tile).sideLog = rest ∧
      (∀ b ∈ p.bytes, Mem.byte t.hbm (pa + b.1 - p.va) = b.2) ∧
      ∀ a, (∀ b ∈ p.bytes, a ≠ pa + b.1 - p.va) → Mem.byte t.hbm a = Mem.byte s.hbm a)) ∧
  (∀ (s : State) (k slot : Nat) (x : Seat) (it : Item) (q : List QItem), s.seat? k = some x → s.cursor = none → x.run = .run →
    x.held = some (slot, 1) → x.queue = .exec it :: q → x.copy.waits = [] → (∃ m ∈ x.copy.cmds, m.fault = none) →
    (∀ m ∈ x.copy.cmds, m.fault = none → m.started = false ∧ x.padsServe m = false) → ∃ (f : Frame) (t : State),
      Happens (.copyDeadlock k) s t ∧ f.cause.toNat % 256 = 0x21 ∧
      t.seat? k = some { x with sys := { x.sys with frame := f, monCount := 0 }, run := .trapped, held := none } ∧
      t.holder (k / 4) ≠ some k)

/-! ### Collectives and the ordered class -/

/-- R239, R254, R256, R257, R260, R261, R264, R265, R298, R335, R410, R414 to R416: a table that names the seat not exactly once, or that holds
a refused entry, ends its command COPY_BAD. A count is written to the receive counts, and more than the capacity ends the
command; bytes of a segment land at the offset its counts give, of a block at its rank, of a contribution are combined in, a
neighbour's pad is copied, where the port's table allows it. SENDO enters the switch with its stamp, device and sequence; a message is written, signalled and raises the floor
once every input lets it go and its pad is the engines', where the port's table allows its master; the sender learns of the
refusal. A peer's traffic comes through an open port and is answered through the port that leads to it. Own messages leave by their
port, none before a smaller stamp that is still to be sent, with the port's watermark; a peer's are queued in key order; idle ports send
their watermark; a watermark that stands for 25 microseconds raises ORDER_STALL in the seats that wait and in those whose SENDO is not
yet written, and the scheduler is told. That a torn granule ends a command (log entry 28), that a combination waits for the rebuild of
the words it reads (log entry 30), and in which form this device answers a peer (log entry 3), are the model's choice. -/
def Obligations.CollectivesAndOrder : Prop :=
  (∀ (s : State) (k c : Nat) (x : Seat) (m : Cmd) (bs : List Byte), s.seat? k = some x → x.front c = some m →
    m.op ∈ [.a2av, .ared, .agth, .sendo] → s.mayStart x m = true → s.portRefusal x m = none →
    s.readParts x m.ch (virtualSectors (shapeBase m.snap) (8 * m.ranksN)) = .ok (some (bs, x)) →
    s.sourceFails x m = false → (∀ q ∈ x.copy.cmds, q.serial = m.serial → q = m) →
    let es := rankEntries bs m.ranksN
    let own := (List.range es.length).filter fun i =>
      s.here (es.getD i 0) && s.isNamed (participantOf (es.getD i 0)) x
    let e := Instr.commandStart k c
    (own.length ≠ 1 ∨ (∃ v ∈ es, v % 2 ^ 16 ≠ 0 ∨ 7 < v / 2 ^ 24 % 2 ^ 8 ∨ 63 < v / 2 ^ 16 % 2 ^ 8) →
      FailsCmd e s x m 0x21 (shapeBase m.snap)) ∧
    (∀ r, own = [r] → (∀ v ∈ es, v % 2 ^ 16 = 0 ∧ v / 2 ^ 24 % 2 ^ 8 ≤ 7 ∧ v / 2 ^ 16 % 2 ^ 8 ≤ 63) → m.op = .sendo →
      ∃ t y q o, Happens e s t ∧ t.seat? k = some y ∧ q ∈ y.copy.cmds ∧
        q.serial = m.serial ∧ q.started = true ∧ q.rank = r ∧ q.ranks = es ∧ q.sent = some s.ordSeq.toNat ∧
        t.ordSeq = s.ordSeq + 1 ∧ (t.input 0).queue = insertOrd o (s.input 0).queue ∧ o.stamp = m.stamp.getD s.chorus ∧
        o.dev = s.devNo.getD 0 ∧ o.seq = s.ordSeq.toNat ∧ o.addr = m.p % 2 ^ 19 ∧ o.src = some (x.id, m.serial) ∧
        o.master = 0x800 + x.id * 8 + m.ch ∧ o.data = x.padBytes m.g 64)) ∧
  (∀ (s : State) (k c rank v port : Nat) (peer : BitVec 32) (x : Seat) (m : Cmd), s.seat? k = some x → x.front c = some m → x.PadsWf →
    m.op = .a2av → m.started = true → m.fault = none → m.phase = 0 → rank < m.ranksN → rank ∉ m.heard →
    (∀ q ∈ x.copy.cmds, q.serial = m.serial → q = m) → v < 2 ^ 32 →
    m.heard.length + 1 ≠ m.ranksN →
    let e := Instr.a2avCountArrival k c rank peer port
    let far := s.here (m.ranks.getD rank 0) = false
    let opens := port < 12 ∧ s.podid.getLsbD 12 = true ∧ (s.input (port + 1)).up = true
    let near := fun (z : Seat) (q : Cmd) => s.here (m.ranks.getD rank 0) = true ∧ s.matched m rank = some (z, q)
    let sound := fun (z : Seat) (q : Cmd) => z.parityFails q.aux (4 * q.ranksN) = false ∧ s.pathUp z.id k = true
    (far → ¬opens → Happens e s s) ∧ (∀ z q, near z q → ¬sound z q → Happens e s s) ∧
    ((far ∧ opens ∧ v = peer.toNat) ∨ (∃ z q, near z q ∧ sound z q ∧ v = (z.sendCounts q).getD m.rank 0) →
    let a := m.aux + 4 * m.ranksN + 4 * rank
    let torn := x.enginePartial (m.aux + 4 * m.ranksN) (m.aux + 8 * m.ranksN) a 4
    (torn = true → FailsCmd e s x m 0x22 a) ∧
    (torn = false → ∃ y q, Happens e s (s.putSeat y) ∧ leNat (y.padBytes a 4) = v ∧
      (∀ b, b < a ∨ a + 4 ≤ b → Mem.byte y.pads.bytes b = Mem.byte x.pads.bytes b) ∧ q ∈ y.copy.cmds ∧
      q.serial = m.serial ∧ q.counts = m.counts.set rank v ∧ q.heard = rank :: m.heard))) ∧
  (∀ (s : State) (k c rank port : Nat) (peer : BitVec 32) (x : Seat) (m : Cmd), s.seat? k = some x → x.front c = some m →
    m.op = .a2av → m.started = true → m.fault = none → m.phase = 0 → rank < m.ranksN → rank ∉ m.heard →
    (∀ j, j < m.ranksN → j ≠ m.rank → s.here (m.ranks.getD j 0) = false) → rank ≠ m.rank → m.ranks.length = m.ranksN →
    m.heard.length + 1 = m.ranksN → m.len < (m.counts.set rank peer.toNat).foldl (· + ·) 0 →
    x.enginePartial (m.aux + 4 * m.ranksN) (m.aux + 8 * m.ranksN) (m.aux + 4 * m.ranksN + 4 * rank) 4 = false →
    port < 12 → s.podid.getLsbD 12 = true → (s.input (port + 1)).up = true →
    (∀ v ∈ m.ranks, s.here v = false → (s.portTo (v / 2 ^ 48)).isSome = true) → ∃ t y q,
      Happens (.a2avCountArrival k c rank peer port) s t ∧ t.seat? k = some y ∧ q ∈ y.copy.cmds ∧ q.serial = m.serial ∧
      q.fault = some (0x21, shapeBase m.snap) ∧
      ∀ v ∈ m.ranks, s.here v = false → ∀ p, s.portTo (v / 2 ^ 48) = some p → .bulk p v 11 m.ch .full ∈ t.peerOut) ∧
  (∀ (s : State) (k c rank port back : Nat) (bs : List Byte) (poison : Bool) (x : Seat) (m : Cmd), s.seat? k = some x →
    x.front c = some m → x.PadsWf → m.op = .a2av → m.started = true → m.fault = none → m.phase = 1 → m.pos ≠ 0 → rank < m.ranksN →
    s.here (m.ranks.getD rank 0) = false → bs ≠ [] → m.p < 2 ^ 63 → (∀ q ∈ x.copy.cmds, q.serial = m.serial → q = m) →
    s.portTo (m.ranks.getD rank 0 / 2 ^ 48) = some back →
    let size := m.counts.getD rank 0
    let got := m.got.getD rank 0
    got + bs.length ≤ size →
    let lo := m.p % 2 ^ 19 + sumTo m.counts rank
    let a := lo + got
    let e := Instr.a2avSegmentArrival k c rank (.data bs poison) port
    let opens := port < 12 ∧ s.podid.getLsbD 12 = true ∧ (s.input (port + 1)).up = true
    let may := s.allows (some (.port x.die x.tile)) (0x4820 + port) true false
    let torn := x.enginePartial lo (lo + size) a bs.length
    let word := fun (w : PeerPart) => PeerSend.bulk back (m.ranks.getD rank 0) 11 m.ch w
    (¬opens → Happens e s s) ∧ (opens → may = false → Happens e s { s with peerOut := s.peerOut ++ [word .refused] }) ∧
    (opens → may = true → torn = true → FailsCmd e s x m 0x22 a) ∧
    (opens → may = true → torn = false → ∃ t y, Happens e s t ∧ t.seat? k = some y ∧ y.padBytes a bs.length = bs ∧
      t.peerOut = s.peerOut ++ (if got + bs.length = size then [word .performed] else []) ∧
      (poison = true → ∀ b, a ≤ b → b < a + bs.length → b / 64 ∈ y.pads.poison) ∧
      (∀ b, b < a ∨ a + bs.length ≤ b → Mem.byte y.pads.bytes b = Mem.byte x.pads.bytes b) ∧
      ∃ q ∈ y.copy.cmds, q.serial = m.serial ∧ q.got = m.got.set rank (got + bs.length)) ∧
    (opens → FailsCmd (.a2avSegmentArrival k c rank .mismatch port) s x m 0x21 (shapeBase m.snap)) ∧
    (opens → m.nextRank = rank → m.sub ≠ 0 →
      FailsCmd (.a2avSegmentArrival k c rank .refused port) s x m 0x11 (m.p % 2 ^ 19 + sumTo m.counts m.rank))) ∧
  (∀ (s : State) (k c rank port n : Nat) (peer : PeerPart) (poison : Bool) (bs : List Byte) (x : Seat) (m : Cmd) (op : CmdOp),
    s.seat? k = some x → x.front c = some m → x.PadsWf → m.op = op → op = .ared ∨ op = .agth → m.started = true →
    m.fault = none → rank < m.ranksN → (∀ q ∈ x.copy.cmds, q.serial = m.serial → q = m) →
    let es := elemSize (elemCode m.snap)
    let got := m.got.getD rank 0
    let start := if op = .agth then m.p + rank * m.part else m.p
    let a := start + got
    let may := fun (master : Nat) => s.allows (some (.port x.die x.tile)) master true (op == .ared) = true
    ((s.here (m.ranks.getD rank 0) = false ∧ peer = .data bs poison ∧ bs ≠ [] ∧ got + bs.length ≤ m.part ∧ n = bs.length ∧
        (op = .ared → bs.length % es = 0) ∧ may (0x4820 + port) ∧ port < 12 ∧ s.podid.getLsbD 12 = true ∧
        (s.input (port + 1)).up = true ∧ (s.portTo (m.ranks.getD rank 0 / 2 ^ 48)).isSome = true) ∨
      (s.here (m.ranks.getD rank 0) = true ∧ ∃ z q, s.sender x m rank = some (z, q) ∧ z.id ≠ k ∧ may (chanMaster z.id q.ch) ∧
        n = min (m.part - got) (64 - a % 64) ∧ bs = (q.buf.drop q.sub).take n)) →
    let e := if op = .agth then Instr.agthBlockArrival k c rank peer port else .aredContribution k c rank peer port
    let torn := x.enginePartial start (start + m.part) a bs.length
    let waits := op = .ared ∧ x.parityFails a n = true
    (waits → Happens e s s) ∧ (op = .agth → torn = true → FailsCmd e s x m 0x22 a) ∧
    (¬waits → op = .ared ∨ torn = false → ∃ t y, Happens e s t ∧ t.seat? k = some y ∧ (op = .agth → y.padBytes a bs.length = bs) ∧
      (op = .ared → ∀ i, i < bs.length / es → leNat (y.padBytes (a + es * i) es) =
        combineElem es m.aux (elemCode m.snap) (leNat (x.padBytes (a + es * i) es)) (leNat ((bs.drop (es * i)).take es)) %
          2 ^ (8 * es)) ∧
      (∀ b, b < a ∨ a + bs.length ≤ b → Mem.byte y.pads.bytes b = Mem.byte x.pads.bytes b) ∧
      ∃ q ∈ y.copy.cmds, q.serial = m.serial ∧ q.got = m.got.set rank (got + bs.length))) ∧
  (∀ (s : State) (k c rank port : Nat) (peer : PeerPart) (x z : Seat) (m q : Cmd) (op : CmdOp), s.seat? k = some x →
    x.front c = some m → m.op = op → op = .ared ∨ op = .agth → m.started = true → m.fault = none → rank < m.ranksN →
    s.here (m.ranks.getD rank 0) = true → s.sender x m rank = some (z, q) → s.seat? z.id = some z →
    (∀ j ∈ z.copy.cmds, j.serial = q.serial → j = q) →
    s.allows (some (.port x.die x.tile)) (chanMaster z.id q.ch) true (op == .ared) = false →
    let a := (if op = .agth then m.p + rank * m.part else m.p) + m.got.getD rank 0
    (op = .ared → x.parityFails a (min (m.part - m.got.getD rank 0) (64 - a % 64)) = false) →
    FailsCmd (if op = .agth then Instr.agthBlockArrival k c rank peer port else .aredContribution k c rank peer port) s z q 0x11 a) ∧
  (∀ (s : State) (k c : Nat) (x z : Seat) (m q : Cmd), s.seat? k = some x → x.front c = some m → x.PadsWf → m.op = .rrot →
    m.started = true → m.fault = none → m.heard = [] → s.ringSource x (m.snap.toNat % 16) = some z → s.seat? z.id = some z →
    z.copy.cmds.find? (fun q => q.op == .rrot && q.started && q.ch == m.ch && q.nth == m.nth && q.pos == 0 && q.snap == m.snap) =
      some q → q.buf.length = 4096 → (∀ j ∈ z.copy.cmds, j.serial = q.serial → j = q) →
    let may := z.id = k ∨ s.allows (some (.port x.die x.tile)) (chanMaster z.id q.ch) true false = true
    (¬may → FailsCmd (.rrotPadArrival k c) s z q 0x11 m.p) ∧
    (may → ∃ t y, Happens (.rrotPadArrival k c) s t ∧ t.seat? k = some y ∧
      y.padBytes m.p 4096 = q.buf ∧ ∀ b, b < m.p ∨ m.p + 4096 ≤ b → Mem.byte y.pads.bytes b = Mem.byte x.pads.bytes b)) ∧
  (∀ (s : State) (m n : OrdMsg) (y : Seat), s.participant m.seat = some y → s.seat? y.id = some y → y.PadsWf →
    m.data.length = 64 →
    let e := Instr.sendoDelivery
    (s.localMsgs = [m, n] → m.seat = n.seat → s.released m = false → Happens e s s) ∧
    (s.localMsgs = [m] → y.engineOwned m.addr 64 = false → Happens e s s) ∧
    (s.localMsgs = [m] → s.released m = true → y.engineOwned m.addr 64 = true → s.hubReach 1 y.die = true →
      let may := s.allows (some (.port y.die y.tile)) m.master true false
      let word := fun (written : Bool) => if s.inputOf m = 0 then [] else [PeerSend.word (s.inputOf m - 1) m.dev m.seq written]
      (may = false → m.src = none → ∃ t, Happens e s t ∧ t.seats = s.seats ∧ t.floor = max s.floor m.stamp ∧
        t.peerOut = s.peerOut ++ word false ∧ t.localMsgs = []) ∧
      (∀ k c x q, may = false → m.src = some (k, c) → s.seat? k = some x → x.copy.cmds.find? (·.serial == c) = some q →
        q.op = .sendo → FailsCmd e s x q 0x11 m.addr) ∧
      (may = true → (∀ k c, m.src = some (k, c) → k ≠ y.id) →
      ∃ t z, Happens e s t ∧ t.seat? y.id = some z ∧ z.padBytes m.addr 64 = m.data ∧ t.floor = max s.floor m.stamp ∧
        t.peerOut = s.peerOut ++ word true ∧
        (∀ k c x, m.src = some (k, c) → s.seat? k = some x → ∀ q, x.copy.cmds = [q] → q.serial = c →
          (controlWord q.ctl).bc = false → ∃ w, t.seat? k = some w ∧ w.copy.cmds = [{ q with done := q.done + 64 }]) ∧
        (∀ b, b < m.addr ∨ m.addr + 64 ≤ b → Mem.byte z.pads.bytes b = Mem.byte y.pads.bytes b) ∧
        (∀ j, m.sig = some j → y.SemPlus z j 1) ∧ (m.sig = none → z.sync = y.sync)))) ∧
  (∀ (s : State) (m : OrdMsg), s.released m = true ↔ (∀ i, i < 13 → s.feeds i = true →
    m ∈ (s.input i).queue ∨ (∃ q ∈ (s.input i).queue, m.before q = true) ∨ m.stamp < s.watermark i) ∧
    (m ∈ (s.input 0).queue → ∀ v ∈ s.unsent, m.stamp ≤ v) ∧ ∀ q ∈ s.msgs, ∀ v, q.stamp = some v → m.stamp ≤ v) ∧
  (∀ (s : State) (v : Nat), v ∈ s.unsent ↔ ∃ x ∈ s.seats, v ∈ x.sync.scStamps ∨ x.nextStamp s.floor = some v ∨
    ∃ q ∈ x.copy.cmds, q.op = .sendo ∧ q.sent = none ∧ q.fault = none ∧ q.stamp = some v) ∧
  (∀ (s : State) (p : Nat), let goes := fun (m : OrdMsg) => m ∈ (s.input 0).queue ∧ m.dest ≠ s.devNo.getD 0 ∧ s.portTo m.dest = some p
    s.outMark p ≤ s.chorus ∧ (∀ v ∈ s.unsent, s.outMark p ≤ v) ∧ (∀ m, goes m → s.outMark p ≤ m.stamp) ∧
    (s.outMark p = s.chorus ∨ s.outMark p ∈ s.unsent ∨ ∃ m, goes m ∧ m.stamp = s.outMark p)) ∧
  (∀ (s : State) (i : Nat) (g : PeerMsg), i ≠ 0 → i ≤ 12 → s.podid.getLsbD 12 = true → (s.input i).up = true →
    g.data.length = 64 → (s.input i).mark ≤ g.stamp → g.addr % 64 = 0 → g.addr < 2 ^ 19 → g.dev ≠ s.devNo.getD 0 →
    let o : OrdMsg := { stamp := g.stamp, dev := g.dev, seq := g.seq, dest := s.devNo.getD 0, seat := g.seat, addr := g.addr
                        data := g.data, poison := g.poison, sig := g.sig.map (·.toNat), src := none, master := 0x4820 + (i - 1) }
    (∀ q ∈ (s.input i).queue, q.before o = true) → ∃ t, Happens (.orderedForward i g) s t ∧
      (t.input i).queue = (s.input i).queue ++ [o] ∧ (t.input i).mark = max g.stamp g.mark ∧ ∀ j, j ≠ i → t.input j = s.input j) ∧
  (∀ (s : State) (g : PeerMsg), (∀ m ∈ (s.input 0).queue, m.dest = s.devNo.getD 0) → Happens (.orderedForward 0 g) s s) ∧
  (∀ (s : State) (g : PeerMsg) (p : Nat) (m : OrdMsg) (r : List OrdMsg), (s.input 0).queue = m :: r →
    m.dest ≠ s.devNo.getD 0 → s.portTo m.dest = some p → (∀ v ∈ s.unsent, m.stamp ≤ v) →
    (∀ q ∈ s.msgs, ∀ v, q.stamp = some v → m.stamp ≤ v) → ∃ t, Happens (.orderedForward 0 g) s t ∧
      t.peerOut = s.peerOut ++ [.ordered p m (t.outMark p)] ∧ (t.input 0).queue = r) ∧
  (∀ (s : State) (g : PeerMsg) (v : Nat), v ∈ s.unsent → (∀ m ∈ (s.input 0).queue, v < m.stamp) →
    Happens (.orderedForward 0 g) s s) ∧
  (∀ (s : State) (k c : Nat) (x : Seat) (m : Cmd), s.seat? k = some x → x.copy.cmds = [m] → m.ch = c → m.op = .sendo → m.heard ≠ [] →
    m.fault = none → s.podid.getLsbD 12 = true → FailsCmd (.copyCompletion k c (some false)) s x m 0x11 (m.p % 2 ^ 19) ∧
    ∃ t y, Happens (.copyCompletion k c (some true)) s t ∧ t.seat? k = some y ∧ y.copy.cmds = []) ∧
  (∀ (s : State) (i mark : Nat), i ≠ 0 → i ≤ 12 → s.podid.getLsbD 12 = true → (s.input i).up = true → (s.input i).mark ≤ mark →
    ∃ t, Happens (.beacon i mark) s t ∧ (t.input i).mark = mark ∧ (t.input i).queue = (s.input i).queue) ∧
  (∀ (s : State) (p mark : Nat), s.portUsed p = true → p < 12 → (s.input (p + 1)).up = true → s.portSent.getD p 0 + 100 ≤ s.chorus →
    ∃ t, Happens (.beacon 0 mark) s t ∧ .beacon p (s.outMark p) ∈ t.peerOut ∧ t.seats = s.seats) ∧
  (∀ (s : State) (i : Nat) (m : OrdMsg) (x : Seat), i < 13 → s.feeds i = true → m ∈ s.localMsgs → s.satisfies m i = false →
    s.seat? x.id = some x → s.isNamed m.seat x = true ∨
      (∃ q ∈ x.copy.cmds, q.op = .sendo ∧ q.sent.isSome = true ∧ q.done < q.len ∧ q.fault = none) →
    (s.lastAdvance i + 25000 ≤ s.chorus → ∃ t y f, Happens .orderStall s t ∧ t.seat? x.id = some y ∧
      y.sys.latched = x.sys.latched ++ [f] ∧ f.cause.toNat % 256 = 0x17 ∧ .stall i s.chorus ∈ t.notices ∧ ∀ j, t.input j = { s.input j with
        advanced := (t.input j).advanced }) ∧
    ((∀ j, j < 13 → s.chorus < s.lastAdvance j + 25000) → Happens .orderStall s s))

/-- R279, R280, R283, R285, R294 to R299: a release waits for the messages, outbound commands and parked sectors of its seat that
lie in its scope; then what stood behind it is sent, in the order of issue. A pod-scope release, or an FSC, with bulk traffic asks
its peers, through every port in use, and the answer raises the floor; that one acknowledgement event stands for those of all of them
is the model's choice (log entry 3). A peer that asks is answered with the chorus time once its messages are delivered. An SC operation,
or a SENDO, is stamped at the seat's next wheel position above its release and the floor, and is performed 64 ns later, after every
smaller stamp, made or to come, whatever its target, and the messages of its seat before it. A heartbeat meets the drained seats: FSC
waits for it. -/
def Obligations.ReleasesAndSc : Prop :=
  let ports := fun (s : State) => (List.range 12).filter fun p => s.portUsed p && (s.input (p + 1)).up
  (∀ (s : State) (k : Nat) (x : Seat) (r : Release) (rest : List Deferred), s.seat? k = some x →
    x.sync.relq = .release r :: rest →
    let e := Instr.releasePerformed k
    (∀ m ∈ s.msgs, ∀ y, m.src = k → m.serial < r.below → s.seat? m.dst = some y →
      ((∃ a bs, m.body = .store a bs) ∨ (∃ a n f v c i sc, m.body = .amo a n f v c i sc) ∨ (∃ j n, m.body = .sem j n) ∨
        ∃ j n, m.body = .bar j n) →
      (r.scope = 0 ∧ y.id / 4 = k / 4) ∨ (r.scope = 1 ∧ y.die = x.die ∧ y.cluster = x.cluster) ∨ (r.scope = 2 ∧ y.die = x.die) ∨ 3 ≤ r.scope → Happens e s s) ∧
    (∀ m ∈ s.msgs, ∀ op va v, m.src = k → m.serial < r.below → m.body = .lattice op va v → 2 ≤ r.scope → Happens e s s) ∧
    (∀ m ∈ x.copy.cmds, m.serial < r.cycle → (m.op = .cpyo ∧ 3 ≤ r.scope) ∨
      (m.op = .cpys ∧ m.p < 2 ^ 22 ∧ (s.clusterSeat x (m.p / 2 ^ 19)).isSome = true ∧ 1 ≤ r.scope) → Happens e s s) ∧
    (∀ p ∈ (s.tile (k / 4)).sideLog, p.seat = k → Happens e s s) ∧
    (∀ l ∈ x.landings, ∀ a bs, l.eff = .pad a bs → l.issued < r.cycle → Happens e s s) ∧
    ((∀ m ∈ s.msgs, m.src ≠ k) → x.copy.cmds = [] → (∀ p ∈ (s.tile (k / 4)).sideLog, p.seat ≠ k) →
      (∀ l ∈ x.landings, ∀ a bs, l.eff ≠ .pad a bs) →
      (r.scope = 4 → x.unacked ≠ 0 → (∀ p, .release p k ∉ s.peerOut) → ports s ≠ [] →
        Happens e s { s with peerOut := s.peerOut ++ (ports s).map fun p => .release p k }) ∧
      (r.scope = 4 → x.unacked ≠ 0 → ports s = [] → Happens e s s) ∧
      (r.scope ≠ 4 ∨ x.unacked = 0 → ∀ ms : List Msg, rest = ms.map .msg → ∃ t y, Happens e s t ∧ t.seat? k = some y ∧
        y.sync.relq = [] ∧ y.sync.sems = x.sync.sems ∧ y.sync.bars = x.sync.bars ∧ y.pads = x.pads ∧
        t.msgs.Perm (s.msgs ++ ms) ∧ t.serial = s.serial ∧
        (s.msgs.Pairwise (fun a b => a.serial ≤ b.serial) → t.msgs.Pairwise fun a b => a.serial ≤ b.serial) ∧
        (x.sync.scNeed ≠ 0 → y.sync.scReady = some s.chorus) ∧ (x.sync.scNeed = 0 → y.sync.scReady = x.sync.scReady)))) ∧
  (∀ (s : State) (k : Nat) (x : Seat) (it : Item) (q : List QItem), s.seat? k = some x → x.sync.relq = [] →
    x.queue = .exec it :: q → it.isFsc = true → s.drainedHere x = true → x.unacked ≠ 0 → (∀ p, .release p k ∉ s.peerOut) →
    ports s ≠ [] → Happens (.releasePerformed k) s { s with peerOut := s.peerOut ++ (ports s).map fun p => .release p k }) ∧
  (∀ (s : State) (k time : Nat) (x : Seat), s.seat? k = some x →
    (∀ p, x.unacked ≠ 0 → .release p k ∈ s.peerOut → s.portIn p = true → ∃ t y, Happens (.peerReleaseAck k time) s t ∧
      t.seat? k = some y ∧ y = { x with unacked := 0 } ∧ t.floor = max s.floor time ∧ ∀ q, .release q k ∉ t.peerOut) ∧
    (x.unacked = 0 ∨ (∀ p, .release p k ∈ s.peerOut → s.portIn p = false) → Happens (.peerReleaseAck k time) s s)) ∧
  (∀ (s : State) (k time : Nat) (a : PeerAsk),
    let e := Instr.peerReleaseAck k time (some a)
    let waits := ∃ i ∈ s.inputs.toList, ∃ m ∈ i.queue, m.src = none ∧ m.dev = a.dev
    (waits ∨ s.portIn a.port = false → Happens e s s) ∧
    (¬waits → s.portIn a.port = true →
      Happens e s { s with peerOut := s.peerOut ++ [.released a.port a.dev a.seat s.chorus] })) ∧
  (∀ (s : State) (k r t : Nat) (x : Seat), s.seat? k = some x → x.sync.scReady = some r →
    x.sync.scStamps.length < x.sync.scNeed →
    let at' := fun u => ∃ i, i < x.sync.wheelCnt ∧ (x.sync.wheelFirst + i * x.sync.wheelStride) % 512 = u % 512
    let above := max (max r s.floor) (x.sync.scStamps.getLast?.getD 0)
    above < t → at' t → (∀ u, above < u → u < t → ¬at' u) →
    let unstamped := fun (m : Cmd) => m.op = .sendo ∧ m.p.testBit 63 = true ∧ m.stamp = none ∧ m.sent = none ∧ m.fault = none
    (t ≤ s.chorus → (∀ m ∈ x.copy.cmds, ¬unstamped m) →
      Happens (.scStamp k) s (s.putSeat { x with sync := { x.sync with scStamps := x.sync.scStamps ++ [t] } })) ∧
    (∀ m, t ≤ s.chorus → x.copy.cmds = [m] → unstamped m → Happens (.scStamp k) s (s.putSeat { x with
      sync := { x.sync with scNeed := 0, scReady := none }, copy := { x.copy with cmds := [{ m with stamp := some t }] } })) ∧
    (s.chorus < t → Happens (.scStamp k) s s)) ∧
  (∀ (s : State) (k : Nat) (m : Msg), s.msgs.find? (fun m => m.src == k) = some m → m.stamp = none →
    Happens (.scPerform k) s s) ∧
  (∀ (s : State) (k u : Nat) (m : Msg) (x : Seat), s.msgs.find? (fun m => m.src == k) = some m →
    m.stamp = some u → s.seat? k = some x →
    let e := Instr.scPerform k
    let left := s.takeMsg m
    (s.chorus < u + 64 → Happens e s s) ∧
    let later := fun (y : Seat) => (∀ v ∈ y.sync.scStamps, u ≤ v) ∧ (∀ v, y.nextStamp s.floor = some v → u ≤ v) ∧
      ∀ q ∈ y.copy.cmds, ∀ v, q.isSc = true → q.sent = none → q.fault = none → q.stamp = some v → u ≤ v
    (∀ q ∈ s.msgs, ∀ v, q.stamp = some v → v < u → Happens e s s) ∧
    (∀ y ∈ s.seats, y.id ≠ k → ¬later y → Happens e s s) ∧
    (u + 64 ≤ s.chorus → (∀ q ∈ s.msgs, ∀ v, q.stamp = some v → u ≤ v) → (∀ y ∈ s.seats, y.id ≠ k → later y) →
      s.blocked (s.msgs.findIdx (· == m)) m = false →
      (∀ a n f v c i sc y r d v0, m.body = .amo a n f v c i sc → left.seat? m.dst = some y → y.PadsWf → 0 < n →
        s.pathUp k m.dst = true → y.parityFails a n = false →
        s.allows (some (.port y.die y.tile)) k true true = true → y.pads.owner.getD (a / 4096) .thread = .thread →
        y.pads.owner.getD ((a + n - 1) / 4096) .thread = .thread → y.Clean a n →
        x.remotes.find? (·.id == i) = some r → r.dst = .sReg d v0 →
        let old := leNat (y.padBytes a n)
        let new := amoFn f (8 * n) old (v.toNat % 2 ^ (8 * n)) (c.toNat % 2 ^ (8 * n))
        ∃ z : Seat, y.Stored z [(a, n, new % 2 ^ (8 * n))] ∧ Happens e s { left.putSeat z with
          replies := s.replies ++ [{ seat := k, entry := i, dst := .sReg d (BitVec.ofNat 64 old) }] }) ∧
      (∀ va v r i slot, m.body = .lattice 0x1D va v → x.joinsFirst m.cycle = false →
        s.cellAt x va = some (r, i, slot) → r.num < 64 → i < 2 ^ 16 →
        (∀ q ∈ s.cells, q.region < 64 ∧ q.idx < 2 ^ 16) → r.type ≠ 6 → (x.die, r.num, i) ∉ s.cellPoison →
        s.allows (some (.lattice x.die)) k true false = true → ∃ t, Happens e s t ∧ t.msgs = left.msgs ∧
          t.cell x.die r i = joinCell r.type (s.cell x.die r i) (v.setWidth 512)))) ∧
  (∀ (s : State), (s.chorus % 512 ≠ 0 → Happens .heartbeat s s) ∧
    (s.chorus % 512 = 0 → ∃ t, Happens .heartbeat s t ∧ t.hbm = s.hbm ∧ t.msgs = s.msgs ∧ ∀ k x, s.seat? k = some x →
      let settled := ∀ l ∈ x.landings, ∀ a bs, l.eff ≠ .pad a bs
      let fsc := ∃ it q, x.queue = .exec it :: q ∧ it.isFsc = true
      (s.drained x = true → settled ∨ fsc → ∃ y, t.seat? k = some y ∧ y.regs = x.regs ∧ y.sync = { x.sync with
        fscDrain := match x.sync.fscDrain with | none => some s.chorus | some v => some v }) ∧
      (s.drained x = false ∨ (¬settled ∧ ¬fsc) → t.seat? k = some x)))

/-! ### Translation, the host port and the register blocks -/

/-- R243, R320 to R330, R334, R335, R338, R340, R342, R402, R405, R406, R409: a sector is translated by its extent, its permissions,
its lease and, where it is lazy, the die pair's cache; the page's own bits count with the extent's, and no unbacked address
comes of it. An entry installed serves every address of its page for its lease, and brings the bytes that a page unmapped there
held; a page that cannot be mapped ends the command that holds on it PAGE_FAULT, and a sequencer that waits for it traps. Leases
are renewed when half is over; an unmap waits for the leases over its page. A revived page reads as zeros. A bad flit is answered STATUS 3 and not performed, a write or read
of an unmapped page 2 and of a refused one 1; a write is performed and acknowledged, a read answered with its bytes. A
doorbell word is latched. A hub core writes registers, and renews extents, under the table of their block and its own access code; a
refusal is a bus error. The model's choices: a CPYL outside a lattice extent ends EXTENT whatever the permissions (log entry 23); the
host's access to a page that is not mapped is answered STATUS 2 (log entry 10); every block holds its access table at +0x8000, and a
bus error that the firmware has not taken is told once (log entry 31); the memory processor maps no page onto the area of the journal's
mirror and the slabs (log entry 12). That the bytes of a page come back when it is mapped anew is R332's. -/
def Obligations.TranslationAndHost : Prop :=
  (∀ (s : State) (x : Seat) (write lat : Bool) (va : Nat),
    let perms := fun (m : Mapping) => (write = true → m.w = true) ∧ (write = false → m.r = true)
    let gives := fun (e : Extent) (pa : Nat) (pg : Option Mapping) =>
      ((∃ m, pg = some m ∧ ¬perms m) → s.translate x write lat va = .fault 0x11) ∧
      ((∀ m, pg = some m → perms m) → s.backed pa 1 = false → s.translate x write lat va = .fault 0x10) ∧
      ((∀ m, pg = some m → perms m) → s.backed pa 1 = true →
        s.translate x write lat va = .pa pa (e.et && pg.all (·.et)) (pg.any (·.disc)))
    ((∀ e ∈ x.extents, e.v = true → ¬(e.base ≤ va ∧ va < e.base + e.len)) → s.translate x write lat va = .fault 0x0F) ∧
    (∀ e, x.extents.find? (fun e => e.v && e.base ≤ va && va < e.base + e.len) = some e →
      let may := (write = true → e.w = true) ∧ (write = false → e.r = true)
      (lat = true → e.kind ≠ 2 → s.translate x write lat va = .fault 0x0F) ∧
      (lat = true → e.kind = 2 → ¬may → s.translate x write lat va = .fault 0x11) ∧
      (lat = true → e.kind = 2 → may → s.translate x write lat va = .cell e) ∧
      (lat = false → ¬may ∨ e.kind = 2 → s.translate x write lat va = .fault 0x11) ∧
      (lat = false → may → e.kind ≠ 2 →
        (e.lease ≤ s.chorus → s.translate x write lat va = .untranslated) ∧
        (s.chorus < e.lease → e.kind = 0 → gives e (e.pbase + (va - e.base)) (s.page va)) ∧
        (s.chorus < e.lease → e.kind ≠ 0 →
          ((∀ m ∈ s.caches.getD x.die [], m.covers va = true → m.lease ≤ s.chorus) →
            s.translate x write lat va = .untranslated) ∧
          ∀ m, (s.caches.getD x.die []).find? (fun m => m.covers va && s.chorus < m.lease) = some m →
            gives e (m.pa + (va - m.va)) (some m))))) ∧
  (∀ (s : State) (die va : Nat) (p : PageAnswer), die < 8 → s.diepres.getLsbD die = true →
    let m : Mapping := { va := p.va, pa := p.pa, size := p.size, r := p.r, w := p.w, et := p.et, disc := p.disc, pend := false, lease := 0 }
    let area := 90 * 2 ^ 30 - 4097 * 2 ^ 20
    (m.pa < 90 * 2 ^ 30 → area < m.pa + pageBytes m.size → Happens (.translationInstall die va (some p)) s s) ∧
    (90 * 2 ^ 30 ≤ m.pa ∨ m.pa + pageBytes m.size ≤ area → m.covers va = true → m.valid = true →
    (∀ q ∈ s.pages, q.meets m = false) → s.backed m.pa (pageBytes m.size) = true → ∃ t,
      Happens (.translationInstall die va (some p)) s t ∧ t.pages = s.pages ++ [m] ∧ (∀ a, m.covers a = true →
        t.cached die a = some { m with lease := s.chorus + 1000000 }) ∧ (s.away = [] → t.hbm = s.hbm) ∧
      ∀ w, s.away = [w] → w.va = m.va → w.len = pageBytes m.size → m.pa + w.len ≤ 2 ^ 47 → s.MemoryWf →
        (w.bytes.map (·.1)).Nodup → (∀ c ∈ w.bytes, m.va ≤ c.1 ∧ c.1 < m.va + w.len) → t.away = [] ∧
        ∀ c ∈ w.bytes, Mem.byte t.hbm (m.pa + (c.1 - m.va)) = c.2)) ∧
  (∀ (s : State) (va : Nat) (x : Seat) (m : Cmd), s.seats = [x] → x.copy.cmds = [m] → m.buf = [] → m.op ∈ [.cpyi, .cpyo, .cpyr, .cpyx] →
    x.die < 8 → s.diepres.getLsbD x.die = true → m.started = true → m.fault = none → m.done < m.len → s.page va = none →
    (s.tile (x.id / 4)).sideLog = [] → ∀ a, (x.awaits m).find? (fun a => va / 2 ^ 16 == a / 2 ^ 16 &&
      s.translate x (m.op == .cpyo || m.op == .cpyr) false a == .untranslated) = some a →
    FailsCmd (.translationInstall x.die va none) s x m 0x10 a) ∧
  (∀ (s : State) (die va g a : Nat) (x : Gang) (f : Frame), die < 8 → s.diepres.getLsbD die = true → s.page va = none →
    s.gang? g = some x → x.seqDie = die → x.held = some (a, f) → va / 2 ^ 16 = a / 2 ^ 16 → ∃ t,
    Happens (.translationInstall die va none) s t ∧ t.gang? g = some { x with held := none, seqTrap := some f }) ∧
  (∀ (s : State) (k : Nat) (x : Seat), s.seat? k = some x → k / 256 < 8 → (∀ p ∈ s.pages, p.pend = false) →
    let due := fun (e : Extent) => e.v = true ∧ e.kind ≠ 2 ∧ s.chorus < e.lease ∧ e.lease ≤ s.chorus + 500000
    let block := 0x7F0000000000 + k / 256 * 2 ^ 32 + k / 4 % 64 * 2 ^ 20 + k % 4 * 2 ^ 16
    let may := s.allows (some (.block block)) 0x4830 true false
    ((∃ e ∈ x.extents, due e) → may = false → ∃ t, Happens (.leaseRenewal (k / 256)) s t ∧ t.seat? k = some x ∧
      .busError 0x4830 (block + 0x1000) ∈ t.notices) ∧
    ((∃ e ∈ x.extents, due e) → may = true → ∃ t y, Happens (.leaseRenewal (k / 256)) s t ∧ t.seat? k = some y ∧
      (∀ (i : Nat) e, x.extents[i]? = some e →
        (due e → y.extents[i]? = some { e with lease := s.chorus + 1000000 }) ∧ (¬due e → y.extents[i]? = some e)) ∧
      ∀ (i : Nat) m, (s.caches.getD (k / 256) [])[i]? = some m → s.inUse (k / 256) m = false →
        (t.caches.getD (k / 256) [])[i]? = some m)) ∧
  (∀ (s : State) (va : Nat) (p : Mapping), s.page va = some p →
    (p.pend = false → Happens (.unmap va) s { s with pages := s.pages.map fun q => if q = p then { q with pend := true } else q }) ∧
    (p.pend = true → (∃ h ∈ s.hostMaps, s.chorus < h.lease ∧ h.meets p = true) → Happens (.unmap va) s s) ∧
    (p.pend = true → (∃ x ∈ s.seats, ∃ e ∈ x.extents, e.v = true ∧ e.kind ≠ 2 ∧ s.chorus < e.lease ∧ p.va < e.base + e.len ∧ e.base < p.va +
        pageBytes p.size ∧ e.len ≠ 0) → Happens (.unmap va) s s) ∧
    (p.pend = true → (∀ x ∈ s.seats, ∀ e ∈ x.extents, e.kind ≠ 2 → e.lease ≤ s.chorus) →
      (∀ c ∈ s.caches.toList, ∀ m ∈ c, m.lease ≤ s.chorus) → (∀ h ∈ s.hostMaps, h.lease ≤ s.chorus) → ∃ t,
      Happens (.unmap va) s t ∧ t.pages = s.pages.filter (· != p) ∧ t.away = s.away ++ [s.contents p] ∧ t.hbm = s.hbm ∧ ∀ d m, m ∈ t.caches.getD d [] → m.meets p = false) ∧
    (p.disc = true → s.cursor = none → p.pa + pageBytes p.size ≤ 2 ^ 47 → p.pa % 64 = 0 → ∃ t,
      Happens (.discardDecision va true) s t ∧ (∀ i, i < pageBytes p.size → Mem.byte t.hbm (p.pa + i) = 0) ∧
      (∀ i, i < pageBytes p.size → (p.pa + i) / 64 ∉ t.hbmPoison) ∧ ∀ q ∈ t.pages, q.va = p.va → q.size = p.size → q.disc = false) ∧
    (∀ g x, p.disc = true → s.cursor = none → s.parkedGangs p = [g] → s.gang? g = some x → x.stop = .run → ∃ t,
      Happens (.discardDecision va false) s t ∧ t.Stopping g .kill ∧ t.hbm = s.hbm ∧
      ∀ tile, ∀ e ∈ (t.tile tile).sideLog, ∀ y, s.seat? e.seat = some y → y.gang ≠ g)) ∧
  (∀ (s : State) (f : Flit), f.data.length + f.pad.length = 240 → (f.kind ≠ 3 → f.data.length = min f.len.toNat 240) →
    let ack := fun (n : Nat) => ({ kind := 6, zero := 0, tag := f.tag, status := BitVec.ofNat 8 n, space := f.space, len := 0
                                   addr := f.addr, data := [], pad := List.replicate 240 0 } : Flit)
    let bad := flitBad f = true
    let port := [Instr.hostDoorbell f, .hostWrite f, .hostRead f]
    let answers := fun (i : Instr) (r : Flit) => ∃ t, Happens i s t ∧ t.hostOut = s.hostOut ++ [r] ∧
      { t with hostOut := s.hostOut, hostMaps := s.hostMaps } = s
    (s.portOpen = false → ∀ i ∈ port, Happens i s s) ∧
    (s.portOpen = true → bad → ∀ i ∈ port, Happens i s { s with hostOut := s.hostOut ++ [ack 3] }) ∧
    (bad ↔ f.zero ≠ 0 ∨ 3 ≤ f.space.toNat ∨ (∃ b ∈ (f.data ++ f.pad).drop (min f.len.toNat 240), b ≠ 0) ∨ f.kind ∉ [1, 2, 3] ∨
      (f.kind = 1 ∧ (f.len.toNat % 8 ≠ 0 ∨ f.len = 0 ∨ 240 < f.len.toNat)) ∨
      (f.kind = 2 ∧ (240 < f.len.toNat ∨ f.space = 2 ∨ (f.space = 1 ∧ (f.addr.toNat % 8 ≠ 0 ∨ f.len.toNat % 8 ≠ 0)))) ∨
      (f.kind = 3 ∧ (f.len = 0 ∨ 4096 < f.len.toNat ∨ (f.space = 1 ∧ (f.addr.toNat % 8 ≠ 0 ∨ f.len.toNat % 8 ≠ 0))))) ∧
    (s.portOpen = true → ¬bad →
      (∀ (v : Word64), f.kind = 1 → f.len = 8 → leNat (f.data.take 8) = v.toNat → ∃ t, Happens (.hostDoorbell f) s t ∧
        let old := s.queueOf (v.toNat % 128)
        t.queueOf (v.toNat % 128) = { old with
          kicked := true, seq := v.extractLsb' 32 32, tail := v.extractLsb' 16 16, thaw := old.thaw || v.getLsbD 8 }) ∧
      (let a := f.addr.toNat
       f.space = 0 → a % 64 + f.len.toNat ≤ 64 → 0 < f.len.toNat →
        (s.page a = none → (f.kind = 2 → answers (.hostWrite f) (ack 2)) ∧
          (f.kind = 3 → answers (.hostRead f) { ack 2 with kind := 4 })) ∧
        ∀ p, s.page a = some p →
          let pa := p.pa + (a - p.va)
          let held := s.backed pa 1 = true ∧ (p.pend = false ∨ ∃ h ∈ s.hostMaps, h.covers a = true ∧ s.chorus < h.lease)
          let mayWrite := p.w = true ∧ s.allows (s.homeOf pa) 0x4810 true false = true
          let mayRead := p.r = true ∧ s.allows (s.homeOf pa) 0x4810 false true = true
          (¬held → (f.kind = 2 → answers (.hostWrite f) (ack 2)) ∧ (f.kind = 3 → answers (.hostRead f) { ack 2 with kind := 4 })) ∧
          (held → (f.kind = 2 → ¬mayWrite → answers (.hostWrite f) (ack 1)) ∧
            (f.kind = 3 → ¬mayRead → answers (.hostRead f) { ack 1 with kind := 4 }) ∧
            (f.kind = 2 → mayWrite → p.disc = true → answers (.hostWrite f) (ack 2)) ∧
            (f.kind = 2 → mayWrite → p.disc = false → s.MemoryWf → pa + 64 ≤ 2 ^ 47 → pa / 64 ∉ s.hbmPoison → ∃ t,
              Happens (.hostWrite f) s t ∧ t.hostOut = s.hostOut ++ [ack 0] ∧
              (∀ i, i < f.len.toNat → some (Mem.byte t.hbm (pa + i)) = f.data[i]?) ∧
              ∀ q, q < pa ∨ pa + f.len.toNat ≤ q → Mem.byte t.hbm q = Mem.byte s.hbm q) ∧
            (f.kind = 2 → mayWrite → p.disc = false → pa < 2 ^ 47 → pa / 64 ∈ s.hbmPoison → pa % 64 + f.len.toNat ≤ 64 →
              f.len.toNat < 64 → answers (.hostWrite f) (ack 4)) ∧
            (f.kind = 3 → mayRead → p.disc = false → (pa < 2 ^ 47 → pa / 64 ∉ s.hbmPoison) →
              answers (.hostRead f) { ack 0 with kind := 4, space := 0, len := f.len, data := s.readPa pa f.len.toNat,
                                                 pad := List.replicate (240 - f.len.toNat) 0 }))))) ∧
  (∀ (s : State) (v : Word64),
    let hub := fun (d : Nat) => 0x7F0000000000 + d * 2 ^ 32
    let may := fun (t : Target) (m : Nat) => s.allows (some t) m true false = true
    (may (.block (hub 8)) 0x4832 → Happens (.registerWrite 0x4832 (hub 8 + 0x20) v) s { s with diepres := v.extractLsb' 0 8 }) ∧
    (may (.block (hub 8)) 0x4830 → Happens (.registerWrite 0x4830 (hub 8 + 0x20) v) s s) ∧
    (may (.block (hub 9)) 0x4830 → Happens (.registerWrite 0x4830 (hub 9) v) s { s with podid := v &&& 0x1FFF }) ∧
    (∀ d m, d = 8 ∨ d = 9 → 0x4830 ≤ m → m ≤ 0x4832 → ¬may (.block (hub d)) m →
      Happens (.registerWrite m (hub d) v) s
        (if .busError m (hub d) ∈ s.notices then s else { s with notices := s.notices ++ [.busError m (hub d)] })) ∧
    (∀ master pa, master < 0x4830 ∨ 0x4832 < master → Happens (.registerWrite master pa v) s s) ∧
    (∀ k x, s.seat? k = some x → k < 2048 → s.hubReach 0 (k / 256) = true →
      let block := hub (k / 256) + k / 4 % 64 * 2 ^ 20 + k % 4 * 2 ^ 16
      may (.block block) 0x4830 →
      Happens (.registerWrite 0x4830 (block + 0x28) v) s (s.putSeat { x with sys := { x.sys with monlimit := v.setWidth 32 } }) ∧
      (∀ (i : Nat) e, i < 64 → x.extents[i]? = some e →
        Happens (.registerWrite 0x4830 (block + 0x1000 + 32 * i) v) s
          (s.putSeat { x with extents := x.extents.set i { e with base := v.toNat % 2 ^ 57 } }) ∧
        Happens (.registerWrite 0x4830 (block + 0x1000 + 32 * i + 16) v) s
          (s.putSeat { x with extents := x.extents.set i { e with
            pbase := v.toNat % 2 ^ 48, v := v.getLsbD 48, et := v.getLsbD 51, w := v.getLsbD 52, r := v.getLsbD 53
            kind := (v.extractLsb' 54 2).toNat } })) ∧
      ∀ m, m < 0x4840 → ∃ u, Happens (.registerWrite 0x4830 (block + 0x8000 + 8 * (m / 32)) v) s u ∧
        u.entry (.block block) m = (v.getLsbD (2 * (m % 32) + 1), v.getLsbD (2 * (m % 32))) ∧ u.seats = s.seats) ∧
    (∀ d t m, d < 8 → t < 64 → m < 0x4840 → s.hubReach 0 d = true → may (.port d t) 0x4830 → ∃ u,
      Happens (.registerWrite 0x4830 (0x7F0000048000 + d * 2 ^ 32 + t * 2 ^ 20 + 8 * (m / 32)) v) s u ∧
      u.entry (.port d t) m = (v.getLsbD (2 * (m % 32) + 1), v.getLsbD (2 * (m % 32))) ∧ u.seats = s.seats))

/-! ### The scheduler -/

/-- R21, R341, R349 to R355, R357 to R362, R390, R396, R397, R404, R411 to R413: a completion in the journal is written to its ring
before the scheduler does anything else. The scan clears the kick and then reads the doorbell: it acts on the thaw, leaves a stale
doorbell, remembers a new one, admits no entry of a disabled queue, freezes a queue that is asked for more than its ring holds,
and admits the next entry with its cookie, graph and node. 4,096 records make a checkpoint. In its turn a queue's head ends, is
allotted, or has the lowest and latest gang below it pre-empted; what is allotted starts; a launch with a token is cancelled and
passes it on; a gang of which a stop was asked before it starts halts at bundle 0; a new gang stands at bundle 0 with clear registers,
of which the zero of G0 to G31 and of the vote register is the model's choice (log entry 2). A cluster begins after its offset. The standby takes over with
every doorbell read, every end written and nothing allotted left unstarted. A retry changes nothing; an offset beyond 20 ns sets
LOST and moves no time. -/
def Obligations.Scheduling : Prop :=
  (∀ (s : State) (q g : Nat) (c : Completion) (r : List Completion), s.schedUp = true → s.cursor = none →
    s.unwritten = c :: r → ∀ i ∈ [Instr.schedulerScan q, .checkpoint, .dispatch q, .gangCompletion g], ∃ t st,
      Happens i s t ∧ t.unwritten = r ∧ (t.queueOf c.q).written = (s.queueOf c.q).written + 1 ∧
      t.hostOut = s.hostOut ++ [notifyFlit c.q ((s.queueOf c.q).written % (s.queueOf c.q).size) st]) ∧
  (∀ (s : State) (q : Nat), s.schedUp = true → s.unwritten = [] →
    let x := s.queueOf q
    let e := Instr.schedulerScan q
    let d := (x.seq - x.lseq).toNat
    let a := s.putQueue { x with reading := false, thaw := false }
    let b := a.journalise 1 q x.tail.toNat x.seq.toNat 0 0
    let y : Queue := { x with reading := false, thaw := false, lseq := x.seq }
    let new := (x.tail - x.adm).toNat
    (x.reading = false → x.kicked = false → Happens e s s) ∧
    (x.reading = false → x.kicked = true → Happens e s (s.putQueue { x with kicked := false, reading := true })) ∧
    (x.reading = true → x.thaw = true → x.frozen = true → d = 0 → ∃ t, Happens e s t ∧
      t.queueOf q = { x with reading := false, thaw := false, frozen := false } ∧ t.launches = s.launches) ∧
    (x.reading = true → x.thaw = false →
      (d = 0 ∨ 2 ^ 31 ≤ d → Happens e s a) ∧
      (0 < d → d < 2 ^ 31 →
        (x.en = false → ∃ t, Happens e s t ∧ t.queueOf q = y ∧ t.launches = s.launches) ∧
        (x.en = true → x.size < new + (s.outstanding q).length → ∃ t c, Happens e s t ∧ (t.queueOf q).frozen = true ∧
          (t.queueOf q).lseq = x.seq ∧ (t.queueOf q).adm = x.adm ∧ t.launches = s.launches ∧ t.unwritten = [c] ∧
          c.status = 2 ∧ c.q = q) ∧
        (x.en = true → new = 1 → (s.outstanding q).length < x.size →
          let c := (b.putQueue y).putQueue { y with adm := x.tail }
          ∀ v, c.launchEntry (c.queueOf q) x.adm.toNat = some v → c.admissible (c.launchOf q x.adm.toNat v) v = true → ∃ l t,
            Happens e s t ∧ t.launches = s.launches ++ [l] ∧ (t.queueOf q).adm = x.tail ∧ l.q = q ∧ l.entry = x.adm.toNat ∧
            l.cookie = BitVec.ofNat 64 (v / 2 ^ 448) ∧ l.graph = v / 2 ^ 320 % 2 ^ 64 ∧ l.inst = v / 2 ^ 288 % 2 ^ 32 ∧
            l.node = v / 2 ^ 272 % 2 ^ 16 ∧ l.aff = v / 2 ^ 264 % 2 ^ 8 ∧ l.at' = .waiting)))) ∧
  (∀ (s : State), s.schedUp = true → s.unwritten = [] →
    (s.sinceCheckpoint < 4096 → Happens .checkpoint s s) ∧
    (4096 ≤ s.sinceCheckpoint → ∃ t r, Happens .checkpoint s t ∧ t.jseq = s.jseq + 1 ∧ t.queues = s.queues ∧
      t.journal.getLast? = some r ∧ r.type = 11 ∧ r.jseq = s.jseq ∧ t.snapshots.length ≤ 2 ∧
      t.snapshots.getLast? = some { arg := r.arg, jseq := s.jseq, queues := s.queues, launches := s.launches, tokens := s.tokens,
                                         finished := s.finished, ended := s.ended })) ∧
  (∀ (s : State) (q : Nat), s.unwritten = [] → let e := Instr.dispatch q
    (s.schedUp = false ∨ s.powered = false → Happens e s s) ∧
    (s.schedUp = true → s.powered = true → s.cursor = none →
      (∀ l g x, s.unstarted = some (l, g) → s.gang? g = some x →
        (l.q ≠ q → Happens e s s) ∧
        (l.q = q → (∀ why, x.stop ≠ .allotted (some why)) → ∃ t r, Happens e s t ∧
          t.gang? g = some { x with stop := .run, startAt := s.chorus } ∧ t.journal.getLast? = some r ∧ r.type = 3 ∧ r.arg = g) ∧
        (∀ why, l.q = q → x.stop = .allotted (some why) → x.edge = true → x.level = false → x.serial = 0 → x.waiting = false →
          ∃ t y r, Happens e s t ∧ t.gang? g = some y ∧ y.stop = .haltSent why ∧ y.pc = x.pc ∧ y.forced = x.forced ∧
          t.journal.getLast? = some r ∧ r.type = 3 ∧ r.arg = g)) ∧
      (s.unstarted = none →
        (∀ l, s.cancelled q = some l → ∃ t c, Happens e s t ∧ t.launches = s.launches.filter (·.num != l.num) ∧
          t.unwritten = [c] ∧ c.status = 1 ∧ c.cookie = l.cookie ∧
          (l.graph, l.inst, l.node) ∈ t.ended ∧ t.finished = s.finished ∧
          ∀ i ∈ s.succs l.graph l.node, (l.graph, l.inst, i) ∈ t.tokens) ∧
        (s.cancelled q = none → q ∉ s.turn → Happens e s s) ∧
        (s.cancelled q = none → ∀ r, s.turn = q :: r → ∀ l, s.workOf q = .launch l →
          (∀ st c tag, s.verdict l = .ends st c tag → Happens e s (s.conclude { l with tag := tag } st c false)) ∧
          (∀ t, s.verdict l = .runs t → Happens e s t) ∧ (s.verdict l = .later → Happens e s s) ∧
          (s.verdict l = .blocked → s.victim (s.queueOf q).prio = none → Happens e s s) ∧
          (∀ g t, s.verdict l = .blocked → s.victim (s.queueOf q).prio = some g → s.request g.id .preempt = some t →
            Happens e s t))))) ∧
  (∀ (s : State) (p : Nat) (g : Gang), s.victim p = some g → g ∈ s.gangs ∧ g.prio < p ∧ g.stop = .run ∧
    ∀ o ∈ s.gangs, o.prio < p → (o.stop = .run ∨ o.stop = .ended) ∧
      (o.stop = .run → g.prio < o.prio ∨ (g.prio = o.prio ∧ o.order ≤ g.order))) ∧
  (∀ (s : State) (l : Launch) (h : GraphHead) (n : NodeRec) (k : KernRec), s.graphHead l.graph = some h →
    s.nodeRec h l.node = some n → s.nodeKernel h n = some k → s.kernelOk h k = some () →
    (s.maskOf l n.aff = [] ∨ (s.maskOf l n.aff).length < k.d) → s.verdict l = .ends 5 0 n.tag) ∧
  (∀ (s t : State) (l : Launch), s.verdict l = .runs t → ∃ g, t.gangs = s.gangs ++ [g] ∧ g.pc = 0 ∧
    g.g = Vector.replicate 32 0 ∧ g.vote = 0 ∧ g.loops = [] ∧ g.handlers = [] ∧ g.stop = .allotted none ∧ t.hbm = s.hbm ∧
    ∀ x ∈ t.seats, (∃ y ∈ s.seats, { x with extents := y.extents } = y) ∨ (x.gang = g.id ∧ x.regs.s = Vector.replicate 32 0 ∧ x.regs.p = 1 ∧
      x.regs.v = Vector.replicate 32 0 ∧ x.started = false ∧ x.run = .run ∧ (∀ o ∈ x.pads.owner, o = .thread) ∧
      (∀ v ∈ x.sync.sems, v = 0) ∧ ∀ b ∈ x.sync.bars, b = { x := 0, n := 0, b := 0 })) ∧
  (∀ (s : State) (g cl : Nat) (x : Gang), s.gang? g = some x → x.stop = .run →
    (∃ y ∈ s.seats, y.gang = g ∧ y.id / 32 = cl ∧ y.started = false) →
    let at' := x.startAt + 40 * ((s.phase.getD (cl / 8) 0).toNat / 16 ^ (cl % 8) % 16)
    (s.chorus < at' → Happens (.clusterStart g cl) s s) ∧
    (at' ≤ s.chorus → Happens (.clusterStart g cl) s { s with
      seats := s.seats.map fun y => if y.gang = g ∧ y.id / 32 = cl then { y with started := true } else y })) ∧
  (∀ (s : State) (bad : List Nat), s.booted = true → s.cursor = none →
    (s.schedUp = true → Happens (.schedulerTakeover bad) s { s with schedUp := false }) ∧
    (s.schedUp = false → s.queues.Pairwise (fun a b => a.q < b.q) → ∃ t, Happens (.schedulerTakeover bad) s t ∧
      t.schedUp = true ∧ t.held = [] ∧ t.unwritten = [] ∧ (∀ q ∈ t.queues, q.kicked = false) ∧
      ∀ l ∈ t.launches, ∀ g, l.at' ≠ .dispatched g)) ∧
  (∀ (s : State), Happens .linkRetry s s) ∧
  (∀ (s : State) (offset : Int),
    let on := s.podid.getLsbD 12 = true ∧ s.root = false ∧ s.parentPort < 12 ∧ (s.input (s.parentPort + 1)).up = true
    (¬on → Happens (.chorusSync offset) s s) ∧
    (on → ∃ t, Happens (.chorusSync offset) s t ∧ t.chorus = s.chorus ∧ t.chstat.extractLsb' 32 32 = BitVec.ofInt 32 offset ∧
      t.chstat.getLsbD 1 = true ∧ (t.chstat.getLsbD 0 = true ↔ s.chstat.getLsbD 0 = true ∨ 20 < offset.natAbs)))

/-! ### Stopping, traps, saving -/

/-- R96, R107, R109, R111, R127, R354, R363 to R365, R367, R369, R370, R372, R375, R376: a request at a boundary sends the halt
marker, else it waits for one; a second has no further effect; 80 ns later the halt is forced, and its position is extended where
it is no boundary; one that comes before the gang starts is kept until it does, and during a take-over nothing is pre-empted (R361). The monitor stops a gang whose count has reached its limit. A member stands halted at the marker. A trap
sends the trap marker; with every member stopped the leading cause finds its handler, which starts with no sticky state and no
skip and sees the registers as they were, or the gang fails. A latched cause stops its seat before its next execution. A halted
gang is saved, SAVED is journaled and its seats are free; a failed or hung one is saved and completes; an ended, cancelled or
killed one completes when its members are drained, and so does one that ends at once. A seat that stops passes its issue slot (R94). A saved gang resumes at the position, with the registers that its slabs hold
(how a slab is read back is log entry 11). -/
def Obligations.Stops : Prop :=
  (∀ (s : State) (g : Nat) (x : Gang) (why : StopWhy), s.gang? g = some x → s.cursor = none →
    let e := Instr.preemptionRequest g why
    (why = .preempt → s.schedUp = false → Happens e s s) ∧ (why ≠ .preempt ∨ s.schedUp = true →
    let now := (x.edge = true ∨ x.waiting = true) ∧ (x.level = false ∨ stopEnds why = true) ∧ s.begun x = true
    (x.stop = .run → ¬now → Happens e s (s.putGang { x with stop := .asked why s.chorus })) ∧
    (x.stop = .run → now → ∃ t y, Happens e s t ∧ t.gang? g = some y ∧ y.stop = .haltSent why ∧ y.ext = false ∧ y.pc = x.pc ∧
      ∀ k z, s.seat? k = some z → z.gang = g → ∃ w, t.seat? k = some w ∧ w.transit.getLast? = some .haltMark ∧ w.regs = z.regs) ∧
    (∀ w u, x.stop = .asked w u → stopRank why ≤ stopRank w → Happens e s s) ∧
    (∀ w, x.stop = .haltSent w → stopRank why ≤ stopRank w → Happens e s s) ∧
    (∀ w u, x.stop = .asked w u →
      (s.chorus < u + 80 ∨ (x.level = true ∧ stopEnds w = false) → Happens (.forcedHalt g) s s) ∧
      (u + 80 ≤ s.chorus → s.begun x = true → x.level = false → ∃ t y, Happens (.forcedHalt g) s t ∧ t.gang? g = some y ∧
        y.stop = .haltSent w ∧ y.pc = x.pc ∧ y.ext = !(x.edge || x.waiting) ∧
        y.forced = (x.forced || !(x.edge || x.waiting)))) ∧
    (∀ o : Option StopWhy, x.stop = .allotted o → (∀ w, o = some w → stopRank w < stopRank why) →
      Happens e s (s.putGang { x with stop := .allotted (some why) })))) ∧
  (∀ (s : State) (k : Nat) (x : Seat), s.seat? k = some x → s.cursor = none →
    let n := x.sys.monlimit.toNat
    (n = 0 ∨ x.sys.monCount < 1000 * n → Happens (.monitor k) s s) ∧
    (n ≠ 0 → 1000 * n ≤ x.sys.monCount → ∀ t, s.request x.gang .monitor = some t → Happens (.monitor k) s t) ∧
    (s.scBusy x = true → Happens (.memberHalt k) s s) ∧
    (∀ q, s.scBusy x = false → x.run = .run → x.queue = .haltMark :: q ∨ x.queue = .trapMark :: q → ∃ t y,
      Happens (.memberHalt k) s t ∧ t.seat? k = some y ∧ y.run = .marked ∧ y.queue = q ∧ y.regs = x.regs ∧ y.pads = x.pads ∧
      t.holder (k / 4) ≠ some k) ∧
    (∀ it q, x.run = .run → x.queue = .exec it :: q → Happens (.memberHalt k) s s) ∧
    (∀ f it q g, x.nextCause = some f → x.queue = .exec it :: q → x.run = .run → x.started = true → s.mayReport x it = true →
      s.gang? x.gang = some g → ∃ t y, Happens (.asyncCauseDelivery k) s t ∧ t.seat? k = some y ∧ y.run = .trapped ∧
      t.holder (k / 4) ≠ some k ∧
      y.sys.frame.cause.toNat % 256 = f.cause.toNat % 256 ∧ y.sys.frame.f1 = f.f1 ∧ y.sys.latched = x.sys.latched.erase f ∧
      y.regs = x.regs ∧ y.pads = x.pads ∧ y.queue = x.queue) ∧
    (x.sys.latched = [] → Happens (.asyncCauseDelivery k) s s)) ∧
  (∀ (s : State) (g : Nat) (x : Gang), s.gang? g = some x → s.cursor = none →
    let trapped := x.seqTrap ≠ none ∨ ∃ y ∈ s.seats, y.gang = g ∧ y.run = .trapped ∧ s.meshUp y.die x.seqDie = true
    let goes := fun (stop : GangStop) => ∃ t y, Happens (.trapReport g) s t ∧ t.gang? g = some y ∧ y.stop = stop ∧ y.pc = x.pc ∧ y.held = none
    let sending := x.seqTrap = none ∧ x.sends = true ∧ x.reps ≠ 0 ∧ x.rep ≠ 0
    (¬trapped ∨ sending → Happens (.trapReport g) s s) ∧
    (trapped → ¬sending → (x.stop = .run → goes (.trapSent none false)) ∧ (∀ w u, x.stop = .asked w u → goes (.trapSent (some w) false)) ∧
      (∀ w, x.stop = .haltSent w → goes (.trapSent (some w) false)) ∧ (x.stop = .ended → goes (.trapSent none true))) ∧
    (∀ lead f why ended, s.leader x = some (lead, f) → x.stop = .trapSent why ended →
      let cause := f.cause.toNat % 256
      (s.allStopped g = false → Happens (.handlerEntry g) s s) ∧
      (s.allStopped g = true → why ≠ some .monitor → x.level = true ∨ (∀ h ∈ x.handlers, h.1 ≠ cause) →
        ∃ t y, Happens (.handlerEntry g) s t ∧ t.gang? g = some y ∧ y.stop = .failed cause ∧ y.pc = x.pc) ∧
      (s.allStopped g = true → why = none → x.level = false → ∀ h, x.handlers.find? (·.1 == cause) = some h → ∃ t y,
        Happens (.handlerEntry g) s t ∧ t.gang? g = some y ∧ y.pc = h.2 ∧ y.level = true ∧ y.rep = 0 ∧ y.loops = [] ∧
        y.delay = none ∧ y.stop = .run ∧ y.edge = true ∧ y.g = x.g ∧ y.h = x.h ∧ y.vote = x.vote ∧
        (∃ a, y.asideState = some a ∧ a.pc = x.pc ∧ a.rep = x.rep ∧ a.loops = x.loops ∧ a.standing = x.standing) ∧
        ∀ k z, s.seat? k = some z → z.gang = g → ∃ w, t.seat? k = some w ∧ w.run = .run ∧ w.queue = [] ∧ w.skipDepth = 0 ∧
          w.standing = Vector.replicate 8 Standing.nop ∧ w.regs.s = z.regs.s ∧ w.regs.p = z.regs.p ∧ w.regs.v = z.regs.v ∧
          w.pads = z.pads ∧ w.regs.fmtPend = [] ∧
          ((lead = none → w.sys.frame = f) ∧ (∀ l, lead = some l → z.run ≠ .trapped → w.sys.frame = Frame.zero) ∧
            (∀ l, lead = some l → z.run = .trapped → l.id = k → w.sys.frame.cause = z.sys.frame.cause ||| 0x2000)))) ∧
    (∀ l, s.launches.find? (·.num == x.launch) = some l → s.allStopped g = true →
      let ready := ∀ y ∈ s.seats, y.gang = g → s.saveable y = true
      let halted := ∀ y ∈ s.seats, y.gang = g → y.run = .marked
      (¬halted → ∀ why, x.stop = .haltSent why → why ≠ .monitor → Happens (.save g) s s) ∧ (¬ready → Happens (.save g) s s) ∧
      (∀ why, x.stop = .haltSent why → (why = .cancel ∨ why = .kill) → Happens (.save g) s s) ∧
      (x.stop = .haltSent .thermal → (∃ y ∈ s.gangs, y.savedBefore x = true) → Happens (.save g) s s) ∧
      (ready → halted → ∀ why, x.stop = .haltSent why → why ∉ [.cancel, .monitor, .kill] → (s.schedUp = true ∨ why = .thermal) →
        (why = .thermal → ∀ y ∈ s.gangs, y.savedBefore x = false) → ∃ t v, Happens (.save g) s t ∧
        t.saved = s.saved ++ [v] ∧ v.q = l.q ∧ v.failed = false ∧ v.gang.id = g ∧ v.gang.pc = x.pc ∧
        v.gang.saveCount = x.saveCount + 1 ∧ (∀ y ∈ t.seats, y.gang ≠ g) ∧ (∀ o ∈ t.gangs, o.id ≠ g) ∧
        (∃ r ∈ t.journal, r.jseq = s.jseq ∧ r.type = 4 ∧ r.queue = l.q ∧ r.entry = l.entry ∧ r.arg = g) ∧
        ∀ n ∈ t.launches, n.num = l.num → n.at' = .saved g) ∧
      (let ends := fun (st c : Nat) =>
         ∃ v, (s.endSave x l true).saved = s.saved ++ [v] ∧ v.q = l.q ∧ v.failed = true ∧ v.gang.id = g ∧
           (∃ r ∈ (s.endSave x l true).journal, r.jseq = s.jseq ∧ r.type = 4 ∧ r.queue = l.q ∧ r.arg = g) ∧
           (∀ y ∈ (s.endSave x l true).seats, y.gang ≠ g) ∧
           Happens (.save g) s ((s.endSave x l true).conclude l st c x.forced)
       (ready → x.stop = .haltSent .monitor → (s.schedUp = true ∨ s.held.length < 256) → ends 3 0x1E) ∧
       (ready → ∀ c, x.stop = .failed c → s.schedUp = true → ends 2 c))) ∧
    (∀ l, s.launches.find? (·.num == x.launch) = some l → s.schedUp = true → s.unwritten = [] →
      let mine := fun (p : Seat → Prop) => ∀ y ∈ s.seats, y.gang = g → p y
      let ends := fun (st c : Nat) => Happens (.gangCompletion g) s ((s.reclaim g).conclude l st c x.forced)
      (∀ st c, x.stop = .done st c → mine (fun y => y.run ≠ .run) → ends st c) ∧
      (∀ st c, x.stop = .done st c → (∃ y ∈ s.seats, y.gang = g ∧ y.run = .run) → Happens (.gangCompletion g) s s) ∧
      (x.stop = .run → Happens (.gangCompletion g) s s) ∧
      (x.stop = .haltSent .cancel → mine (fun y => y.run = .marked ∧ s.quiet y = true) → ends 1 0) ∧
      (x.stop = .haltSent .kill → mine (fun y => y.run = .marked ∧ s.quiet y = true) → ends 2 0x12) ∧
      ((∃ y ∈ s.seats, y.gang = g ∧ (y.run ≠ .marked ∨ s.quiet y = false)) →
        x.stop = .ended ∨ x.stop = .haltSent .cancel ∨ x.stop = .haltSent .kill → Happens (.gangCompletion g) s s) ∧
      (x.stop = .ended → mine (fun y => y.run = .marked ∧ y.sys.latched = [] ∧ (∀ m ∈ y.copy.cmds, m.fault ≠ none) ∧
          s.quiet y = true) → ∃ t, Happens (.gangCompletion g) s t ∧ t.gangs = s.gangs.filter (·.id != g) ∧
        (∀ y ∈ t.seats, y.gang ≠ g) ∧ t.launches = s.launches.filter (·.num != l.num) ∧
        (l.graph, l.inst, l.node) ∈ t.finished ∧ (l.graph, l.inst, l.node) ∈ t.ended ∧ ∀ n ∈ t.tokens, n ∈ s.tokens))) ∧
  (∀ (s : State) (g : Nat) (l : Launch) (v : SavedGang) (p : Placement) (rs : List Region) (es : List Extent)
    (r : List Nat), s.launches.find? (fun l => l.at' == .saved g) = some l → s.schedUp = true → s.powered = true →
    s.cursor = none → s.unstarted = none → s.turn = l.q :: r → s.workOf l.q = .resume v → v.gang.id = g →
    let lead := (s.reloaded v).1
    let members := (s.reloaded v).2
    (∀ a, s.refusedSlab v = some a → Happens (.resumption g) s (s.busError 0x4830 a)) ∧
    (s.refusedSlab v = none → s.allCommitted v = false → Happens (.resumption g) s s) ∧
    (s.refusedSlab v = none → s.allCommitted v = true → s.replace v l = some (p, rs, es) → ∃ t y, Happens (.resumption g) s t ∧ y ∈ t.gangs ∧ y.id = g ∧
      y.stop = .run ∧ y.pc = lead.pc ∧ y.rep = lead.rep ∧ y.loops = lead.loops ∧ y.g = lead.g ∧ y.h = lead.h ∧
      y.standing = lead.standing ∧ (p.tiles.length = members.length → p.wheels.length = members.length →
        (let ids := p.tiles.map fun q => 4 * q + s.freeSeat q; ids.Nodup ∧ ∀ y ∈ s.seats, y.id ∉ ids) →
        ∀ x ∈ members, ∃ z ∈ t.seats, z.gang = x.gang ∧ z.regs = x.regs ∧ z.mat = x.mat ∧ z.standing = x.standing ∧
          z.sync.acq = true)))

/-! ### Margins, spares, links -/

/-- R384 to R388, R391, R393, R309, R416: a window of 10^6 executions acts by the first row of R384's table that applies,
and a fence comes at once or with WIN at 3; a record takes what the tile counted; a lost tile's gangs leave it, a
restartable one that kept to itself to wait for a rerun, any other to fail; a stack's two spares are taken and switched to; the
sectors in which a home controller finds an error that it cannot correct are poisoned, and a channel that fails with both spares
in use is poisoned whole; a lane's retrain holds its link, of the mesh or of a hub, for 2 microseconds, and without a spare (log
entry 20) halves it; a link goes down and comes up, a peer port with its input. -/
def Obligations.Margin : Prop :=
  (∀ (s : State) (tile : Nat),
    let t := s.tile tile
    let e := Instr.marginWindow tile
    let r := t.late
    let ceil := (s.physical t).ceil
    let after := fun (u : Tile) => Happens e s (s.putTile { u with window := 0, late := 0 })
    (512 ≤ tile ∨ t.window < 1000000 ∨ t.fencing = true ∨ s.cursor ≠ none → Happens e s s) ∧
    (tile < 512 → 1000000 ≤ t.window → t.fencing = false → s.cursor = none →
      (20 < r → r ≤ 2000 → t.trim < ceil → after { t with trim := t.trim + 5 }) ∧
      (20 < r → r ≤ 2000 → ceil ≤ t.trim → 2200 < t.freq → after { t with freq := t.freq - 100 }) ∧
      (20 < r → r ≤ 2000 → ceil ≤ t.trim → t.freq ≤ 2200 → t.win < 2 → after { t with win := t.win + 1 }) ∧
      (r < 5 → -150 < t.trim → after { t with trim := t.trim - 5 }) ∧
      (r < 5 → t.trim ≤ -150 → t.freq < 2800 → after { t with freq := t.freq + 100 }) ∧
      (5 ≤ r ∧ r ≤ 20 ∨ r < 5 ∧ t.trim ≤ -150 ∧ 2800 ≤ t.freq → after { t with win := 0 }) ∧
      (2000 < r ∨ 20 < r ∧ ceil ≤ t.trim ∧ t.freq ≤ 2200 ∧ 2 ≤ t.win → ∃ u, Happens e s u ∧ s.Fences u tile))) ∧
  (∀ (s : State) (tile : Nat),
    let t := s.tile tile
    let e := Instr.marginRecord tile
    let r := s.physical t
    (512 ≤ tile ∨ t.execs < 1000000000 → Happens e s s) ∧
    (tile < 512 → 1000000000 ≤ t.execs → ∃ u, Happens e s u ∧
      u.tile tile = { t with execs := 0, repl := 0, sknk := 0, ecc := 0 } ∧
      (let n := u.record r.num
       n.exec = r.exec + BitVec.ofNat 64 t.execs ∧ n.repl.toNat = min (2 ^ 32 - 1) (r.repl.toNat + t.repl) ∧
       n.sknk.toNat = min (2 ^ 32 - 1) (r.sknk.toNat + t.sknk) ∧ n.eccn = min 255 (r.eccn + t.ecc) ∧ n.trim = t.trim ∧
       n.freq = t.freq ∧ n.win = t.win ∧ n.log = (t.trim :: r.log).take 1024 ∧ n.drift = t.trim - n.log.getLastD t.trim ∧
       n.ceil = r.ceil ∧ n.fenced = r.fenced ∧ n.subst = r.subst) ∧
      { u with tiles := s.tiles, margin := s.margin } = s)) ∧
  (∀ (s : State) (tile : Nat), let e := Instr.tileLost tile
    let live := s.diepres.getLsbD (tile / 64) = true
    let held := ∃ y ∈ s.seats, y.id / 4 = tile
    (512 ≤ tile ∨ s.cursor ≠ none ∨ ¬(live ∨ held) → Happens e s s) ∧
    (tile < 512 → s.cursor = none → live ∨ held → s.schedUp = true ∨ s.held.length + s.gangs.length ≤ 256 →
      (∃ u, Happens e s u ∧ (∀ y ∈ s.seats, y.id / 4 = tile → ∀ x ∈ u.gangs, x.id ≠ y.gang) ∧
        (live → (s.tile tile).fencing = false → (u.record (s.physical (s.tile tile)).num).fenced = true) ∧
        ∀ y ∈ s.seats, y.id / 4 = tile → ∀ x l, s.gang? y.gang = some x → s.launches.find? (·.num == x.launch) = some l →
          x.kernel.restartable = true →
          (∀ z ∈ s.seats, z.gang = y.gang → z.tied = false ∧ ∀ q ∈ z.copy.cmds, q.op.collective = false) →
          (∀ z ∈ s.gangs, z.launch = x.launch → z = x) → ∀ m ∈ u.launches, m.num = l.num → m.at' = .waiting) ∧
      (∀ g x l, held → (∀ y ∈ s.seats, y.id / 4 = tile → y.gang = g) → s.gang? g = some x →
        s.launches.find? (·.num == x.launch) = some l →
        x.kernel.restartable = false ∨ (∃ z ∈ s.seats, z.gang = g ∧ (z.tied = true ∨ s.namesPeer z (fun _ => true) = true)) →
        let t := (s.reclaim g).conclude l 2 0 x.forced
        Happens e s (if ¬live ∨ (s.tile tile).fencing = true then t else t.fence tile)))) ∧
  (∀ (s : State) (stack chan : Nat),
    let there := stack < 16 ∧ chan < 30 ∧ s.diepres.getLsbD (stack / 2) = true
    let used := (s.spares.filter (·.stack == stack)).length
    let spared := ∃ u ∈ s.spares, u.stack = stack ∧ u.chan = chan
    let copying : SpareUse := { stack := stack, chan := chan, switched := false }
    (¬there ∨ 2 ≤ used ∨ spared → Happens (.hbmChannelSpare stack chan) s s) ∧
    (there → used < 2 → ¬spared → Happens (.hbmChannelSpare stack chan) s { s with spares := s.spares ++ [copying] }) ∧
    (copying ∉ s.spares → Happens (.spareChannelSwitch stack chan) s s) ∧
    (copying ∈ s.spares → Happens (.spareChannelSwitch stack chan) s
      { s with spares := s.spares.map fun u => if u = copying then { u with switched := true } else u }) ∧
    (¬there ∨ used < 2 → Happens (.hbmChannelFailure stack chan none) s s) ∧
    (there → 2 ≤ used → ∃ u, Happens (.hbmChannelFailure stack chan none) s u ∧
      { u with hbmPoison := s.hbmPoison, mirror := s.mirror, snapshots := s.snapshots } = s ∧
      ∀ pa, pa < s.hbmSize → (pa / 64 ∈ u.hbmPoison ↔
        pa / 64 ∈ s.hbmPoison ∨ s.homeOf pa = some (.home (stack / 2) (stack % 2) chan))) ∧
    (∀ sector, there → 64 * sector < s.hbmSize → s.homeOf (64 * sector) = some (.home (stack / 2) (stack % 2) chan) → ∃ u,
      Happens (.hbmChannelFailure stack chan (some [sector])) s u ∧
      { u with hbmPoison := s.hbmPoison, mirror := s.mirror, snapshots := s.snapshots } = s ∧
      ∀ n, n ∈ u.hbmPoison ↔ n ∈ s.hbmPoison ∨ n = sector)) ∧
  (∀ (s : State) (l : Link), let x := s.linkState l
    let goes := fun (e : Instr) (y : LinkState) => ∃ u, Happens e s u ∧ u.linkState l = y ∧ u.hbm = s.hbm ∧ u.gangs = s.gangs ∧
      u.seats = s.seats ∧ ∀ m, normLink m ≠ normLink l → u.linkState m = s.linkState m
    (linkExists l = true ↔ (∃ p, l = .peer p ∧ p < 12) ∨ (∃ h d, l = .hub h d ∧ (h, d) ∈ [(0, 0), (0, 4), (1, 3), (1, 7)]) ∨
      ∃ a b, l = .mesh a b ∧ a < 8 ∧ b < 8 ∧ (a / 4 = b / 4 ∧ (a + 1 = b ∨ b + 1 = a) ∨ a % 4 = b % 4 ∧ a ≠ b)) ∧
    (∀ p, l = .peer p → Happens (.laneSpare l) s s) ∧
    (linkExists l = false ∨ x.retraining = true ∨ x.half = true → Happens (.laneSpare l) s s) ∧
    ((∀ p, l ≠ .peer p) → linkExists l = true → x.retraining = false → x.half = false →
      (x.spared < spareLanes →
        goes (.laneSpare l) { x with spared := x.spared + 1, retraining := true, back := s.chorus + 2000 }) ∧
      (spareLanes ≤ x.spared → goes (.laneSpare l) { x with half := true })) ∧
    (x.retraining = false ∨ s.chorus < x.back → Happens (.retrainEnd l) s s) ∧
    (x.retraining = true → x.back ≤ s.chorus → goes (.retrainEnd l) { x with retraining := false }) ∧
    (linkExists l = false ∨ x.down = true → Happens (.linkFault l) s s) ∧
    (linkExists l = true → x.down = false → goes (.linkFault l) { x with down := true } ∧
      ∀ p, l = .peer p → ∃ u, Happens (.linkFault l) s u ∧ (u.input (p + 1)).up = false) ∧
    (linkExists l = false ∨ x.down = false → Happens (.linkRepair l) s s) ∧
    (linkExists l = true → x.down = true → goes (.linkRepair l) { x with down := false } ∧
      ∀ p, l = .peer p → ∃ u, Happens (.linkRepair l) s u ∧ (u.input (p + 1)).up = true))

/-! ### Power, heat, reset -/

/-- R377, R378, R387, R395, R398 to R402: a stacked pair's clock stretches by a step after more than a microsecond beyond 10
per cent, at most four steps, and comes back step by step below; module power above 3,600 W raises every live die
pair's level, below 3,400 W for 100 microseconds lowers it where the die is cool; 100 degrees sets at least level 4, low flow
level 7; a rise is noticed by every seat there, with a copy to the scheduler of each notice that is latched, and delivered when the seat
next issues, as a trap of kind N where a handler is installed, but not while its gang is being halted (R403);
105 degrees of a die pair or hub saves, 115 degrees trips the die pairs or, at hub 0, the module; below 95 degrees all resumes, and
die pairs that lost power are brought up again; an energy sample is written or counted as dropped; module reset keeps the margin
tables but for WIN and ECCN, tests the tiles, and brings up the die pairs that trained and are not worn out. The power estimate of a
sample is a free value (log entry 9). The model's choices: what HBM and the host windows hold after a reset or a trip of the module
(log entry 1), the queues of a reset module (log entry 2), and with what a reset module goes on where its journal is committed (log entry 32). -/
def Obligations.PowerAndReset : Prop :=
  (∀ (s : State) (die pair : Nat) (diff : Int), let e := Instr.currentBalance die pair diff
    (8 ≤ die ∨ 4 ≤ pair → Happens e s s) ∧
    (die < 8 → pair < 4 → ∃ u, Happens e s u ∧ { u with power := s.power } = s ∧
      { u.power with stretch := s.power.stretch } = s.power ∧
      let x := s.stretchOf die pair
      let y := u.stretchOf die pair
      let due := x.stepped + 1000 ≤ s.chorus
      let sameSide := x.steps = 0 ∨ (x.upper = true ↔ 0 < diff)
      (10 < diff.natAbs → sameSide → y.since = some (x.since.getD s.chorus) ∧ (y.upper = true ↔ 0 < diff) ∧
        (y.steps = x.steps + 1 ↔ x.since.getD s.chorus + 1000 < s.chorus ∧ x.steps < 4 ∧ due) ∧
        (y.steps = x.steps ∨ y.steps = x.steps + 1)) ∧
      (diff.natAbs < 10 → y.since = none ∧ y.steps = if due then x.steps - 1 else x.steps))) ∧
  (∀ (s : State) (mw : Nat), let e := Instr.powerThrottle mw
    let rises := ∃ u, Happens e s u ∧ u.power.rose = some s.chorus ∧ u.power.lowSince = none ∧ u.gangs = s.gangs ∧
      (∀ d, d < 8 → u.power.level.getD d 0 = if s.diepres.getLsbD d = true then min 7 (s.power.level.getD d 0 + 1)
        else s.power.level.getD d 0) ∧
      s.Told u ∧ ∀ k x, s.seat? k = some x → x.die < 8 → s.diepres.getLsbD x.die = true → s.power.level.getD x.die 0 < 7 →
        ∃ y, u.seat? k = some y ∧ x.Noticed y s.chorus 1 ∧
          (x.sys.thrstat.getLsbD 0 = false → .throttle k y.sys.thrstat ∈ u.notices)
    (∀ t, 3600000 < mw → s.power.rose = some t → s.chorus < t + 10000 →
      Happens e s { s with power := { s.power with lowSince := none } }) ∧
    (∀ t, 3600000 < mw → s.power.rose = some t → t + 10000 ≤ s.chorus → rises) ∧
    (3600000 < mw → s.power.rose = none → rises) ∧
    (3400000 ≤ mw → mw ≤ 3600000 → Happens e s { s with power := { s.power with lowSince := none } }) ∧
    (mw < 3400000 → s.power.lowSince = none → Happens e s { s with power := { s.power with lowSince := some s.chorus } }) ∧
    (∀ t, mw < 3400000 → s.power.lowSince = some t → s.chorus < t + 100000 → Happens e s s) ∧
    (∀ t, mw < 3400000 → s.power.lowSince = some t → t + 100000 ≤ s.chorus → ∃ u, Happens e s u ∧ u.seats = s.seats ∧
      u.gangs = s.gangs ∧ ∀ d, d < 8 → u.power.level.getD d 0 =
        if s.diepres.getLsbD d = true ∧ s.power.celsius.getD d 0 < 100 then s.power.level.getD d 0 - 1
        else s.power.level.getD d 0)) ∧
  (∀ (s : State) (die c : Nat), let e := Instr.thermalThrottle die c
    (10 ≤ die → Happens e s s) ∧
    (die = 8 ∨ die = 9 →
      Happens e s { s with power := { s.power with celsius := s.power.celsius.setIfInBounds die c } }) ∧
    (die < 8 → ∃ u, Happens e s u ∧ u.power.celsius.getD die 0 = c ∧ u.gangs = s.gangs ∧
      (c < 100 → u.power.level = s.power.level ∧ u.seats = s.seats) ∧
      (100 ≤ c → u.power.level.getD die 0 = max (s.power.level.getD die 0) 4) ∧
      s.Told u ∧ ∀ k x, s.seat? k = some x → x.die = die → 100 ≤ c → s.power.level.getD die 0 < 4 →
        ∃ y, u.seat? k = some y ∧ x.Noticed y s.chorus 2 ∧
          (x.sys.thrstat.getLsbD 0 = false → .throttle k y.sys.thrstat ∈ u.notices))) ∧
  (∀ (s : State), ∃ u, Happens .coolantFlowLow s u ∧ u.gangs = s.gangs ∧ (∀ d, d < 8 → u.power.level.getD d 0 = 7) ∧
    s.Told u ∧ ∀ k x, s.seat? k = some x → x.die < 8 → s.power.level.getD x.die 0 < 7 →
      ∃ y, u.seat? k = some y ∧ x.Noticed y s.chorus 2 ∧
        (x.sys.thrstat.getLsbD 0 = false → .throttle k y.sys.thrstat ∈ u.notices)) ∧
  (∀ (s : State) (k : Nat) (x : Seat) (g : Gang) (it : Item) (q : List QItem), let e := Instr.throttleNoticeDelivery k
    s.seat? k = some x → s.gang? x.gang = some g → x.queue = .exec it :: q →
    let clear := { x with sys := { x.sys with thrstat := x.sys.thrstat &&& ~~~1 } }
    (x.sys.thrstat.getLsbD 0 = false ∨ it.handler = true → Happens e s s) ∧
    (∀ w u, g.stop = .asked w u ∨ g.stop = .haltSent w → Happens e s s) ∧
    (g.stop = .run ∨ g.stop = .ended → s.cursor = none → x.run = .run → x.started = true → x.sync.scNeed = 0 → x.sys.thrstat.getLsbD 0 = true →
      it.handler = false → x.sys.latched = [] →
      let issues := s.maySlot x = true ∧ (it.blocking = true → x.go = true ∧ x.passesWait it = true)
      (¬issues → Happens e s s) ∧
      (issues → (∀ h ∈ g.handlers, h.1 ≠ 0x1F) → Happens e s (s.putSeat clear)) ∧
      (issues → (∃ h ∈ g.handlers, h.1 = 0x1F) → ∃ t y, Happens e s t ∧ t.seat? k = some y ∧ y.run = .trapped ∧
        y.sys.thrstat = clear.sys.thrstat ∧ y.sys.frame.cause.toNat % 256 = 0x1F ∧ y.regs = x.regs ∧ y.pads = x.pads ∧
        y.queue = x.queue))) ∧
  (∀ (s : State), ((∀ d ∈ s.power.celsius.toList, d < 105) ∨ s.power.hot = true ∧ ∀ x ∈ s.gangs, x.exposed = false) →
    Happens .emergencySave s s) ∧
  (∀ (s : State), s.cursor = none → (∃ d ∈ s.power.celsius.toList, 105 ≤ d) →
    (s.power.hot = false ∨ ∃ x ∈ s.gangs, x.exposed = true) →
    ∃ u, Happens .emergencySave s u ∧ u.power.hot = true ∧ ∀ g x, s.gang? g = some x → (∀ z ∈ s.gangs, z.id = g → z = x) →
      (x.stop = .run ∨ ∃ t, x.stop = .asked .preempt t) → (x.level = false → u.Stopping g .thermal) ∧
        (x.level = true → ∃ y, u.gang? g = some y ∧ y.stop = .done 4 0)) ∧
  (∀ (s : State), s.cursor = none →
    let hub0 := s.power.celsius.getD 8 0
    (hub0 < 115 → Happens (.hardTrip true) s s) ∧ (115 ≤ hub0 → Happens (.hardTrip false) s s) ∧
    (115 ≤ hub0 → ∃ u, Happens (.hardTrip true) s u ∧ u.moduleOn = false ∧ u.powered = false ∧ u.hbm = [] ∧ u.seats = [] ∧
      u.gangs = [] ∧ u.margin = s.margin) ∧
    (s.powered = false ∨ (∀ d ∈ s.power.celsius.toList, d < 115) → Happens (.hardTrip false) s s) ∧
    (s.powered = true → hub0 < 115 → (∃ d ∈ s.power.celsius.toList, 115 ≤ d) →
      s.schedUp = true ∨ s.held.length + s.gangs.length ≤ 256 → (∃ u, Happens (.hardTrip false) s u ∧ u.powered = false ∧ u.moduleOn = s.moduleOn ∧ u.gangs = [] ∧ u.seats = [] ∧
        u.msgs = [] ∧ u.cells = [] ∧ u.margin = s.margin ∧ u.pages = s.pages) ∧
      (s.gangs = [] → Happens (.hardTrip false) s s.pairsOff) ∧
      ∀ x l, s.gangs = [x] → s.launches.find? (·.num == x.launch) = some l →
        (s.outcome x = none → Happens (.hardTrip false) s ((s.reclaim x.id).pairsOff.conclude l 4 0 x.forced)) ∧
        ∀ o, s.outcome x = some o → Happens (.hardTrip false) s ((s.reclaim x.id).pairsOff.conclude l o.1 o.2 x.forced))) ∧
  (∀ (s : State) (i : Nat), i < 512 →
    let own := recordNo i
    let eft := i / 64 * 72 + i % 64 / 8 * 9 + 8
    let t := s.selfTest [i]
    ((s.record own).fenced = false → (t.record own).fenced = true ∧ (t.record eft).subst = true) ∧
    ((s.record own).fenced = true → (t.record eft).fenced = true) ∧ { t with margin := s.margin } = s ∧ s.selfTest [] = s) ∧
  (∀ (s : State) (failed bad : List Nat), let e := Instr.thermalResume failed bad
    let tested := s.selfTest bad
    (s.power.hot = false ∨ (∃ d ∈ s.power.celsius.toList, 95 ≤ d) → Happens e s s) ∧
    (s.power.hot = true → (∀ d ∈ s.power.celsius.toList, d < 95) →
      let cool := { s with powered := true, power := { s.power with hot := false } }
      (s.powered = true → Happens e s cool) ∧
      (s.powered = false → ∃ u, Happens e s u ∧
        { u with diepres := s.diepres, tiles := s.tiles, phase := s.phase, mirror := s.mirror, flash := s.flash,
                 margin := s.margin } = cool ∧ u.margin = tested.margin ∧
        (∀ d, u.diepres.getLsbD d = true ↔ d < 8 ∧ d ∉ failed ∧ tested.worn d = false) ∧
        (∀ d, u.phase.getD d 0 = if d < 8 then 0x76543210 else 0) ∧ u.flash = [] ∧
        (∀ r, s.flash.getLast? = some r → r ∈ u.mirror) ∧
        ∀ i, i < 512 → (u.tile i).eft = (tested.record (recordNo i)).fenced))) ∧
  (∀ (s : State) (k : Nat) (x : Seat), s.seat? k = some x →
    let e := Instr.energySample k
    let v := x.sys.ensample
    let pad := (v.extractLsb' 12 7).toNat
    let idx := (v.extractLsb' 48 8).toNat
    let a := 4096 * pad + 16 * idx
    let due := s.cursor = none ∧ v.getLsbD 0 = true ∧ x.run = .run ∧ s.holder (k / 4) = some k ∧
      s.chorus % 2 ^ (v.extractLsb' 1 5).toNat = 0 ∧ x.sys.sampled ≠ some s.chorus
    let taken := fun (w : Word64) => { x.sys with ensample := w, sampled := some s.chorus }
    (¬due → Happens e s s) ∧
    (due → pad < x.pads.count → x.pads.owner.getD pad .thread = .engine → x.PadsWf → ∃ y w,
      Happens e s { s.putSeat y with free := s.free + 1 } ∧ y.sys = taken w ∧ { y with pads := x.pads, sys := x.sys } = x ∧
      (w.extractLsb' 48 8).toNat = (idx + 1) % 256 ∧ w &&& 0xFF00FFFFFFFFFFFF = v &&& 0xFF00FFFFFFFFFFFF ∧
      leNat (y.padBytes a 3) = ((x.cur.map (·.pc)).getD 0) % 2 ^ 24 ∧ y.padBytes (a + 3) 1 = [0] ∧
      leNat (y.padBytes (a + 4) 4) = (Config.energyEstimate s.free).toNat ∧
      leNat (y.padBytes (a + 8) 8) = s.chorus % 2 ^ 64 ∧
      ∀ q, q < a ∨ a + 16 ≤ q → Mem.byte y.pads.bytes q = Mem.byte x.pads.bytes q) ∧
    (due → x.pads.count ≤ pad ∨ x.pads.owner.getD pad .thread ≠ .engine → ∃ w,
      Happens e s { s.putSeat { x with sys := taken w } with free := s.free + 1 } ∧
      (w.extractLsb' 40 8).toNat = min 255 ((v.extractLsb' 40 8).toNat + 1) ∧
      w &&& 0xFFFF00FFFFFFFFFF = v &&& 0xFFFF00FFFFFFFFFF)) ∧
  (∀ (s : State) (failed bad : List Nat) (committed : Bool), let tested := s.selfTest bad
    ∃ u, Happens (.moduleReset failed bad committed) s u ∧ u.booted = true ∧ u.moduleOn = true ∧
    u.powered = true ∧ u.schedUp = true ∧ u.gangs = [] ∧ u.seats = [] ∧ u.unwritten = [] ∧ u.held = [] ∧ u.cursor = none ∧
    (committed = false → u.hbm = [] ∧ u.queues = [] ∧ u.journal = [] ∧ u.launches = [] ∧ u.saved = []) ∧
    (committed = true → u.pages = s.pages ∧ ∀ l ∈ u.launches, ∀ g, l.at' ≠ .dispatched g ∧ l.at' ≠ .running g) ∧
    u.margin.length = tested.margin.length ∧
    (∀ (i : Nat) r, tested.margin[i]? = some r → u.margin[i]? = some { r with win := 0, eccn := 0 }) ∧
    (∀ d, u.phase.getD d 0 = if d < 8 then 0x76543210 else 0) ∧
    (∀ d, u.diepres.getLsbD d = true ↔ d < 8 ∧ d ∉ failed ∧ tested.worn d = false) ∧
    (u.portOpen = true ↔ u.diepres ≠ 0) ∧
    ∀ i, i < 512 → (u.tile i).eft = (tested.record (recordNo i)).fenced ∧
      let r := tested.record (if (u.tile i).eft = true then i / 64 * 72 + i % 64 / 8 * 9 + 8 else recordNo i)
      (u.tile i).trim = r.trim ∧ (u.tile i).freq = r.freq)

/-! ### The machine as a whole -/

/-- R54, R55, R59, R60, R77 to R89: the words of every well-formed operation, with every value of every operand that its
encoding admits, decode to it again, whatever stands in a literal that it does not have; a NOP decodes in every slot. What a word
decodes to is a well-formed operation of the slot whose words are these; an opcode that the slot's table does not assign is
ILLEGAL_OP, and every other word that no operation stands for is ILLEGAL_FIELD. -/
def Obligations.DecodeEncode : Prop :=
  (∀ (i : Instr) (sl : Slot) (l : Word32), i.slot = some sl → i.wf = true → (∀ k, i.literal = some k → l = k) →
    ∃ w, encode i = w :: i.literal.toList ∧ decode sl w l = .ok i) ∧
  (∀ (o : BitVec 1) (sl : Slot) (l : Word32), ∃ w, encode (.nop o) = [w] ∧ decode sl w l = .ok (.nop o)) ∧
  ∀ (sl : Slot) (w l : Word32),
    (∀ i, decode sl w l = .ok i → i.StandsAs sl w l) ∧
    (sl.lastOp < (w.extractLsb' 23 6).toNat → decode sl w l = .error .illegalOp) ∧
    ((w.extractLsb' 23 6).toNat ≤ sl.lastOp → (∀ i : Instr, ¬i.StandsAs sl w l) → decode sl w l = .error .illegalField)

/-- Every step keeps the canonical form of device memory and host windows, and with it that of every pad, resident, in the open
execution or saved: addresses rise, no listed byte is zero (the byte that an unlisted address reads as is the model's choice, log
entry 1). Every step keeps the regions, cells, marks and exchanged cells within 64 regions of 65,536 cells. And it keeps the seats'
numbers apart, where the members of the saved gangs stood apart. -/
def Obligations.MemoryInvariant : Prop := ∀ s t : State, step s = .next t →
  (s.MemoryWf → t.MemoryWf) ∧
  (s.MemoryWf → s.PadsWf → t.PadsWf) ∧
  (s.CellsWf → t.CellsWf) ∧
  (s.SeatsApart → (∀ v ∈ s.saved, v.Apart) → t.SeatsApart)

/-- R6, R94, R106, R307, R329, R382, R396, R398, R402, R411, R413: at reset the memory has its canonical form, no gang, seat,
message, page, access entry or queue exists, the phase tables start cluster k after k steps, the exchange schedule has its
period and pairs, the pads, the lattice cells and the seats' numbers their forms, the chorus registers and counters hold their reset values. The zero of DIEPRES before start-up is the
model's choice (log entry 2), and so is the empty page table (log entry 10). -/
def Obligations.Reset : Prop :=
  let s := State.reset
  s.MemoryWf ∧ s.PadsWf ∧ s.CellsWf ∧ s.SeatsApart ∧ s.gangs = [] ∧ s.seats = [] ∧ s.msgs = [] ∧ s.pages = [] ∧ s.access = [] ∧ s.queues = [] ∧ s.journal = [] ∧
  s.cursor = none ∧ s.diepres = 0 ∧ s.booted = false ∧ s.portOpen = false ∧ s.podid = 0 ∧ s.chparent = 0x10 ∧ s.chstat = 0 ∧
  (∀ d, d < 8 → s.phase.getD d 0 = 0x76543210 ∧ s.lxPeriod.getD d 0 = 0x307D0 ∧ s.power.level.getD d 0 = 0 ∧
    (s.lxRound.getD d (Vector.replicate 8 0)).getD 0 0 = 0x67452301) ∧
  ∀ i, (s.tile i).skink = 0 ∧ (s.tile i).timing = 0 ∧ (s.tile i).holder = none

/-- R118, R136, R144, R150, R187, R192, R197, R233, R313, R315: words of the spec's worked examples decode to the operations
they are given for. -/
def Obligations.DecodedWords : Prop :=
  let t : Tag := { o := 0, r := 0, p := 0 }
  decode .uni 0x090A2000 0 = .ok (.vote 0 5 4 0) ∧
  decode .ctl 0x4108007D 0 = .ok (.brv 1 0 0x7D none) ∧
  decode .ctl 0x47803000 0 = .ok (.fmtw 0 6) ∧
  decode .adr 0x0A10C2A0 0 = .ok (.tadr t 2 6 5 2) ∧
  decode .adr 0x078235C0 0 = .ok (.cmp t 0 1 6 46 0) ∧
  decode .adr 0x8B8E2020 0x50000040 = .ok (.ldr t 7 4 0 2 0x50000040) ∧
  decode .adr 0x870E0000 0x8000 = .ok (.adrLi t 7 0 (some 0x8000)) ∧
  decode .adr 0x0F8A3830 0 = .ok (.linc t 5 7 0 none) ∧
  decode .vec 0x0EA00840 0 = .ok (.mspush t 2 0 1 2) ∧
  decode .vec 0x89080800 0x7AC = .ok (.vcvt t 4 1 0x7AC) ∧
  decode .xfr 0x80A06320 0x85002200 = .ok (.cpyi t 4 3 6 2 (some 0x85002200)) ∧
  decode .uni 0x0E000000 0 = .error .illegalOp ∧
  decode .uni 0x090A2001 0 = .error .illegalField

/-- R8, R54, R80, R87 to R89, R363, R402: while an execution is open a step decodes its next slot and is exec of that operation,
after which the next slot comes, or what a trap or a hold left; a word that is no operation traps with its cause; after
the last slot the execution commits. Between executions a step is the first event of the agenda at its time (which agent
moves next is the model's, log entry 3). A NOP changes nothing. A module without power takes no step but its reset. The
state that withFetchWord places (log entry 6) has the operation of its words next. -/
def Obligations.StepRuns : Prop :=
  (∀ (s : State) (c : Cursor) (sl : Slot) (w l : Word32), s.moduleOn = true → s.cursor = some c → c.done = false →
    c.word = (sl, w, l) →
    (∀ i t, decode sl w l = .ok i → exec i s = .next t → step s = .next (t.afterSlot c) ∧
      (t.cursor = some c → t.afterSlot c = { t with cursor := some c.next }) ∧
      (∀ g n b, c = .seqr g n b → t.cursor = none → t.afterSlot c = t)) ∧
    (∀ i f, decode sl w l = .ok i → exec i s = .fault f → step s = .fault f) ∧
    (∀ i r, decode sl w l = .ok i → exec i s = .refused r → step s = .refused r) ∧
    (∀ e k base, decode sl w l = .error e → ∀ n, c = .seat k n base → s.seat? k ≠ none → base.id = k → base.cur ≠ none →
      ∃ u, step s = .next u ∧ u.cursor = none ∧
        u.seat? k = some (base.trapF { cause := if e = .illegalOp then 1 else 2, addr := 0 } n)) ∧
    (∀ e g base, decode sl w l = .error e → ∀ n, c = .seqr g n base → step s =
      s.seqTraps base n { cause := if e = .illegalOp then 1 else 2, addr := 0 })) ∧
  (∀ (s : State) (c : Cursor), s.moduleOn = true → s.cursor = some c → c.done = true →
    (∀ t k why r, s.agenda ≠ (t, .timingReplay k why) :: r) → step s = .next (s.commit.nextTurn c)) ∧
  (∀ (s : State) (t : Nat) (e : Instr) (r : List (Nat × Instr)), s.moduleOn = true → s.cursor = none →
    s.agenda = (t, e) :: r → step s = exec e { s.tick t with agenda := r }) ∧
  (∀ (s : State) (o : BitVec 1), exec (.nop o) s = .next s) ∧
  (∀ (s : State), s.moduleOn = false →
    ((∀ t failed bad committed r, s.agenda ≠ (t, .moduleReset failed bad committed) :: r) → step s = .fault .unpowered) ∧
    ∀ t failed bad committed r, s.agenda = (t, .moduleReset failed bad committed) :: r →
      step s = exec (.moduleReset failed bad committed) { s with agenda := r }) ∧
  (∀ (s : State) (n v : Nat) (sl : Slot) (i : Instr),
    decodeAnySlot (BitVec.ofNat 32 v) (BitVec.ofNat 32 (v / 2 ^ 32)) = some (sl, i) →
    ∃ c, (s.withFetchWord n v).cursor = some c ∧ c.done = false ∧ (s.withFetchWord n v).moduleOn = true ∧
      c.word = (sl, BitVec.ofNat 32 v, BitVec.ofNat 32 (v / 2 ^ 32)) ∧
      decode sl (BitVec.ofNat 32 v) (BitVec.ofNat 32 (v / 2 ^ 32)) = .ok i)

/-- R8, R63, R68, R116, R117, R363: what operations of a bundle leave unchanged. None changes anything but seats and gangs, and the
issue slot of the tile where a seat traps (R94): device memory, lattice, messages, system state stay until the execution commits. A tile operation that ends neither in a trap nor
in a hold changes no S, P or V register as it executes, and no other seat; one that only lands a result changes nothing
else; one that stores to scratchpad changes no register, no owner and no other unit. A UNI operation changes results on
their way, and VOTE what it waits for. -/
def Obligations.Frames : Prop :=
  (∀ (i : Instr) (sl : Slot) (s t : State), i.slot = some sl → exec i s = .next t →
    { t with seats := s.seats, gangs := s.gangs, cursor := s.cursor, tiles := s.tiles } = s ∧
    (t.cursor ≠ none → t.tiles = s.tiles) ∧
    (∀ q, { t.tile q with holder := (s.tile q).holder, last := (s.tile q).last } = s.tile q) ∧ (∀ a, Mem.byte t.hbm a = Mem.byte s.hbm a) ∧
    (sl ≠ .ctl → sl ≠ .uni → t.gangs = s.gangs) ∧ (sl = .uni → t.seats = s.seats)) ∧
  (∀ (i : Instr) (tag : Tag) (s t : State) (k slot : Nat) (base live : Seat), i.tag = some tag → s.InSeat k slot base live →
    exec i s = .next t → t.cursor ≠ none →
    (∀ j, j ≠ k → t.seat? j = s.seat? j) ∧ ∃ y, t.seat? k = some y ∧ y.regs.s = live.regs.s ∧ y.regs.p = live.regs.p ∧
      y.regs.v = live.regs.v ∧ y.sys = live.sys ∧
      (i.landsOnly = true → { y with landings := live.landings } = live) ∧
      (i.storesPads = true → { y with landings := live.landings, pads := live.pads, mat := live.mat } = live ∧
        y.pads.owner = live.pads.owner ∧ y.pads.count = live.pads.count ∧ y.pads.phys = live.pads.phys)) ∧
  (∀ (i : Instr) (s t : State) (g slot : Nat) (base live : Gang), i.slot = some .uni → s.InSeqr g slot base live →
    exec i s = .next t → t.cursor ≠ none →
    (∀ j, j ≠ g → t.gang? j = s.gang? j) ∧ ∃ y, t.gang? g = some y ∧
      { y with landings := live.landings, votePend := live.votePend } = live)
end

