-- ==== Sys2Proof/Laws/Run.lean ====
section
/-! SUPPORT. What the shared frames of an operation answer: an operation of a tile slot, one that every seat executes, and
one at a sequencer. -/

namespace Sys2Proof.Machine

variable {s : State} {k slot : Nat} {base live : Seat} {t : Tag}

/-- An operation that takes effect and whose body answers a seat leaves that seat, with its arrival. -/
theorem tileOp_takes {body : Ctx → Except TrapInfo (Seat × Option Nat)} {x : Seat} {lat : Option Nat}
    (h : s.Runs k slot base live t) (hb : body (s.ctx slot base live) = .ok (x, lat)) :
    tileOp t body s = .next (s.done base slot t x lat) := by
  obtain ⟨⟨hc, hs⟩, hsup, hp, hr⟩ := h
  have hn : ¬(t.r = 1 ∧ base.sync.bars.length ≤ (base.slotBar slot).toNat) := by
    rintro ⟨h1, h2⟩
    have := hr h1
    omega
  simp only [State.ctx] at hb
  simp only [Seat.slotBar] at hn
  simp only [tileOp, hc, hs, hsup, Ctx.standing, Bool.false_eq_true, if_false, if_neg hn, hp, hb, State.done, Seat.slotBar]

/-- An operation that takes effect and whose body answers a trap takes it. -/
theorem tileOp_traps {body : Ctx → Except TrapInfo (Seat × Option Nat)} {e : TrapInfo}
    (h : s.Runs k slot base live t) (hb : body (s.ctx slot base live) = .error e) :
    tileOp t body s = .next (s.takeTrap base e slot) := by
  obtain ⟨⟨hc, hs⟩, hsup, hp, hr⟩ := h
  have hn : ¬(t.r = 1 ∧ base.sync.bars.length ≤ (base.slotBar slot).toNat) := by
    rintro ⟨h1, h2⟩
    have := hr h1
    omega
  simp only [State.ctx] at hb
  simp only [Seat.slotBar] at hn
  simp only [tileOp, hc, hs, hsup, Ctx.standing, Bool.false_eq_true, if_false, if_neg hn, hp, hb]

/-- A skipping or discarding seat passes over the operation (R65, R104). -/
theorem tileOp_suppressed {body : Ctx → Except TrapInfo (Seat × Option Nat)} (h : s.InSeat k slot base live)
    (hs : base.suppressed = true) : tileOp t body s = .next s := by
  simp [tileOp, h.1, h.2, hs]

/-- With a false predicate the operation only arrives (R60). -/
theorem tileOp_false {body : Ctx → Except TrapInfo (Seat × Option Nat)} (h : s.InSeat k slot base live)
    (hs : base.suppressed = false) (hr : t.r = 1 → (base.slotBar slot).toNat < base.sync.bars.length)
    (hp : base.predField t.p = .ok false) : tileOp t body s = .next (s.done base slot t live (some 1)) := by
  have hn : ¬(t.r = 1 ∧ base.sync.bars.length ≤ (base.slotBar slot).toNat) := by
    rintro ⟨h1, h2⟩
    have := hr h1
    omega
  simp only [Seat.slotBar] at hn
  simp only [tileOp, h.1, h.2, hs, Ctx.standing, Bool.false_eq_true, if_false, if_neg hn, hp, State.done, Seat.slotBar]

/-- Everything an operation of a tile slot can do: nothing, take a trap or a hold, or leave a seat in the place of its
own. -/
theorem tileOp_cases {body : Ctx → Except TrapInfo (Seat × Option Nat)} {s' : State} (h : s.InSeat k slot base live)
    (hn : tileOp t body s = .next s') :
    s' = s ∨ (∃ e, s' = s.takeTrap base e slot) ∨ s' = s.done base slot t live (some 1) ∨
      ∃ x lat, body (s.ctx slot base live) = .ok (x, lat) ∧ s' = s.done base slot t x lat := by
  simp only [tileOp, h.1, h.2] at hn
  split at hn
  · cases hn; exact .inl rfl
  · split at hn
    · cases hn; exact .inr (.inl ⟨_, rfl⟩)
    · split at hn
      · cases hn; exact .inr (.inl ⟨_, rfl⟩)
      · cases hn; exact .inr (.inr (.inl rfl))
      · split at hn
        · cases hn; exact .inr (.inl ⟨_, rfl⟩)
        · rename_i x lat hb
          cases hn; exact .inr (.inr (.inr ⟨x, lat, hb, rfl⟩))

/-- P0 reads as true (R142). -/
@[simp] theorem Seat.predField_zero (x : Seat) : x.predField 0 = .ok true := by
  simp [Seat.predField, Seat.pred, Seat.pVal, Bind.bind, Except.bind, Pure.pure, Except.pure]

/-- A CTL operation of the tile that takes effect leaves the seat its body answers. -/
theorem seatOp_takes {body : Ctx → Except TrapInfo Seat} {x : Seat} (h : s.InSeat k slot base live)
    (hs : base.suppressed = false) (hb : body (s.ctx slot base live) = .ok x) :
    seatOp body s = .next (s.putSeat x) := by
  have hr : s.Runs k slot base live { o := 1, r := 0, p := 0 } := ⟨h, hs, Seat.predField_zero _, by simp⟩
  have := tileOp_takes (body := fun c => do return (← body c, none)) (x := x) (lat := none) hr
    (by simp [hb, Bind.bind, Except.bind, Pure.pure, Except.pure])
  simpa [seatOp, State.done, Seat.retire] using this

/-- A CTL operation of the tile whose body answers a trap takes it. -/
theorem seatOp_traps {body : Ctx → Except TrapInfo Seat} {e : TrapInfo} (h : s.InSeat k slot base live)
    (hs : base.suppressed = false) (hb : body (s.ctx slot base live) = .error e) :
    seatOp body s = .next (s.takeTrap base e slot) := by
  have hr : s.Runs k slot base live { o := 1, r := 0, p := 0 } := ⟨h, hs, Seat.predField_zero _, by simp⟩
  exact tileOp_traps (body := fun c => do return (← body c, none)) hr
    (by simp [hb, Bind.bind, Except.bind])

/-- The effective address of the memory-with-step form, its base readable (R61). -/
theorem Ctx.ea_ok {rb : RField} {b : Word64} {off : Int} (hb : base.src rb = .ok b) :
    (s.ctx slot base live).ea rb off = .ok (eaOf b off (base.slotAcc slot)) := by
  simp only [Ctx.ea, State.ctx, hb]; rfl

/-- The address of a streamed operand, its base readable (R209). -/
theorem Ctx.stream_ok {f : RField} {b : Word64} {step : Int} {unit : Nat} (hb : base.src f = .ok b) :
    (s.ctx slot base live).stream f step unit = .ok (b + BitVec.ofInt 64 (base.slotAcc slot * step * unit)) := by
  simp only [Ctx.stream, State.ctx, hb]; rfl

/-- What a skipping or discarding seat executes too (R105). -/
theorem seatAlways_ok {body : Ctx → Except TrapInfo Seat} {x : Seat} (h : s.InSeat k slot base live)
    (hb : body (s.ctx slot base live) = .ok x) : seatAlways body s = .next (s.putSeat x) := by
  simp only [State.ctx] at hb
  simp [seatAlways, h.1, h.2, hb]

theorem seatAlways_traps {body : Ctx → Except TrapInfo Seat} {e : TrapInfo} (h : s.InSeat k slot base live)
    (hb : body (s.ctx slot base live) = .error e) : seatAlways body s = .next (s.takeTrap base e slot) := by
  simp only [State.ctx] at hb
  simp [seatAlways, h.1, h.2, hb]

/-- An operation at a sequencer leaves the gang its body answers. -/
theorem seqOp_ok {g : Nat} {b l : Gang} {body : SCtx → Except TrapInfo Gang} {x : Gang} (h : s.InSeqr g slot b l)
    (hb : body (s.sctx slot b l) = .ok x) : seqOp body s = .next (s.putGang x) := by
  simp only [State.sctx] at hb
  simp [seqOp, h.1, h.2, hb]

/-- An operation at a sequencer that traps stops the stream. -/
theorem seqOp_traps {g : Nat} {b l : Gang} {body : SCtx → Except TrapInfo Gang} {e : TrapInfo} (h : s.InSeqr g slot b l)
    (hb : body (s.sctx slot b l) = .error e) (he : e.cause ≠ 0) :
    seqOp body s = .next { (s.putGang (b.trapSeq e slot b.pc)) with cursor := none } := by
  simp only [State.sctx] at hb
  simp [seqOp, h.1, h.2, hb, he]

/-- An operation at a sequencer that reads a page not mapped yet holds the stream. -/
theorem seqOp_awaits {g : Nat} {b l : Gang} {body : SCtx → Except TrapInfo Gang} {e : TrapInfo} (h : s.InSeqr g slot b l)
    (hb : body (s.sctx slot b l) = .error e) (he : e.cause = 0) :
    seqOp body s = .next { (s.putGang (b.awaitPage (trapAt 0x10 e.addr) slot)) with cursor := none } := by
  simp only [State.sctx] at hb
  simp [seqOp, h.1, h.2, hb, he]

end Sys2Proof.Machine
end

