-- ==== Sys2Proof/Laws/Copy.lean ====
section
/-! SUPPORT. What the entry of a command does. -/

namespace Sys2Proof.Machine

theorem Seat.landS_parts (x : Seat) (slot lat d : Nat) (v : Word64) :
    (x.landS slot lat d v).copy = x.copy ∧ (x.landS slot lat d v).sync = x.sync ∧ (x.landS slot lat d v).regs = x.regs ∧
    (x.landS slot lat d v).pads = x.pads ∧ (x.landS slot lat d v).mat = x.mat ∧ (x.landS slot lat d v).sys = x.sys ∧
    (x.landS slot lat d v).outbox = x.outbox ∧ (x.landS slot lat d v).id = x.id := by
  by_cases h : d = 0 <;> simp [Seat.landS, Seat.land, h]

/-- With entries and a snapshot free a command enters its channel (R231, R233, R244). -/
theorem Ctx.enter_ok {s : State} {slot : Nat} {base live : Seat} {op : CmdOp} {d : RField} {ch : BitVec 3}
    {lit : Option Word32} {k : Plan} (he : live.entriesUsed + op.entries ≤ live.copy.quota)
    (hs : op = .rrot ∨ live.needSnapshot k.snap = .ok ()) :
    ∃ x, (s.ctx slot base live).enter op d ch lit k = .ok (x, some 1) ∧
      base.Enters live x slot op d ch lit k.len k.snap k.g k.p := by
  have h1 : (s.ctx slot base live).needEntries (s.ctx slot base live).live op.entries = .ok live := by
    simp [Ctx.needEntries, State.ctx, he]
  refine ⟨(s.ctx slot base live).entered live op d ch lit k, ?_, ?_⟩
  · simp only [Ctx.enter, h1, Bind.bind, Except.bind]
    by_cases ho : op = .rrot
    · simp [ho, Pure.pure, Except.pure]
    · have := hs.resolve_left ho
      simp [ho, this, Pure.pure, Except.pure]
  · have hl : ∀ (x : Seat), x.landings = live.landings → x.cycle = live.cycle → x.cur = live.cur → ∀ v,
        (x.landS slot 1 d.toNat v).landings = (live.landS slot 1 d.toNat v).landings := by
      intro x h2 h3 h4 v
      by_cases hd : d.toNat = 0 <;> simp [Seat.landS, Seat.land, hd, h2, h3, h4]
    have hp := fun x v => Seat.landS_parts x slot 1 d.toNat v
    unfold Ctx.entered Seat.Enters
    simp only [State.ctx]
    refine ⟨⟨_, (by rw [(hp _ _).1]), rfl, rfl, rfl, rfl, rfl, rfl, rfl, rfl, rfl, rfl, rfl, rfl, rfl⟩,
      (by rw [(hp _ _).1]), ?_, ?_, ?_, (by rw [(hp _ _).2.2.1]), (by rw [(hp _ _).2.2.2.1]),
      (by rw [(hp _ _).2.2.2.2.1]), (by rw [(hp _ _).2.2.2.2.2.1]), (by rw [(hp _ _).2.2.2.2.2.2.1])⟩
    · intro hw
      rw [(hp _ _).2.1]
      simp only [hw, Bool.false_eq_true, if_false]
    · intro hw q hq
      rw [(hp _ _).2.1]
      rw [if_pos hw, List.getElem?_modify, hq]
      simp
    · rw [hl] <;> simp

end Sys2Proof.Machine
end

