-- ==== Sys2Proof/Laws/Encode.lean ====
section
/-! SUPPORT. Reading a field back from the word it was packed into (R59, R60). -/

namespace Sys2Proof.Pack

section
variable (x o r : BitVec 1) (op : BitVec 6) (f : BitVec 23)

@[simp] theorem head_op : (head x o r op f).extractLsb' 23 6 = op := by
  unfold head
  repeat first | rw [BitVec.extractLsb'_append_eq_of_add_le (by decide)] | rw [BitVec.extractLsb'_append_eq_of_le (by decide)]
  simp
@[simp] theorem head_o : (head x o r op f).extractLsb' 30 1 = o := by
  unfold head
  repeat first | rw [BitVec.extractLsb'_append_eq_of_add_le (by decide)] | rw [BitVec.extractLsb'_append_eq_of_le (by decide)]
  simp
@[simp] theorem head_r : (head x o r op f).extractLsb' 29 1 = r := by
  unfold head
  repeat first | rw [BitVec.extractLsb'_append_eq_of_add_le (by decide)] | rw [BitVec.extractLsb'_append_eq_of_le (by decide)]
  simp
@[simp] theorem head_x : (head x o r op f).getLsbD 31 = (x == 1) := by
  simp only [head, BitVec.getLsbD_append]
  revert x
  simp
  decide
/-- A field of the operand part. -/
theorem head_field {s n : Nat} (h : s + n ≤ 23) : (head x o r op f).extractLsb' s n = f.extractLsb' s n :=
  BitVec.extractLsb'_append_eq_of_add_le h
end

/-! ### The three-register family -/

@[simp] theorem f3R_d (x o r : BitVec 1) (op : BitVec 6) (d : RField) (a : RField) (b : RField) (m : BitVec 1) (p : BitVec 4) :
    (head x o r op (f3R d a b m p)).extractLsb' 17 6 = d := by
  unfold head f3R
  repeat first | rw [BitVec.extractLsb'_append_eq_of_add_le (by decide)] | rw [BitVec.extractLsb'_append_eq_of_le (by decide)]
  simp
@[simp] theorem f3R_a (x o r : BitVec 1) (op : BitVec 6) (d : RField) (a : RField) (b : RField) (m : BitVec 1) (p : BitVec 4) :
    (head x o r op (f3R d a b m p)).extractLsb' 11 6 = a := by
  unfold head f3R
  repeat first | rw [BitVec.extractLsb'_append_eq_of_add_le (by decide)] | rw [BitVec.extractLsb'_append_eq_of_le (by decide)]
  simp
@[simp] theorem f3R_b (x o r : BitVec 1) (op : BitVec 6) (d : RField) (a : RField) (b : RField) (m : BitVec 1) (p : BitVec 4) :
    (head x o r op (f3R d a b m p)).extractLsb' 5 6 = b := by
  unfold head f3R
  repeat first | rw [BitVec.extractLsb'_append_eq_of_add_le (by decide)] | rw [BitVec.extractLsb'_append_eq_of_le (by decide)]
  simp
@[simp] theorem f3R_m (x o r : BitVec 1) (op : BitVec 6) (d : RField) (a : RField) (b : RField) (m : BitVec 1) (p : BitVec 4) :
    (head x o r op (f3R d a b m p)).extractLsb' 4 1 = m := by
  unfold head f3R
  repeat first | rw [BitVec.extractLsb'_append_eq_of_add_le (by decide)] | rw [BitVec.extractLsb'_append_eq_of_le (by decide)]
  simp
@[simp] theorem f3R_p (x o r : BitVec 1) (op : BitVec 6) (d : RField) (a : RField) (b : RField) (m : BitVec 1) (p : BitVec 4) :
    (head x o r op (f3R d a b m p)).extractLsb' 0 4 = p := by
  unfold head f3R
  repeat first | rw [BitVec.extractLsb'_append_eq_of_add_le (by decide)] | rw [BitVec.extractLsb'_append_eq_of_le (by decide)]
  simp

/-! ### The register-immediate family -/

@[simp] theorem fRI_d (x o r : BitVec 1) (op : BitVec 6) (d : RField) (a : RField) (i : BitVec 7) (p : BitVec 4) :
    (head x o r op (fRI d a i p)).extractLsb' 17 6 = d := by
  unfold head fRI
  repeat first | rw [BitVec.extractLsb'_append_eq_of_add_le (by decide)] | rw [BitVec.extractLsb'_append_eq_of_le (by decide)]
  simp
@[simp] theorem fRI_a (x o r : BitVec 1) (op : BitVec 6) (d : RField) (a : RField) (i : BitVec 7) (p : BitVec 4) :
    (head x o r op (fRI d a i p)).extractLsb' 11 6 = a := by
  unfold head fRI
  repeat first | rw [BitVec.extractLsb'_append_eq_of_add_le (by decide)] | rw [BitVec.extractLsb'_append_eq_of_le (by decide)]
  simp
@[simp] theorem fRI_i (x o r : BitVec 1) (op : BitVec 6) (d : RField) (a : RField) (i : BitVec 7) (p : BitVec 4) :
    (head x o r op (fRI d a i p)).extractLsb' 4 7 = i := by
  unfold head fRI
  repeat first | rw [BitVec.extractLsb'_append_eq_of_add_le (by decide)] | rw [BitVec.extractLsb'_append_eq_of_le (by decide)]
  simp
@[simp] theorem fRI_p (x o r : BitVec 1) (op : BitVec 6) (d : RField) (a : RField) (i : BitVec 7) (p : BitVec 4) :
    (head x o r op (fRI d a i p)).extractLsb' 0 4 = p := by
  unfold head fRI
  repeat first | rw [BitVec.extractLsb'_append_eq_of_add_le (by decide)] | rw [BitVec.extractLsb'_append_eq_of_le (by decide)]
  simp

/-! ### The memory-with-step family -/

@[simp] theorem fMS_t (x o r : BitVec 1) (op : BitVec 6) (t : RField) (b : RField) (st : BitVec 5) (sz : BitVec 2) (p : BitVec 4) :
    (head x o r op (fMS t b st sz p)).extractLsb' 17 6 = t := by
  unfold head fMS
  repeat first | rw [BitVec.extractLsb'_append_eq_of_add_le (by decide)] | rw [BitVec.extractLsb'_append_eq_of_le (by decide)]
  simp
@[simp] theorem fMS_b (x o r : BitVec 1) (op : BitVec 6) (t : RField) (b : RField) (st : BitVec 5) (sz : BitVec 2) (p : BitVec 4) :
    (head x o r op (fMS t b st sz p)).extractLsb' 11 6 = b := by
  unfold head fMS
  repeat first | rw [BitVec.extractLsb'_append_eq_of_add_le (by decide)] | rw [BitVec.extractLsb'_append_eq_of_le (by decide)]
  simp
@[simp] theorem fMS_st (x o r : BitVec 1) (op : BitVec 6) (t : RField) (b : RField) (st : BitVec 5) (sz : BitVec 2) (p : BitVec 4) :
    (head x o r op (fMS t b st sz p)).extractLsb' 6 5 = st := by
  unfold head fMS
  repeat first | rw [BitVec.extractLsb'_append_eq_of_add_le (by decide)] | rw [BitVec.extractLsb'_append_eq_of_le (by decide)]
  simp
@[simp] theorem fMS_sz (x o r : BitVec 1) (op : BitVec 6) (t : RField) (b : RField) (st : BitVec 5) (sz : BitVec 2) (p : BitVec 4) :
    (head x o r op (fMS t b st sz p)).extractLsb' 4 2 = sz := by
  unfold head fMS
  repeat first | rw [BitVec.extractLsb'_append_eq_of_add_le (by decide)] | rw [BitVec.extractLsb'_append_eq_of_le (by decide)]
  simp
@[simp] theorem fMS_p (x o r : BitVec 1) (op : BitVec 6) (t : RField) (b : RField) (st : BitVec 5) (sz : BitVec 2) (p : BitVec 4) :
    (head x o r op (fMS t b st sz p)).extractLsb' 0 4 = p := by
  unfold head fMS
  repeat first | rw [BitVec.extractLsb'_append_eq_of_add_le (by decide)] | rw [BitVec.extractLsb'_append_eq_of_le (by decide)]
  simp

/-! ### The control family -/

@[simp] theorem fC_cc (x o r : BitVec 1) (op : BitVec 6) (cc : BitVec 4) (ga : RField) (gb : RField) (disp : BitVec 7) :
    (head x o r op (fC cc ga gb disp)).extractLsb' 19 4 = cc := by
  unfold head fC
  repeat first | rw [BitVec.extractLsb'_append_eq_of_add_le (by decide)] | rw [BitVec.extractLsb'_append_eq_of_le (by decide)]
  simp
@[simp] theorem fC_ga (x o r : BitVec 1) (op : BitVec 6) (cc : BitVec 4) (ga : RField) (gb : RField) (disp : BitVec 7) :
    (head x o r op (fC cc ga gb disp)).extractLsb' 13 6 = ga := by
  unfold head fC
  repeat first | rw [BitVec.extractLsb'_append_eq_of_add_le (by decide)] | rw [BitVec.extractLsb'_append_eq_of_le (by decide)]
  simp
@[simp] theorem fC_gb (x o r : BitVec 1) (op : BitVec 6) (cc : BitVec 4) (ga : RField) (gb : RField) (disp : BitVec 7) :
    (head x o r op (fC cc ga gb disp)).extractLsb' 7 6 = gb := by
  unfold head fC
  repeat first | rw [BitVec.extractLsb'_append_eq_of_add_le (by decide)] | rw [BitVec.extractLsb'_append_eq_of_le (by decide)]
  simp
@[simp] theorem fC_disp (x o r : BitVec 1) (op : BitVec 6) (cc : BitVec 4) (ga : RField) (gb : RField) (disp : BitVec 7) :
    (head x o r op (fC cc ga gb disp)).extractLsb' 0 7 = disp := by
  unfold head fC
  repeat first | rw [BitVec.extractLsb'_append_eq_of_add_le (by decide)] | rw [BitVec.extractLsb'_append_eq_of_le (by decide)]
  simp

/-! ### The engine-command family -/

@[simp] theorem fEC_h (x o r : BitVec 1) (op : BitVec 6) (h : BitVec 4) (da : RField) (sa : RField) (ch : BitVec 3) (p : BitVec 4) :
    (head x o r op (fEC h da sa ch p)).extractLsb' 19 4 = h := by
  unfold head fEC
  repeat first | rw [BitVec.extractLsb'_append_eq_of_add_le (by decide)] | rw [BitVec.extractLsb'_append_eq_of_le (by decide)]
  simp
@[simp] theorem fEC_da (x o r : BitVec 1) (op : BitVec 6) (h : BitVec 4) (da : RField) (sa : RField) (ch : BitVec 3) (p : BitVec 4) :
    (head x o r op (fEC h da sa ch p)).extractLsb' 13 6 = da := by
  unfold head fEC
  repeat first | rw [BitVec.extractLsb'_append_eq_of_add_le (by decide)] | rw [BitVec.extractLsb'_append_eq_of_le (by decide)]
  simp
@[simp] theorem fEC_sa (x o r : BitVec 1) (op : BitVec 6) (h : BitVec 4) (da : RField) (sa : RField) (ch : BitVec 3) (p : BitVec 4) :
    (head x o r op (fEC h da sa ch p)).extractLsb' 7 6 = sa := by
  unfold head fEC
  repeat first | rw [BitVec.extractLsb'_append_eq_of_add_le (by decide)] | rw [BitVec.extractLsb'_append_eq_of_le (by decide)]
  simp
@[simp] theorem fEC_ch (x o r : BitVec 1) (op : BitVec 6) (h : BitVec 4) (da : RField) (sa : RField) (ch : BitVec 3) (p : BitVec 4) :
    (head x o r op (fEC h da sa ch p)).extractLsb' 4 3 = ch := by
  unfold head fEC
  repeat first | rw [BitVec.extractLsb'_append_eq_of_add_le (by decide)] | rw [BitVec.extractLsb'_append_eq_of_le (by decide)]
  simp
@[simp] theorem fEC_p (x o r : BitVec 1) (op : BitVec 6) (h : BitVec 4) (da : RField) (sa : RField) (ch : BitVec 3) (p : BitVec 4) :
    (head x o r op (fEC h da sa ch p)).extractLsb' 0 4 = p := by
  unfold head fEC
  repeat first | rw [BitVec.extractLsb'_append_eq_of_add_le (by decide)] | rw [BitVec.extractLsb'_append_eq_of_le (by decide)]
  simp

/-! ### The matrix-beat family -/

@[simp] theorem fMB_bank (x o r : BitVec 1) (op : BitVec 6) (bank : BitVec 2) (a : RField) (b : RField) (fl : BitVec 5) (p : BitVec 4) :
    (head x o r op (fMB bank a b fl p)).extractLsb' 21 2 = bank := by
  unfold head fMB
  repeat first | rw [BitVec.extractLsb'_append_eq_of_add_le (by decide)] | rw [BitVec.extractLsb'_append_eq_of_le (by decide)]
  simp
@[simp] theorem fMB_a (x o r : BitVec 1) (op : BitVec 6) (bank : BitVec 2) (a : RField) (b : RField) (fl : BitVec 5) (p : BitVec 4) :
    (head x o r op (fMB bank a b fl p)).extractLsb' 15 6 = a := by
  unfold head fMB
  repeat first | rw [BitVec.extractLsb'_append_eq_of_add_le (by decide)] | rw [BitVec.extractLsb'_append_eq_of_le (by decide)]
  simp
@[simp] theorem fMB_b (x o r : BitVec 1) (op : BitVec 6) (bank : BitVec 2) (a : RField) (b : RField) (fl : BitVec 5) (p : BitVec 4) :
    (head x o r op (fMB bank a b fl p)).extractLsb' 9 6 = b := by
  unfold head fMB
  repeat first | rw [BitVec.extractLsb'_append_eq_of_add_le (by decide)] | rw [BitVec.extractLsb'_append_eq_of_le (by decide)]
  simp
@[simp] theorem fMB_fl (x o r : BitVec 1) (op : BitVec 6) (bank : BitVec 2) (a : RField) (b : RField) (fl : BitVec 5) (p : BitVec 4) :
    (head x o r op (fMB bank a b fl p)).extractLsb' 4 5 = fl := by
  unfold head fMB
  repeat first | rw [BitVec.extractLsb'_append_eq_of_add_le (by decide)] | rw [BitVec.extractLsb'_append_eq_of_le (by decide)]
  simp
@[simp] theorem fMB_p (x o r : BitVec 1) (op : BitVec 6) (bank : BitVec 2) (a : RField) (b : RField) (fl : BitVec 5) (p : BitVec 4) :
    (head x o r op (fMB bank a b fl p)).extractLsb' 0 4 = p := by
  unfold head fMB
  repeat first | rw [BitVec.extractLsb'_append_eq_of_add_le (by decide)] | rw [BitVec.extractLsb'_append_eq_of_le (by decide)]
  simp

end Sys2Proof.Pack
end

