-- ==== Sys2Proof/Laws/State.lean ====
section
/-! SUPPORT. What each update of the state, of a seat and of a gang leaves in each field, and the laws of finding and
replacing a seat or a gang. -/

namespace Sys2Proof.Machine

/-! ### The state -/

@[simp] theorem State.putSeat_booted (s : State) (x : Seat) : (s.putSeat x).booted = s.booted := rfl
@[simp] theorem State.putSeat_portOpen (s : State) (x : Seat) : (s.putSeat x).portOpen = s.portOpen := rfl
@[simp] theorem State.putSeat_moduleOn (s : State) (x : Seat) : (s.putSeat x).moduleOn = s.moduleOn := rfl
@[simp] theorem State.putSeat_powered (s : State) (x : Seat) : (s.putSeat x).powered = s.powered := rfl
@[simp] theorem State.putSeat_chorus (s : State) (x : Seat) : (s.putSeat x).chorus = s.chorus := rfl
@[simp] theorem State.putSeat_diepres (s : State) (x : Seat) : (s.putSeat x).diepres = s.diepres := rfl
@[simp] theorem State.putSeat_hbm (s : State) (x : Seat) : (s.putSeat x).hbm = s.hbm := rfl
@[simp] theorem State.putSeat_hostMem (s : State) (x : Seat) : (s.putSeat x).hostMem = s.hostMem := rfl
@[simp] theorem State.putSeat_hbmPoison (s : State) (x : Seat) : (s.putSeat x).hbmPoison = s.hbmPoison := rfl
@[simp] theorem State.putSeat_spares (s : State) (x : Seat) : (s.putSeat x).spares = s.spares := rfl
@[simp] theorem State.putSeat_pages (s : State) (x : Seat) : (s.putSeat x).pages = s.pages := rfl
@[simp] theorem State.putSeat_caches (s : State) (x : Seat) : (s.putSeat x).caches = s.caches := rfl
@[simp] theorem State.putSeat_access (s : State) (x : Seat) : (s.putSeat x).access = s.access := rfl
@[simp] theorem State.putSeat_lxPeriod (s : State) (x : Seat) : (s.putSeat x).lxPeriod = s.lxPeriod := rfl
@[simp] theorem State.putSeat_lxRound (s : State) (x : Seat) : (s.putSeat x).lxRound = s.lxRound := rfl
@[simp] theorem State.putSeat_phase (s : State) (x : Seat) : (s.putSeat x).phase = s.phase := rfl
@[simp] theorem State.putSeat_regions (s : State) (x : Seat) : (s.putSeat x).regions = s.regions := rfl
@[simp] theorem State.putSeat_cells (s : State) (x : Seat) : (s.putSeat x).cells = s.cells := rfl
@[simp] theorem State.putSeat_marks (s : State) (x : Seat) : (s.putSeat x).marks = s.marks := rfl
@[simp] theorem State.putSeat_cellPoison (s : State) (x : Seat) : (s.putSeat x).cellPoison = s.cellPoison := rfl
@[simp] theorem State.putSeat_exchange (s : State) (x : Seat) : (s.putSeat x).exchange = s.exchange := rfl
@[simp] theorem State.putSeat_gangs (s : State) (x : Seat) : (s.putSeat x).gangs = s.gangs := rfl
@[simp] theorem State.putSeat_tiles (s : State) (x : Seat) : (s.putSeat x).tiles = s.tiles := rfl
@[simp] theorem State.putSeat_msgs (s : State) (x : Seat) : (s.putSeat x).msgs = s.msgs := rfl
@[simp] theorem State.putSeat_replies (s : State) (x : Seat) : (s.putSeat x).replies = s.replies := rfl
@[simp] theorem State.putSeat_reports (s : State) (x : Seat) : (s.putSeat x).reports = s.reports := rfl
@[simp] theorem State.putSeat_inputs (s : State) (x : Seat) : (s.putSeat x).inputs = s.inputs := rfl
@[simp] theorem State.putSeat_ordSeq (s : State) (x : Seat) : (s.putSeat x).ordSeq = s.ordSeq := rfl
@[simp] theorem State.putSeat_floor (s : State) (x : Seat) : (s.putSeat x).floor = s.floor := rfl
@[simp] theorem State.putSeat_portSent (s : State) (x : Seat) : (s.putSeat x).portSent = s.portSent := rfl
@[simp] theorem State.putSeat_peerOut (s : State) (x : Seat) : (s.putSeat x).peerOut = s.peerOut := rfl
@[simp] theorem State.putSeat_podid (s : State) (x : Seat) : (s.putSeat x).podid = s.podid := rfl
@[simp] theorem State.putSeat_chparent (s : State) (x : Seat) : (s.putSeat x).chparent = s.chparent := rfl
@[simp] theorem State.putSeat_chstat (s : State) (x : Seat) : (s.putSeat x).chstat = s.chstat := rfl
@[simp] theorem State.putSeat_rmap (s : State) (x : Seat) : (s.putSeat x).rmap = s.rmap := rfl
@[simp] theorem State.putSeat_wins (s : State) (x : Seat) : (s.putSeat x).wins = s.wins := rfl
@[simp] theorem State.putSeat_queues (s : State) (x : Seat) : (s.putSeat x).queues = s.queues := rfl
@[simp] theorem State.putSeat_launches (s : State) (x : Seat) : (s.putSeat x).launches = s.launches := rfl
@[simp] theorem State.putSeat_served (s : State) (x : Seat) : (s.putSeat x).served = s.served := rfl
@[simp] theorem State.putSeat_finished (s : State) (x : Seat) : (s.putSeat x).finished = s.finished := rfl
@[simp] theorem State.putSeat_tokens (s : State) (x : Seat) : (s.putSeat x).tokens = s.tokens := rfl
@[simp] theorem State.putSeat_saved (s : State) (x : Seat) : (s.putSeat x).saved = s.saved := rfl
@[simp] theorem State.putSeat_resumed (s : State) (x : Seat) : (s.putSeat x).resumed = s.resumed := rfl
@[simp] theorem State.putSeat_admitted (s : State) (x : Seat) : (s.putSeat x).admitted = s.admitted := rfl
@[simp] theorem State.putSeat_journal (s : State) (x : Seat) : (s.putSeat x).journal = s.journal := rfl
@[simp] theorem State.putSeat_jseq (s : State) (x : Seat) : (s.putSeat x).jseq = s.jseq := rfl
@[simp] theorem State.putSeat_schedUp (s : State) (x : Seat) : (s.putSeat x).schedUp = s.schedUp := rfl
@[simp] theorem State.putSeat_held (s : State) (x : Seat) : (s.putSeat x).held = s.held := rfl
@[simp] theorem State.putSeat_hostOut (s : State) (x : Seat) : (s.putSeat x).hostOut = s.hostOut := rfl
@[simp] theorem State.putSeat_margin (s : State) (x : Seat) : (s.putSeat x).margin = s.margin := rfl
@[simp] theorem State.putSeat_links (s : State) (x : Seat) : (s.putSeat x).links = s.links := rfl
@[simp] theorem State.putSeat_power (s : State) (x : Seat) : (s.putSeat x).power = s.power := rfl
@[simp] theorem State.putSeat_cursor (s : State) (x : Seat) : (s.putSeat x).cursor = s.cursor := rfl
@[simp] theorem State.putSeat_agenda (s : State) (x : Seat) : (s.putSeat x).agenda = s.agenda := rfl
@[simp] theorem State.putSeat_round (s : State) (x : Seat) : (s.putSeat x).round = s.round := rfl
@[simp] theorem State.putSeat_free (s : State) (x : Seat) : (s.putSeat x).free = s.free := rfl
@[simp] theorem State.putSeat_serial (s : State) (x : Seat) : (s.putSeat x).serial = s.serial := rfl
@[simp] theorem State.putSeat_away (s : State) (x : Seat) : (s.putSeat x).away = s.away := rfl
@[simp] theorem State.putSeat_hostMaps (s : State) (x : Seat) : (s.putSeat x).hostMaps = s.hostMaps := rfl
@[simp] theorem State.putSeat_ended (s : State) (x : Seat) : (s.putSeat x).ended = s.ended := rfl
@[simp] theorem State.putSeat_checked (s : State) (x : Seat) : (s.putSeat x).checked = s.checked := rfl
@[simp] theorem State.putSeat_mirror (s : State) (x : Seat) : (s.putSeat x).mirror = s.mirror := rfl
@[simp] theorem State.putSeat_flash (s : State) (x : Seat) : (s.putSeat x).flash = s.flash := rfl
@[simp] theorem State.putSeat_snapshots (s : State) (x : Seat) : (s.putSeat x).snapshots = s.snapshots := rfl
@[simp] theorem State.putSeat_unwritten (s : State) (x : Seat) : (s.putSeat x).unwritten = s.unwritten := rfl
@[simp] theorem State.putSeat_notices (s : State) (x : Seat) : (s.putSeat x).notices = s.notices := rfl

@[simp] theorem State.putGang_booted (s : State) (x : Gang) : (s.putGang x).booted = s.booted := rfl
@[simp] theorem State.putGang_portOpen (s : State) (x : Gang) : (s.putGang x).portOpen = s.portOpen := rfl
@[simp] theorem State.putGang_moduleOn (s : State) (x : Gang) : (s.putGang x).moduleOn = s.moduleOn := rfl
@[simp] theorem State.putGang_powered (s : State) (x : Gang) : (s.putGang x).powered = s.powered := rfl
@[simp] theorem State.putGang_chorus (s : State) (x : Gang) : (s.putGang x).chorus = s.chorus := rfl
@[simp] theorem State.putGang_diepres (s : State) (x : Gang) : (s.putGang x).diepres = s.diepres := rfl
@[simp] theorem State.putGang_hbm (s : State) (x : Gang) : (s.putGang x).hbm = s.hbm := rfl
@[simp] theorem State.putGang_hostMem (s : State) (x : Gang) : (s.putGang x).hostMem = s.hostMem := rfl
@[simp] theorem State.putGang_hbmPoison (s : State) (x : Gang) : (s.putGang x).hbmPoison = s.hbmPoison := rfl
@[simp] theorem State.putGang_spares (s : State) (x : Gang) : (s.putGang x).spares = s.spares := rfl
@[simp] theorem State.putGang_pages (s : State) (x : Gang) : (s.putGang x).pages = s.pages := rfl
@[simp] theorem State.putGang_caches (s : State) (x : Gang) : (s.putGang x).caches = s.caches := rfl
@[simp] theorem State.putGang_access (s : State) (x : Gang) : (s.putGang x).access = s.access := rfl
@[simp] theorem State.putGang_lxPeriod (s : State) (x : Gang) : (s.putGang x).lxPeriod = s.lxPeriod := rfl
@[simp] theorem State.putGang_lxRound (s : State) (x : Gang) : (s.putGang x).lxRound = s.lxRound := rfl
@[simp] theorem State.putGang_phase (s : State) (x : Gang) : (s.putGang x).phase = s.phase := rfl
@[simp] theorem State.putGang_regions (s : State) (x : Gang) : (s.putGang x).regions = s.regions := rfl
@[simp] theorem State.putGang_cells (s : State) (x : Gang) : (s.putGang x).cells = s.cells := rfl
@[simp] theorem State.putGang_marks (s : State) (x : Gang) : (s.putGang x).marks = s.marks := rfl
@[simp] theorem State.putGang_cellPoison (s : State) (x : Gang) : (s.putGang x).cellPoison = s.cellPoison := rfl
@[simp] theorem State.putGang_exchange (s : State) (x : Gang) : (s.putGang x).exchange = s.exchange := rfl
@[simp] theorem State.putGang_seats (s : State) (x : Gang) : (s.putGang x).seats = s.seats := rfl
@[simp] theorem State.putGang_tiles (s : State) (x : Gang) : (s.putGang x).tiles = s.tiles := rfl
@[simp] theorem State.putGang_msgs (s : State) (x : Gang) : (s.putGang x).msgs = s.msgs := rfl
@[simp] theorem State.putGang_replies (s : State) (x : Gang) : (s.putGang x).replies = s.replies := rfl
@[simp] theorem State.putGang_reports (s : State) (x : Gang) : (s.putGang x).reports = s.reports := rfl
@[simp] theorem State.putGang_inputs (s : State) (x : Gang) : (s.putGang x).inputs = s.inputs := rfl
@[simp] theorem State.putGang_ordSeq (s : State) (x : Gang) : (s.putGang x).ordSeq = s.ordSeq := rfl
@[simp] theorem State.putGang_floor (s : State) (x : Gang) : (s.putGang x).floor = s.floor := rfl
@[simp] theorem State.putGang_portSent (s : State) (x : Gang) : (s.putGang x).portSent = s.portSent := rfl
@[simp] theorem State.putGang_peerOut (s : State) (x : Gang) : (s.putGang x).peerOut = s.peerOut := rfl
@[simp] theorem State.putGang_podid (s : State) (x : Gang) : (s.putGang x).podid = s.podid := rfl
@[simp] theorem State.putGang_chparent (s : State) (x : Gang) : (s.putGang x).chparent = s.chparent := rfl
@[simp] theorem State.putGang_chstat (s : State) (x : Gang) : (s.putGang x).chstat = s.chstat := rfl
@[simp] theorem State.putGang_rmap (s : State) (x : Gang) : (s.putGang x).rmap = s.rmap := rfl
@[simp] theorem State.putGang_wins (s : State) (x : Gang) : (s.putGang x).wins = s.wins := rfl
@[simp] theorem State.putGang_queues (s : State) (x : Gang) : (s.putGang x).queues = s.queues := rfl
@[simp] theorem State.putGang_launches (s : State) (x : Gang) : (s.putGang x).launches = s.launches := rfl
@[simp] theorem State.putGang_served (s : State) (x : Gang) : (s.putGang x).served = s.served := rfl
@[simp] theorem State.putGang_finished (s : State) (x : Gang) : (s.putGang x).finished = s.finished := rfl
@[simp] theorem State.putGang_tokens (s : State) (x : Gang) : (s.putGang x).tokens = s.tokens := rfl
@[simp] theorem State.putGang_saved (s : State) (x : Gang) : (s.putGang x).saved = s.saved := rfl
@[simp] theorem State.putGang_resumed (s : State) (x : Gang) : (s.putGang x).resumed = s.resumed := rfl
@[simp] theorem State.putGang_admitted (s : State) (x : Gang) : (s.putGang x).admitted = s.admitted := rfl
@[simp] theorem State.putGang_journal (s : State) (x : Gang) : (s.putGang x).journal = s.journal := rfl
@[simp] theorem State.putGang_jseq (s : State) (x : Gang) : (s.putGang x).jseq = s.jseq := rfl
@[simp] theorem State.putGang_schedUp (s : State) (x : Gang) : (s.putGang x).schedUp = s.schedUp := rfl
@[simp] theorem State.putGang_held (s : State) (x : Gang) : (s.putGang x).held = s.held := rfl
@[simp] theorem State.putGang_hostOut (s : State) (x : Gang) : (s.putGang x).hostOut = s.hostOut := rfl
@[simp] theorem State.putGang_margin (s : State) (x : Gang) : (s.putGang x).margin = s.margin := rfl
@[simp] theorem State.putGang_links (s : State) (x : Gang) : (s.putGang x).links = s.links := rfl
@[simp] theorem State.putGang_power (s : State) (x : Gang) : (s.putGang x).power = s.power := rfl
@[simp] theorem State.putGang_cursor (s : State) (x : Gang) : (s.putGang x).cursor = s.cursor := rfl
@[simp] theorem State.putGang_agenda (s : State) (x : Gang) : (s.putGang x).agenda = s.agenda := rfl
@[simp] theorem State.putGang_round (s : State) (x : Gang) : (s.putGang x).round = s.round := rfl
@[simp] theorem State.putGang_free (s : State) (x : Gang) : (s.putGang x).free = s.free := rfl
@[simp] theorem State.putGang_serial (s : State) (x : Gang) : (s.putGang x).serial = s.serial := rfl
@[simp] theorem State.putGang_away (s : State) (x : Gang) : (s.putGang x).away = s.away := rfl
@[simp] theorem State.putGang_hostMaps (s : State) (x : Gang) : (s.putGang x).hostMaps = s.hostMaps := rfl
@[simp] theorem State.putGang_ended (s : State) (x : Gang) : (s.putGang x).ended = s.ended := rfl
@[simp] theorem State.putGang_checked (s : State) (x : Gang) : (s.putGang x).checked = s.checked := rfl
@[simp] theorem State.putGang_mirror (s : State) (x : Gang) : (s.putGang x).mirror = s.mirror := rfl
@[simp] theorem State.putGang_flash (s : State) (x : Gang) : (s.putGang x).flash = s.flash := rfl
@[simp] theorem State.putGang_snapshots (s : State) (x : Gang) : (s.putGang x).snapshots = s.snapshots := rfl
@[simp] theorem State.putGang_unwritten (s : State) (x : Gang) : (s.putGang x).unwritten = s.unwritten := rfl
@[simp] theorem State.putGang_notices (s : State) (x : Gang) : (s.putGang x).notices = s.notices := rfl

@[simp] theorem State.putTile_booted (s : State) (t : Tile) : (s.putTile t).booted = s.booted := rfl
@[simp] theorem State.putTile_portOpen (s : State) (t : Tile) : (s.putTile t).portOpen = s.portOpen := rfl
@[simp] theorem State.putTile_moduleOn (s : State) (t : Tile) : (s.putTile t).moduleOn = s.moduleOn := rfl
@[simp] theorem State.putTile_powered (s : State) (t : Tile) : (s.putTile t).powered = s.powered := rfl
@[simp] theorem State.putTile_chorus (s : State) (t : Tile) : (s.putTile t).chorus = s.chorus := rfl
@[simp] theorem State.putTile_diepres (s : State) (t : Tile) : (s.putTile t).diepres = s.diepres := rfl
@[simp] theorem State.putTile_hbm (s : State) (t : Tile) : (s.putTile t).hbm = s.hbm := rfl
@[simp] theorem State.putTile_hostMem (s : State) (t : Tile) : (s.putTile t).hostMem = s.hostMem := rfl
@[simp] theorem State.putTile_hbmPoison (s : State) (t : Tile) : (s.putTile t).hbmPoison = s.hbmPoison := rfl
@[simp] theorem State.putTile_spares (s : State) (t : Tile) : (s.putTile t).spares = s.spares := rfl
@[simp] theorem State.putTile_pages (s : State) (t : Tile) : (s.putTile t).pages = s.pages := rfl
@[simp] theorem State.putTile_caches (s : State) (t : Tile) : (s.putTile t).caches = s.caches := rfl
@[simp] theorem State.putTile_access (s : State) (t : Tile) : (s.putTile t).access = s.access := rfl
@[simp] theorem State.putTile_lxPeriod (s : State) (t : Tile) : (s.putTile t).lxPeriod = s.lxPeriod := rfl
@[simp] theorem State.putTile_lxRound (s : State) (t : Tile) : (s.putTile t).lxRound = s.lxRound := rfl
@[simp] theorem State.putTile_phase (s : State) (t : Tile) : (s.putTile t).phase = s.phase := rfl
@[simp] theorem State.putTile_regions (s : State) (t : Tile) : (s.putTile t).regions = s.regions := rfl
@[simp] theorem State.putTile_cells (s : State) (t : Tile) : (s.putTile t).cells = s.cells := rfl
@[simp] theorem State.putTile_marks (s : State) (t : Tile) : (s.putTile t).marks = s.marks := rfl
@[simp] theorem State.putTile_cellPoison (s : State) (t : Tile) : (s.putTile t).cellPoison = s.cellPoison := rfl
@[simp] theorem State.putTile_exchange (s : State) (t : Tile) : (s.putTile t).exchange = s.exchange := rfl
@[simp] theorem State.putTile_gangs (s : State) (t : Tile) : (s.putTile t).gangs = s.gangs := rfl
@[simp] theorem State.putTile_seats (s : State) (t : Tile) : (s.putTile t).seats = s.seats := rfl
@[simp] theorem State.putTile_msgs (s : State) (t : Tile) : (s.putTile t).msgs = s.msgs := rfl
@[simp] theorem State.putTile_replies (s : State) (t : Tile) : (s.putTile t).replies = s.replies := rfl
@[simp] theorem State.putTile_reports (s : State) (t : Tile) : (s.putTile t).reports = s.reports := rfl
@[simp] theorem State.putTile_inputs (s : State) (t : Tile) : (s.putTile t).inputs = s.inputs := rfl
@[simp] theorem State.putTile_ordSeq (s : State) (t : Tile) : (s.putTile t).ordSeq = s.ordSeq := rfl
@[simp] theorem State.putTile_floor (s : State) (t : Tile) : (s.putTile t).floor = s.floor := rfl
@[simp] theorem State.putTile_portSent (s : State) (t : Tile) : (s.putTile t).portSent = s.portSent := rfl
@[simp] theorem State.putTile_peerOut (s : State) (t : Tile) : (s.putTile t).peerOut = s.peerOut := rfl
@[simp] theorem State.putTile_podid (s : State) (t : Tile) : (s.putTile t).podid = s.podid := rfl
@[simp] theorem State.putTile_chparent (s : State) (t : Tile) : (s.putTile t).chparent = s.chparent := rfl
@[simp] theorem State.putTile_chstat (s : State) (t : Tile) : (s.putTile t).chstat = s.chstat := rfl
@[simp] theorem State.putTile_rmap (s : State) (t : Tile) : (s.putTile t).rmap = s.rmap := rfl
@[simp] theorem State.putTile_wins (s : State) (t : Tile) : (s.putTile t).wins = s.wins := rfl
@[simp] theorem State.putTile_queues (s : State) (t : Tile) : (s.putTile t).queues = s.queues := rfl
@[simp] theorem State.putTile_launches (s : State) (t : Tile) : (s.putTile t).launches = s.launches := rfl
@[simp] theorem State.putTile_served (s : State) (t : Tile) : (s.putTile t).served = s.served := rfl
@[simp] theorem State.putTile_finished (s : State) (t : Tile) : (s.putTile t).finished = s.finished := rfl
@[simp] theorem State.putTile_tokens (s : State) (t : Tile) : (s.putTile t).tokens = s.tokens := rfl
@[simp] theorem State.putTile_saved (s : State) (t : Tile) : (s.putTile t).saved = s.saved := rfl
@[simp] theorem State.putTile_resumed (s : State) (t : Tile) : (s.putTile t).resumed = s.resumed := rfl
@[simp] theorem State.putTile_admitted (s : State) (t : Tile) : (s.putTile t).admitted = s.admitted := rfl
@[simp] theorem State.putTile_journal (s : State) (t : Tile) : (s.putTile t).journal = s.journal := rfl
@[simp] theorem State.putTile_jseq (s : State) (t : Tile) : (s.putTile t).jseq = s.jseq := rfl
@[simp] theorem State.putTile_schedUp (s : State) (t : Tile) : (s.putTile t).schedUp = s.schedUp := rfl
@[simp] theorem State.putTile_held (s : State) (t : Tile) : (s.putTile t).held = s.held := rfl
@[simp] theorem State.putTile_hostOut (s : State) (t : Tile) : (s.putTile t).hostOut = s.hostOut := rfl
@[simp] theorem State.putTile_margin (s : State) (t : Tile) : (s.putTile t).margin = s.margin := rfl
@[simp] theorem State.putTile_links (s : State) (t : Tile) : (s.putTile t).links = s.links := rfl
@[simp] theorem State.putTile_power (s : State) (t : Tile) : (s.putTile t).power = s.power := rfl
@[simp] theorem State.putTile_cursor (s : State) (t : Tile) : (s.putTile t).cursor = s.cursor := rfl
@[simp] theorem State.putTile_agenda (s : State) (t : Tile) : (s.putTile t).agenda = s.agenda := rfl
@[simp] theorem State.putTile_round (s : State) (t : Tile) : (s.putTile t).round = s.round := rfl
@[simp] theorem State.putTile_free (s : State) (t : Tile) : (s.putTile t).free = s.free := rfl
@[simp] theorem State.putTile_serial (s : State) (t : Tile) : (s.putTile t).serial = s.serial := rfl
@[simp] theorem State.putTile_away (s : State) (t : Tile) : (s.putTile t).away = s.away := rfl
@[simp] theorem State.putTile_hostMaps (s : State) (t : Tile) : (s.putTile t).hostMaps = s.hostMaps := rfl
@[simp] theorem State.putTile_ended (s : State) (t : Tile) : (s.putTile t).ended = s.ended := rfl
@[simp] theorem State.putTile_checked (s : State) (t : Tile) : (s.putTile t).checked = s.checked := rfl
@[simp] theorem State.putTile_mirror (s : State) (t : Tile) : (s.putTile t).mirror = s.mirror := rfl
@[simp] theorem State.putTile_flash (s : State) (t : Tile) : (s.putTile t).flash = s.flash := rfl
@[simp] theorem State.putTile_snapshots (s : State) (t : Tile) : (s.putTile t).snapshots = s.snapshots := rfl
@[simp] theorem State.putTile_unwritten (s : State) (t : Tile) : (s.putTile t).unwritten = s.unwritten := rfl
@[simp] theorem State.putTile_notices (s : State) (t : Tile) : (s.putTile t).notices = s.notices := rfl

@[simp] theorem State.pastSlot_booted (s : State) : (s.pastSlot ).booted = s.booted := rfl
@[simp] theorem State.pastSlot_portOpen (s : State) : (s.pastSlot ).portOpen = s.portOpen := rfl
@[simp] theorem State.pastSlot_moduleOn (s : State) : (s.pastSlot ).moduleOn = s.moduleOn := rfl
@[simp] theorem State.pastSlot_powered (s : State) : (s.pastSlot ).powered = s.powered := rfl
@[simp] theorem State.pastSlot_chorus (s : State) : (s.pastSlot ).chorus = s.chorus := rfl
@[simp] theorem State.pastSlot_diepres (s : State) : (s.pastSlot ).diepres = s.diepres := rfl
@[simp] theorem State.pastSlot_hbm (s : State) : (s.pastSlot ).hbm = s.hbm := rfl
@[simp] theorem State.pastSlot_hostMem (s : State) : (s.pastSlot ).hostMem = s.hostMem := rfl
@[simp] theorem State.pastSlot_hbmPoison (s : State) : (s.pastSlot ).hbmPoison = s.hbmPoison := rfl
@[simp] theorem State.pastSlot_spares (s : State) : (s.pastSlot ).spares = s.spares := rfl
@[simp] theorem State.pastSlot_pages (s : State) : (s.pastSlot ).pages = s.pages := rfl
@[simp] theorem State.pastSlot_caches (s : State) : (s.pastSlot ).caches = s.caches := rfl
@[simp] theorem State.pastSlot_access (s : State) : (s.pastSlot ).access = s.access := rfl
@[simp] theorem State.pastSlot_lxPeriod (s : State) : (s.pastSlot ).lxPeriod = s.lxPeriod := rfl
@[simp] theorem State.pastSlot_lxRound (s : State) : (s.pastSlot ).lxRound = s.lxRound := rfl
@[simp] theorem State.pastSlot_phase (s : State) : (s.pastSlot ).phase = s.phase := rfl
@[simp] theorem State.pastSlot_regions (s : State) : (s.pastSlot ).regions = s.regions := rfl
@[simp] theorem State.pastSlot_cells (s : State) : (s.pastSlot ).cells = s.cells := rfl
@[simp] theorem State.pastSlot_marks (s : State) : (s.pastSlot ).marks = s.marks := rfl
@[simp] theorem State.pastSlot_cellPoison (s : State) : (s.pastSlot ).cellPoison = s.cellPoison := rfl
@[simp] theorem State.pastSlot_exchange (s : State) : (s.pastSlot ).exchange = s.exchange := rfl
@[simp] theorem State.pastSlot_gangs (s : State) : (s.pastSlot ).gangs = s.gangs := rfl
@[simp] theorem State.pastSlot_seats (s : State) : (s.pastSlot ).seats = s.seats := rfl
@[simp] theorem State.pastSlot_tiles (s : State) : (s.pastSlot ).tiles = s.tiles := rfl
@[simp] theorem State.pastSlot_msgs (s : State) : (s.pastSlot ).msgs = s.msgs := rfl
@[simp] theorem State.pastSlot_replies (s : State) : (s.pastSlot ).replies = s.replies := rfl
@[simp] theorem State.pastSlot_reports (s : State) : (s.pastSlot ).reports = s.reports := rfl
@[simp] theorem State.pastSlot_inputs (s : State) : (s.pastSlot ).inputs = s.inputs := rfl
@[simp] theorem State.pastSlot_ordSeq (s : State) : (s.pastSlot ).ordSeq = s.ordSeq := rfl
@[simp] theorem State.pastSlot_floor (s : State) : (s.pastSlot ).floor = s.floor := rfl
@[simp] theorem State.pastSlot_portSent (s : State) : (s.pastSlot ).portSent = s.portSent := rfl
@[simp] theorem State.pastSlot_peerOut (s : State) : (s.pastSlot ).peerOut = s.peerOut := rfl
@[simp] theorem State.pastSlot_podid (s : State) : (s.pastSlot ).podid = s.podid := rfl
@[simp] theorem State.pastSlot_chparent (s : State) : (s.pastSlot ).chparent = s.chparent := rfl
@[simp] theorem State.pastSlot_chstat (s : State) : (s.pastSlot ).chstat = s.chstat := rfl
@[simp] theorem State.pastSlot_rmap (s : State) : (s.pastSlot ).rmap = s.rmap := rfl
@[simp] theorem State.pastSlot_wins (s : State) : (s.pastSlot ).wins = s.wins := rfl
@[simp] theorem State.pastSlot_queues (s : State) : (s.pastSlot ).queues = s.queues := rfl
@[simp] theorem State.pastSlot_launches (s : State) : (s.pastSlot ).launches = s.launches := rfl
@[simp] theorem State.pastSlot_served (s : State) : (s.pastSlot ).served = s.served := rfl
@[simp] theorem State.pastSlot_finished (s : State) : (s.pastSlot ).finished = s.finished := rfl
@[simp] theorem State.pastSlot_tokens (s : State) : (s.pastSlot ).tokens = s.tokens := rfl
@[simp] theorem State.pastSlot_saved (s : State) : (s.pastSlot ).saved = s.saved := rfl
@[simp] theorem State.pastSlot_resumed (s : State) : (s.pastSlot ).resumed = s.resumed := rfl
@[simp] theorem State.pastSlot_admitted (s : State) : (s.pastSlot ).admitted = s.admitted := rfl
@[simp] theorem State.pastSlot_journal (s : State) : (s.pastSlot ).journal = s.journal := rfl
@[simp] theorem State.pastSlot_jseq (s : State) : (s.pastSlot ).jseq = s.jseq := rfl
@[simp] theorem State.pastSlot_schedUp (s : State) : (s.pastSlot ).schedUp = s.schedUp := rfl
@[simp] theorem State.pastSlot_held (s : State) : (s.pastSlot ).held = s.held := rfl
@[simp] theorem State.pastSlot_hostOut (s : State) : (s.pastSlot ).hostOut = s.hostOut := rfl
@[simp] theorem State.pastSlot_margin (s : State) : (s.pastSlot ).margin = s.margin := rfl
@[simp] theorem State.pastSlot_links (s : State) : (s.pastSlot ).links = s.links := rfl
@[simp] theorem State.pastSlot_power (s : State) : (s.pastSlot ).power = s.power := rfl
@[simp] theorem State.pastSlot_agenda (s : State) : (s.pastSlot ).agenda = s.agenda := rfl
@[simp] theorem State.pastSlot_round (s : State) : (s.pastSlot ).round = s.round := rfl
@[simp] theorem State.pastSlot_free (s : State) : (s.pastSlot ).free = s.free := rfl
@[simp] theorem State.pastSlot_serial (s : State) : (s.pastSlot ).serial = s.serial := rfl
@[simp] theorem State.pastSlot_away (s : State) : (s.pastSlot ).away = s.away := rfl
@[simp] theorem State.pastSlot_hostMaps (s : State) : (s.pastSlot ).hostMaps = s.hostMaps := rfl
@[simp] theorem State.pastSlot_ended (s : State) : (s.pastSlot ).ended = s.ended := rfl
@[simp] theorem State.pastSlot_checked (s : State) : (s.pastSlot ).checked = s.checked := rfl
@[simp] theorem State.pastSlot_mirror (s : State) : (s.pastSlot ).mirror = s.mirror := rfl
@[simp] theorem State.pastSlot_flash (s : State) : (s.pastSlot ).flash = s.flash := rfl
@[simp] theorem State.pastSlot_snapshots (s : State) : (s.pastSlot ).snapshots = s.snapshots := rfl
@[simp] theorem State.pastSlot_unwritten (s : State) : (s.pastSlot ).unwritten = s.unwritten := rfl
@[simp] theorem State.pastSlot_notices (s : State) : (s.pastSlot ).notices = s.notices := rfl

/-- Where the slot goes changes tiles, and monitor counts of seats. -/
theorem State.giveSlot_shape (s : State) (tile : Nat) (k : Option Nat) :
    ∃ a b, s.giveSlot tile k = { s with tiles := a, seats := b } := by
  unfold State.giveSlot
  by_cases h : (s.tile tile).holder = k
  · rw [if_pos h]; exact ⟨_, _, rfl⟩
  · rw [if_neg h]; exact ⟨_, _, rfl⟩

/-- A seat that stops changes itself, and who holds the slot of its tile. -/
theorem State.stopSeat_shape (s : State) (x : Seat) : ∃ a b, s.stopSeat x = { s with tiles := a, seats := b } := by
  unfold State.stopSeat; split
  · obtain ⟨a, b, h⟩ := (s.putSeat x).giveSlot_shape (x.id / 4) (((s.putSeat x).candidate (x.id / 4) (x.id % 4) (some x.id)).map (·.id))
    exact ⟨a, b, h⟩
  · exact ⟨_, _, rfl⟩

/-- A trap, or a hold, ends the execution and changes its seat and who holds the slot of its tile. -/
theorem State.takeTrap_shape (s : State) (x : Seat) (e : TrapInfo) (n : Nat) :
    ∃ a b, s.takeTrap x e n = { s with tiles := a, seats := b, cursor := none } := by
  unfold State.takeTrap
  by_cases h : e.cause = 0
  · simp only [h, if_true]; exact ⟨_, _, rfl⟩
  · simp only [h, if_false]
    obtain ⟨a, b, h⟩ := s.stopSeat_shape (x.trapF e n)
    exact ⟨a, b, by rw [h]⟩

@[simp] theorem State.takeTrap_booted (s : State) (x : Seat) (e : TrapInfo) (n : Nat) : (s.takeTrap x e n).booted = s.booted := by
  obtain ⟨a, b, h⟩ := s.takeTrap_shape x e n; rw [h]
@[simp] theorem State.takeTrap_portOpen (s : State) (x : Seat) (e : TrapInfo) (n : Nat) : (s.takeTrap x e n).portOpen = s.portOpen := by
  obtain ⟨a, b, h⟩ := s.takeTrap_shape x e n; rw [h]
@[simp] theorem State.takeTrap_moduleOn (s : State) (x : Seat) (e : TrapInfo) (n : Nat) : (s.takeTrap x e n).moduleOn = s.moduleOn := by
  obtain ⟨a, b, h⟩ := s.takeTrap_shape x e n; rw [h]
@[simp] theorem State.takeTrap_powered (s : State) (x : Seat) (e : TrapInfo) (n : Nat) : (s.takeTrap x e n).powered = s.powered := by
  obtain ⟨a, b, h⟩ := s.takeTrap_shape x e n; rw [h]
@[simp] theorem State.takeTrap_chorus (s : State) (x : Seat) (e : TrapInfo) (n : Nat) : (s.takeTrap x e n).chorus = s.chorus := by
  obtain ⟨a, b, h⟩ := s.takeTrap_shape x e n; rw [h]
@[simp] theorem State.takeTrap_diepres (s : State) (x : Seat) (e : TrapInfo) (n : Nat) : (s.takeTrap x e n).diepres = s.diepres := by
  obtain ⟨a, b, h⟩ := s.takeTrap_shape x e n; rw [h]
@[simp] theorem State.takeTrap_hbm (s : State) (x : Seat) (e : TrapInfo) (n : Nat) : (s.takeTrap x e n).hbm = s.hbm := by
  obtain ⟨a, b, h⟩ := s.takeTrap_shape x e n; rw [h]
@[simp] theorem State.takeTrap_hostMem (s : State) (x : Seat) (e : TrapInfo) (n : Nat) : (s.takeTrap x e n).hostMem = s.hostMem := by
  obtain ⟨a, b, h⟩ := s.takeTrap_shape x e n; rw [h]
@[simp] theorem State.takeTrap_hbmPoison (s : State) (x : Seat) (e : TrapInfo) (n : Nat) : (s.takeTrap x e n).hbmPoison = s.hbmPoison := by
  obtain ⟨a, b, h⟩ := s.takeTrap_shape x e n; rw [h]
@[simp] theorem State.takeTrap_spares (s : State) (x : Seat) (e : TrapInfo) (n : Nat) : (s.takeTrap x e n).spares = s.spares := by
  obtain ⟨a, b, h⟩ := s.takeTrap_shape x e n; rw [h]
@[simp] theorem State.takeTrap_pages (s : State) (x : Seat) (e : TrapInfo) (n : Nat) : (s.takeTrap x e n).pages = s.pages := by
  obtain ⟨a, b, h⟩ := s.takeTrap_shape x e n; rw [h]
@[simp] theorem State.takeTrap_caches (s : State) (x : Seat) (e : TrapInfo) (n : Nat) : (s.takeTrap x e n).caches = s.caches := by
  obtain ⟨a, b, h⟩ := s.takeTrap_shape x e n; rw [h]
@[simp] theorem State.takeTrap_access (s : State) (x : Seat) (e : TrapInfo) (n : Nat) : (s.takeTrap x e n).access = s.access := by
  obtain ⟨a, b, h⟩ := s.takeTrap_shape x e n; rw [h]
@[simp] theorem State.takeTrap_lxPeriod (s : State) (x : Seat) (e : TrapInfo) (n : Nat) : (s.takeTrap x e n).lxPeriod = s.lxPeriod := by
  obtain ⟨a, b, h⟩ := s.takeTrap_shape x e n; rw [h]
@[simp] theorem State.takeTrap_lxRound (s : State) (x : Seat) (e : TrapInfo) (n : Nat) : (s.takeTrap x e n).lxRound = s.lxRound := by
  obtain ⟨a, b, h⟩ := s.takeTrap_shape x e n; rw [h]
@[simp] theorem State.takeTrap_phase (s : State) (x : Seat) (e : TrapInfo) (n : Nat) : (s.takeTrap x e n).phase = s.phase := by
  obtain ⟨a, b, h⟩ := s.takeTrap_shape x e n; rw [h]
@[simp] theorem State.takeTrap_regions (s : State) (x : Seat) (e : TrapInfo) (n : Nat) : (s.takeTrap x e n).regions = s.regions := by
  obtain ⟨a, b, h⟩ := s.takeTrap_shape x e n; rw [h]
@[simp] theorem State.takeTrap_cells (s : State) (x : Seat) (e : TrapInfo) (n : Nat) : (s.takeTrap x e n).cells = s.cells := by
  obtain ⟨a, b, h⟩ := s.takeTrap_shape x e n; rw [h]
@[simp] theorem State.takeTrap_marks (s : State) (x : Seat) (e : TrapInfo) (n : Nat) : (s.takeTrap x e n).marks = s.marks := by
  obtain ⟨a, b, h⟩ := s.takeTrap_shape x e n; rw [h]
@[simp] theorem State.takeTrap_cellPoison (s : State) (x : Seat) (e : TrapInfo) (n : Nat) : (s.takeTrap x e n).cellPoison = s.cellPoison := by
  obtain ⟨a, b, h⟩ := s.takeTrap_shape x e n; rw [h]
@[simp] theorem State.takeTrap_exchange (s : State) (x : Seat) (e : TrapInfo) (n : Nat) : (s.takeTrap x e n).exchange = s.exchange := by
  obtain ⟨a, b, h⟩ := s.takeTrap_shape x e n; rw [h]
@[simp] theorem State.takeTrap_gangs (s : State) (x : Seat) (e : TrapInfo) (n : Nat) : (s.takeTrap x e n).gangs = s.gangs := by
  obtain ⟨a, b, h⟩ := s.takeTrap_shape x e n; rw [h]
/-- A hold leaves the slot where it is. -/
theorem State.takeTrap_tiles (s : State) (x : Seat) (e : TrapInfo) (n : Nat) (he : e.cause = 0) : (s.takeTrap x e n).tiles = s.tiles := by
  unfold State.takeTrap; simp only [he, if_true]; rfl
@[simp] theorem State.takeTrap_msgs (s : State) (x : Seat) (e : TrapInfo) (n : Nat) : (s.takeTrap x e n).msgs = s.msgs := by
  obtain ⟨a, b, h⟩ := s.takeTrap_shape x e n; rw [h]
@[simp] theorem State.takeTrap_replies (s : State) (x : Seat) (e : TrapInfo) (n : Nat) : (s.takeTrap x e n).replies = s.replies := by
  obtain ⟨a, b, h⟩ := s.takeTrap_shape x e n; rw [h]
@[simp] theorem State.takeTrap_reports (s : State) (x : Seat) (e : TrapInfo) (n : Nat) : (s.takeTrap x e n).reports = s.reports := by
  obtain ⟨a, b, h⟩ := s.takeTrap_shape x e n; rw [h]
@[simp] theorem State.takeTrap_inputs (s : State) (x : Seat) (e : TrapInfo) (n : Nat) : (s.takeTrap x e n).inputs = s.inputs := by
  obtain ⟨a, b, h⟩ := s.takeTrap_shape x e n; rw [h]
@[simp] theorem State.takeTrap_ordSeq (s : State) (x : Seat) (e : TrapInfo) (n : Nat) : (s.takeTrap x e n).ordSeq = s.ordSeq := by
  obtain ⟨a, b, h⟩ := s.takeTrap_shape x e n; rw [h]
@[simp] theorem State.takeTrap_floor (s : State) (x : Seat) (e : TrapInfo) (n : Nat) : (s.takeTrap x e n).floor = s.floor := by
  obtain ⟨a, b, h⟩ := s.takeTrap_shape x e n; rw [h]
@[simp] theorem State.takeTrap_portSent (s : State) (x : Seat) (e : TrapInfo) (n : Nat) : (s.takeTrap x e n).portSent = s.portSent := by
  obtain ⟨a, b, h⟩ := s.takeTrap_shape x e n; rw [h]
@[simp] theorem State.takeTrap_peerOut (s : State) (x : Seat) (e : TrapInfo) (n : Nat) : (s.takeTrap x e n).peerOut = s.peerOut := by
  obtain ⟨a, b, h⟩ := s.takeTrap_shape x e n; rw [h]
@[simp] theorem State.takeTrap_podid (s : State) (x : Seat) (e : TrapInfo) (n : Nat) : (s.takeTrap x e n).podid = s.podid := by
  obtain ⟨a, b, h⟩ := s.takeTrap_shape x e n; rw [h]
@[simp] theorem State.takeTrap_chparent (s : State) (x : Seat) (e : TrapInfo) (n : Nat) : (s.takeTrap x e n).chparent = s.chparent := by
  obtain ⟨a, b, h⟩ := s.takeTrap_shape x e n; rw [h]
@[simp] theorem State.takeTrap_chstat (s : State) (x : Seat) (e : TrapInfo) (n : Nat) : (s.takeTrap x e n).chstat = s.chstat := by
  obtain ⟨a, b, h⟩ := s.takeTrap_shape x e n; rw [h]
@[simp] theorem State.takeTrap_rmap (s : State) (x : Seat) (e : TrapInfo) (n : Nat) : (s.takeTrap x e n).rmap = s.rmap := by
  obtain ⟨a, b, h⟩ := s.takeTrap_shape x e n; rw [h]
@[simp] theorem State.takeTrap_wins (s : State) (x : Seat) (e : TrapInfo) (n : Nat) : (s.takeTrap x e n).wins = s.wins := by
  obtain ⟨a, b, h⟩ := s.takeTrap_shape x e n; rw [h]
@[simp] theorem State.takeTrap_queues (s : State) (x : Seat) (e : TrapInfo) (n : Nat) : (s.takeTrap x e n).queues = s.queues := by
  obtain ⟨a, b, h⟩ := s.takeTrap_shape x e n; rw [h]
@[simp] theorem State.takeTrap_launches (s : State) (x : Seat) (e : TrapInfo) (n : Nat) : (s.takeTrap x e n).launches = s.launches := by
  obtain ⟨a, b, h⟩ := s.takeTrap_shape x e n; rw [h]
@[simp] theorem State.takeTrap_served (s : State) (x : Seat) (e : TrapInfo) (n : Nat) : (s.takeTrap x e n).served = s.served := by
  obtain ⟨a, b, h⟩ := s.takeTrap_shape x e n; rw [h]
@[simp] theorem State.takeTrap_finished (s : State) (x : Seat) (e : TrapInfo) (n : Nat) : (s.takeTrap x e n).finished = s.finished := by
  obtain ⟨a, b, h⟩ := s.takeTrap_shape x e n; rw [h]
@[simp] theorem State.takeTrap_tokens (s : State) (x : Seat) (e : TrapInfo) (n : Nat) : (s.takeTrap x e n).tokens = s.tokens := by
  obtain ⟨a, b, h⟩ := s.takeTrap_shape x e n; rw [h]
@[simp] theorem State.takeTrap_saved (s : State) (x : Seat) (e : TrapInfo) (n : Nat) : (s.takeTrap x e n).saved = s.saved := by
  obtain ⟨a, b, h⟩ := s.takeTrap_shape x e n; rw [h]
@[simp] theorem State.takeTrap_resumed (s : State) (x : Seat) (e : TrapInfo) (n : Nat) : (s.takeTrap x e n).resumed = s.resumed := by
  obtain ⟨a, b, h⟩ := s.takeTrap_shape x e n; rw [h]
@[simp] theorem State.takeTrap_admitted (s : State) (x : Seat) (e : TrapInfo) (n : Nat) : (s.takeTrap x e n).admitted = s.admitted := by
  obtain ⟨a, b, h⟩ := s.takeTrap_shape x e n; rw [h]
@[simp] theorem State.takeTrap_journal (s : State) (x : Seat) (e : TrapInfo) (n : Nat) : (s.takeTrap x e n).journal = s.journal := by
  obtain ⟨a, b, h⟩ := s.takeTrap_shape x e n; rw [h]
@[simp] theorem State.takeTrap_jseq (s : State) (x : Seat) (e : TrapInfo) (n : Nat) : (s.takeTrap x e n).jseq = s.jseq := by
  obtain ⟨a, b, h⟩ := s.takeTrap_shape x e n; rw [h]
@[simp] theorem State.takeTrap_schedUp (s : State) (x : Seat) (e : TrapInfo) (n : Nat) : (s.takeTrap x e n).schedUp = s.schedUp := by
  obtain ⟨a, b, h⟩ := s.takeTrap_shape x e n; rw [h]
@[simp] theorem State.takeTrap_held (s : State) (x : Seat) (e : TrapInfo) (n : Nat) : (s.takeTrap x e n).held = s.held := by
  obtain ⟨a, b, h⟩ := s.takeTrap_shape x e n; rw [h]
@[simp] theorem State.takeTrap_hostOut (s : State) (x : Seat) (e : TrapInfo) (n : Nat) : (s.takeTrap x e n).hostOut = s.hostOut := by
  obtain ⟨a, b, h⟩ := s.takeTrap_shape x e n; rw [h]
@[simp] theorem State.takeTrap_margin (s : State) (x : Seat) (e : TrapInfo) (n : Nat) : (s.takeTrap x e n).margin = s.margin := by
  obtain ⟨a, b, h⟩ := s.takeTrap_shape x e n; rw [h]
@[simp] theorem State.takeTrap_links (s : State) (x : Seat) (e : TrapInfo) (n : Nat) : (s.takeTrap x e n).links = s.links := by
  obtain ⟨a, b, h⟩ := s.takeTrap_shape x e n; rw [h]
@[simp] theorem State.takeTrap_power (s : State) (x : Seat) (e : TrapInfo) (n : Nat) : (s.takeTrap x e n).power = s.power := by
  obtain ⟨a, b, h⟩ := s.takeTrap_shape x e n; rw [h]
@[simp] theorem State.takeTrap_agenda (s : State) (x : Seat) (e : TrapInfo) (n : Nat) : (s.takeTrap x e n).agenda = s.agenda := by
  obtain ⟨a, b, h⟩ := s.takeTrap_shape x e n; rw [h]
@[simp] theorem State.takeTrap_round (s : State) (x : Seat) (e : TrapInfo) (n : Nat) : (s.takeTrap x e n).round = s.round := by
  obtain ⟨a, b, h⟩ := s.takeTrap_shape x e n; rw [h]
@[simp] theorem State.takeTrap_free (s : State) (x : Seat) (e : TrapInfo) (n : Nat) : (s.takeTrap x e n).free = s.free := by
  obtain ⟨a, b, h⟩ := s.takeTrap_shape x e n; rw [h]
@[simp] theorem State.takeTrap_serial (s : State) (x : Seat) (e : TrapInfo) (n : Nat) : (s.takeTrap x e n).serial = s.serial := by
  obtain ⟨a, b, h⟩ := s.takeTrap_shape x e n; rw [h]
@[simp] theorem State.takeTrap_away (s : State) (x : Seat) (e : TrapInfo) (n : Nat) : (s.takeTrap x e n).away = s.away := by
  obtain ⟨a, b, h⟩ := s.takeTrap_shape x e n; rw [h]
@[simp] theorem State.takeTrap_hostMaps (s : State) (x : Seat) (e : TrapInfo) (n : Nat) : (s.takeTrap x e n).hostMaps = s.hostMaps := by
  obtain ⟨a, b, h⟩ := s.takeTrap_shape x e n; rw [h]
@[simp] theorem State.takeTrap_ended (s : State) (x : Seat) (e : TrapInfo) (n : Nat) : (s.takeTrap x e n).ended = s.ended := by
  obtain ⟨a, b, h⟩ := s.takeTrap_shape x e n; rw [h]
@[simp] theorem State.takeTrap_checked (s : State) (x : Seat) (e : TrapInfo) (n : Nat) : (s.takeTrap x e n).checked = s.checked := by
  obtain ⟨a, b, h⟩ := s.takeTrap_shape x e n; rw [h]
@[simp] theorem State.takeTrap_mirror (s : State) (x : Seat) (e : TrapInfo) (n : Nat) : (s.takeTrap x e n).mirror = s.mirror := by
  obtain ⟨a, b, h⟩ := s.takeTrap_shape x e n; rw [h]
@[simp] theorem State.takeTrap_flash (s : State) (x : Seat) (e : TrapInfo) (n : Nat) : (s.takeTrap x e n).flash = s.flash := by
  obtain ⟨a, b, h⟩ := s.takeTrap_shape x e n; rw [h]
@[simp] theorem State.takeTrap_snapshots (s : State) (x : Seat) (e : TrapInfo) (n : Nat) : (s.takeTrap x e n).snapshots = s.snapshots := by
  obtain ⟨a, b, h⟩ := s.takeTrap_shape x e n; rw [h]
@[simp] theorem State.takeTrap_unwritten (s : State) (x : Seat) (e : TrapInfo) (n : Nat) : (s.takeTrap x e n).unwritten = s.unwritten := by
  obtain ⟨a, b, h⟩ := s.takeTrap_shape x e n; rw [h]
@[simp] theorem State.takeTrap_notices (s : State) (x : Seat) (e : TrapInfo) (n : Nat) : (s.takeTrap x e n).notices = s.notices := by
  obtain ⟨a, b, h⟩ := s.takeTrap_shape x e n; rw [h]

/-! ### A seat -/

@[simp] theorem Seat.land_id (x : Seat) (n l : Nat) (e : Land) : (x.land n l e).id = x.id := rfl
@[simp] theorem Seat.land_gang (x : Seat) (n l : Nat) (e : Land) : (x.land n l e).gang = x.gang := rfl
@[simp] theorem Seat.land_e (x : Seat) (n l : Nat) (e : Land) : (x.land n l e).e = x.e := rfl
@[simp] theorem Seat.land_m (x : Seat) (n l : Nat) (e : Land) : (x.land n l e).m = x.m := rfl
@[simp] theorem Seat.land_prio (x : Seat) (n l : Nat) (e : Land) : (x.land n l e).prio = x.prio := rfl
@[simp] theorem Seat.land_cfg (x : Seat) (n l : Nat) (e : Land) : (x.land n l e).cfg = x.cfg := rfl
@[simp] theorem Seat.land_regs (x : Seat) (n l : Nat) (e : Land) : (x.land n l e).regs = x.regs := rfl
@[simp] theorem Seat.land_standing (x : Seat) (n l : Nat) (e : Land) : (x.land n l e).standing = x.standing := rfl
@[simp] theorem Seat.land_skipDepth (x : Seat) (n l : Nat) (e : Land) : (x.land n l e).skipDepth = x.skipDepth := rfl
@[simp] theorem Seat.land_skipLevel (x : Seat) (n l : Nat) (e : Land) : (x.land n l e).skipLevel = x.skipLevel := rfl
@[simp] theorem Seat.land_cycle (x : Seat) (n l : Nat) (e : Land) : (x.land n l e).cycle = x.cycle := rfl
@[simp] theorem Seat.land_remotes (x : Seat) (n l : Nat) (e : Land) : (x.land n l e).remotes = x.remotes := rfl
@[simp] theorem Seat.land_mat (x : Seat) (n l : Nat) (e : Land) : (x.land n l e).mat = x.mat := rfl
@[simp] theorem Seat.land_pads (x : Seat) (n l : Nat) (e : Land) : (x.land n l e).pads = x.pads := rfl
@[simp] theorem Seat.land_sync (x : Seat) (n l : Nat) (e : Land) : (x.land n l e).sync = x.sync := rfl
@[simp] theorem Seat.land_copy (x : Seat) (n l : Nat) (e : Land) : (x.land n l e).copy = x.copy := rfl
@[simp] theorem Seat.land_sys (x : Seat) (n l : Nat) (e : Land) : (x.land n l e).sys = x.sys := rfl
@[simp] theorem Seat.land_transit (x : Seat) (n l : Nat) (e : Land) : (x.land n l e).transit = x.transit := rfl
@[simp] theorem Seat.land_queue (x : Seat) (n l : Nat) (e : Land) : (x.land n l e).queue = x.queue := rfl
@[simp] theorem Seat.land_cur (x : Seat) (n l : Nat) (e : Land) : (x.land n l e).cur = x.cur := rfl
@[simp] theorem Seat.land_run (x : Seat) (n l : Nat) (e : Land) : (x.land n l e).run = x.run := rfl
@[simp] theorem Seat.land_started (x : Seat) (n l : Nat) (e : Land) : (x.land n l e).started = x.started := rfl
@[simp] theorem Seat.land_go (x : Seat) (n l : Nat) (e : Land) : (x.land n l e).go = x.go := rfl
@[simp] theorem Seat.land_replayed (x : Seat) (n l : Nat) (e : Land) : (x.land n l e).replayed = x.replayed := rfl
@[simp] theorem Seat.land_skinked (x : Seat) (n l : Nat) (e : Land) : (x.land n l e).skinked = x.skinked := rfl
@[simp] theorem Seat.land_after (x : Seat) (n l : Nat) (e : Land) : (x.land n l e).after = x.after := rfl
@[simp] theorem Seat.land_asideState (x : Seat) (n l : Nat) (e : Land) : (x.land n l e).asideState = x.asideState := rfl
@[simp] theorem Seat.land_prepared (x : Seat) (n l : Nat) (e : Land) : (x.land n l e).prepared = x.prepared := rfl
@[simp] theorem Seat.land_outbox (x : Seat) (n l : Nat) (e : Land) : (x.land n l e).outbox = x.outbox := rfl
@[simp] theorem Seat.land_yields (x : Seat) (n l : Nat) (e : Land) : (x.land n l e).yields = x.yields := rfl
@[simp] theorem Seat.land_held (x : Seat) (n l : Nat) (e : Land) : (x.land n l e).held = x.held := rfl
@[simp] theorem Seat.land_extents (x : Seat) (n l : Nat) (e : Land) : (x.land n l e).extents = x.extents := rfl
@[simp] theorem Seat.land_unacked (x : Seat) (n l : Nat) (e : Land) : (x.land n l e).unacked = x.unacked := rfl
@[simp] theorem Seat.land_tied (x : Seat) (n l : Nat) (e : Land) : (x.land n l e).tied = x.tied := rfl
@[simp] theorem Seat.land_slab (x : Seat) (n l : Nat) (e : Land) : (x.land n l e).slab = x.slab := rfl

@[simp] theorem Seat.landV_id (x : Seat) (n l d : Nat) (v m : VReg) : (x.landV n l d v m).id = x.id := rfl
@[simp] theorem Seat.landV_gang (x : Seat) (n l d : Nat) (v m : VReg) : (x.landV n l d v m).gang = x.gang := rfl
@[simp] theorem Seat.landV_e (x : Seat) (n l d : Nat) (v m : VReg) : (x.landV n l d v m).e = x.e := rfl
@[simp] theorem Seat.landV_m (x : Seat) (n l d : Nat) (v m : VReg) : (x.landV n l d v m).m = x.m := rfl
@[simp] theorem Seat.landV_prio (x : Seat) (n l d : Nat) (v m : VReg) : (x.landV n l d v m).prio = x.prio := rfl
@[simp] theorem Seat.landV_cfg (x : Seat) (n l d : Nat) (v m : VReg) : (x.landV n l d v m).cfg = x.cfg := rfl
@[simp] theorem Seat.landV_regs (x : Seat) (n l d : Nat) (v m : VReg) : (x.landV n l d v m).regs = x.regs := rfl
@[simp] theorem Seat.landV_standing (x : Seat) (n l d : Nat) (v m : VReg) : (x.landV n l d v m).standing = x.standing := rfl
@[simp] theorem Seat.landV_skipDepth (x : Seat) (n l d : Nat) (v m : VReg) : (x.landV n l d v m).skipDepth = x.skipDepth := rfl
@[simp] theorem Seat.landV_skipLevel (x : Seat) (n l d : Nat) (v m : VReg) : (x.landV n l d v m).skipLevel = x.skipLevel := rfl
@[simp] theorem Seat.landV_cycle (x : Seat) (n l d : Nat) (v m : VReg) : (x.landV n l d v m).cycle = x.cycle := rfl
@[simp] theorem Seat.landV_remotes (x : Seat) (n l d : Nat) (v m : VReg) : (x.landV n l d v m).remotes = x.remotes := rfl
@[simp] theorem Seat.landV_mat (x : Seat) (n l d : Nat) (v m : VReg) : (x.landV n l d v m).mat = x.mat := rfl
@[simp] theorem Seat.landV_pads (x : Seat) (n l d : Nat) (v m : VReg) : (x.landV n l d v m).pads = x.pads := rfl
@[simp] theorem Seat.landV_sync (x : Seat) (n l d : Nat) (v m : VReg) : (x.landV n l d v m).sync = x.sync := rfl
@[simp] theorem Seat.landV_copy (x : Seat) (n l d : Nat) (v m : VReg) : (x.landV n l d v m).copy = x.copy := rfl
@[simp] theorem Seat.landV_sys (x : Seat) (n l d : Nat) (v m : VReg) : (x.landV n l d v m).sys = x.sys := rfl
@[simp] theorem Seat.landV_transit (x : Seat) (n l d : Nat) (v m : VReg) : (x.landV n l d v m).transit = x.transit := rfl
@[simp] theorem Seat.landV_queue (x : Seat) (n l d : Nat) (v m : VReg) : (x.landV n l d v m).queue = x.queue := rfl
@[simp] theorem Seat.landV_cur (x : Seat) (n l d : Nat) (v m : VReg) : (x.landV n l d v m).cur = x.cur := rfl
@[simp] theorem Seat.landV_run (x : Seat) (n l d : Nat) (v m : VReg) : (x.landV n l d v m).run = x.run := rfl
@[simp] theorem Seat.landV_started (x : Seat) (n l d : Nat) (v m : VReg) : (x.landV n l d v m).started = x.started := rfl
@[simp] theorem Seat.landV_go (x : Seat) (n l d : Nat) (v m : VReg) : (x.landV n l d v m).go = x.go := rfl
@[simp] theorem Seat.landV_replayed (x : Seat) (n l d : Nat) (v m : VReg) : (x.landV n l d v m).replayed = x.replayed := rfl
@[simp] theorem Seat.landV_skinked (x : Seat) (n l d : Nat) (v m : VReg) : (x.landV n l d v m).skinked = x.skinked := rfl
@[simp] theorem Seat.landV_after (x : Seat) (n l d : Nat) (v m : VReg) : (x.landV n l d v m).after = x.after := rfl
@[simp] theorem Seat.landV_asideState (x : Seat) (n l d : Nat) (v m : VReg) : (x.landV n l d v m).asideState = x.asideState := rfl
@[simp] theorem Seat.landV_prepared (x : Seat) (n l d : Nat) (v m : VReg) : (x.landV n l d v m).prepared = x.prepared := rfl
@[simp] theorem Seat.landV_outbox (x : Seat) (n l d : Nat) (v m : VReg) : (x.landV n l d v m).outbox = x.outbox := rfl
@[simp] theorem Seat.landV_yields (x : Seat) (n l d : Nat) (v m : VReg) : (x.landV n l d v m).yields = x.yields := rfl
@[simp] theorem Seat.landV_held (x : Seat) (n l d : Nat) (v m : VReg) : (x.landV n l d v m).held = x.held := rfl
@[simp] theorem Seat.landV_extents (x : Seat) (n l d : Nat) (v m : VReg) : (x.landV n l d v m).extents = x.extents := rfl
@[simp] theorem Seat.landV_unacked (x : Seat) (n l d : Nat) (v m : VReg) : (x.landV n l d v m).unacked = x.unacked := rfl
@[simp] theorem Seat.landV_tied (x : Seat) (n l d : Nat) (v m : VReg) : (x.landV n l d v m).tied = x.tied := rfl
@[simp] theorem Seat.landV_slab (x : Seat) (n l d : Nat) (v m : VReg) : (x.landV n l d v m).slab = x.slab := rfl

@[simp] theorem Seat.landS_id (x : Seat) (n l d : Nat) (v : Word64) : (x.landS n l d v).id = x.id := by unfold Seat.landS; split <;> rfl
@[simp] theorem Seat.landS_gang (x : Seat) (n l d : Nat) (v : Word64) : (x.landS n l d v).gang = x.gang := by unfold Seat.landS; split <;> rfl
@[simp] theorem Seat.landS_e (x : Seat) (n l d : Nat) (v : Word64) : (x.landS n l d v).e = x.e := by unfold Seat.landS; split <;> rfl
@[simp] theorem Seat.landS_m (x : Seat) (n l d : Nat) (v : Word64) : (x.landS n l d v).m = x.m := by unfold Seat.landS; split <;> rfl
@[simp] theorem Seat.landS_prio (x : Seat) (n l d : Nat) (v : Word64) : (x.landS n l d v).prio = x.prio := by unfold Seat.landS; split <;> rfl
@[simp] theorem Seat.landS_cfg (x : Seat) (n l d : Nat) (v : Word64) : (x.landS n l d v).cfg = x.cfg := by unfold Seat.landS; split <;> rfl
@[simp] theorem Seat.landS_regs (x : Seat) (n l d : Nat) (v : Word64) : (x.landS n l d v).regs = x.regs := by unfold Seat.landS; split <;> rfl
@[simp] theorem Seat.landS_standing (x : Seat) (n l d : Nat) (v : Word64) : (x.landS n l d v).standing = x.standing := by unfold Seat.landS; split <;> rfl
@[simp] theorem Seat.landS_skipDepth (x : Seat) (n l d : Nat) (v : Word64) : (x.landS n l d v).skipDepth = x.skipDepth := by unfold Seat.landS; split <;> rfl
@[simp] theorem Seat.landS_skipLevel (x : Seat) (n l d : Nat) (v : Word64) : (x.landS n l d v).skipLevel = x.skipLevel := by unfold Seat.landS; split <;> rfl
@[simp] theorem Seat.landS_cycle (x : Seat) (n l d : Nat) (v : Word64) : (x.landS n l d v).cycle = x.cycle := by unfold Seat.landS; split <;> rfl
@[simp] theorem Seat.landS_remotes (x : Seat) (n l d : Nat) (v : Word64) : (x.landS n l d v).remotes = x.remotes := by unfold Seat.landS; split <;> rfl
@[simp] theorem Seat.landS_mat (x : Seat) (n l d : Nat) (v : Word64) : (x.landS n l d v).mat = x.mat := by unfold Seat.landS; split <;> rfl
@[simp] theorem Seat.landS_pads (x : Seat) (n l d : Nat) (v : Word64) : (x.landS n l d v).pads = x.pads := by unfold Seat.landS; split <;> rfl
@[simp] theorem Seat.landS_sync (x : Seat) (n l d : Nat) (v : Word64) : (x.landS n l d v).sync = x.sync := by unfold Seat.landS; split <;> rfl
@[simp] theorem Seat.landS_copy (x : Seat) (n l d : Nat) (v : Word64) : (x.landS n l d v).copy = x.copy := by unfold Seat.landS; split <;> rfl
@[simp] theorem Seat.landS_sys (x : Seat) (n l d : Nat) (v : Word64) : (x.landS n l d v).sys = x.sys := by unfold Seat.landS; split <;> rfl
@[simp] theorem Seat.landS_transit (x : Seat) (n l d : Nat) (v : Word64) : (x.landS n l d v).transit = x.transit := by unfold Seat.landS; split <;> rfl
@[simp] theorem Seat.landS_queue (x : Seat) (n l d : Nat) (v : Word64) : (x.landS n l d v).queue = x.queue := by unfold Seat.landS; split <;> rfl
@[simp] theorem Seat.landS_cur (x : Seat) (n l d : Nat) (v : Word64) : (x.landS n l d v).cur = x.cur := by unfold Seat.landS; split <;> rfl
@[simp] theorem Seat.landS_run (x : Seat) (n l d : Nat) (v : Word64) : (x.landS n l d v).run = x.run := by unfold Seat.landS; split <;> rfl
@[simp] theorem Seat.landS_started (x : Seat) (n l d : Nat) (v : Word64) : (x.landS n l d v).started = x.started := by unfold Seat.landS; split <;> rfl
@[simp] theorem Seat.landS_go (x : Seat) (n l d : Nat) (v : Word64) : (x.landS n l d v).go = x.go := by unfold Seat.landS; split <;> rfl
@[simp] theorem Seat.landS_replayed (x : Seat) (n l d : Nat) (v : Word64) : (x.landS n l d v).replayed = x.replayed := by unfold Seat.landS; split <;> rfl
@[simp] theorem Seat.landS_skinked (x : Seat) (n l d : Nat) (v : Word64) : (x.landS n l d v).skinked = x.skinked := by unfold Seat.landS; split <;> rfl
@[simp] theorem Seat.landS_after (x : Seat) (n l d : Nat) (v : Word64) : (x.landS n l d v).after = x.after := by unfold Seat.landS; split <;> rfl
@[simp] theorem Seat.landS_asideState (x : Seat) (n l d : Nat) (v : Word64) : (x.landS n l d v).asideState = x.asideState := by unfold Seat.landS; split <;> rfl
@[simp] theorem Seat.landS_prepared (x : Seat) (n l d : Nat) (v : Word64) : (x.landS n l d v).prepared = x.prepared := by unfold Seat.landS; split <;> rfl
@[simp] theorem Seat.landS_outbox (x : Seat) (n l d : Nat) (v : Word64) : (x.landS n l d v).outbox = x.outbox := by unfold Seat.landS; split <;> rfl
@[simp] theorem Seat.landS_yields (x : Seat) (n l d : Nat) (v : Word64) : (x.landS n l d v).yields = x.yields := by unfold Seat.landS; split <;> rfl
@[simp] theorem Seat.landS_held (x : Seat) (n l d : Nat) (v : Word64) : (x.landS n l d v).held = x.held := by unfold Seat.landS; split <;> rfl
@[simp] theorem Seat.landS_extents (x : Seat) (n l d : Nat) (v : Word64) : (x.landS n l d v).extents = x.extents := by unfold Seat.landS; split <;> rfl
@[simp] theorem Seat.landS_unacked (x : Seat) (n l d : Nat) (v : Word64) : (x.landS n l d v).unacked = x.unacked := by unfold Seat.landS; split <;> rfl
@[simp] theorem Seat.landS_tied (x : Seat) (n l d : Nat) (v : Word64) : (x.landS n l d v).tied = x.tied := by unfold Seat.landS; split <;> rfl
@[simp] theorem Seat.landS_slab (x : Seat) (n l d : Nat) (v : Word64) : (x.landS n l d v).slab = x.slab := by unfold Seat.landS; split <;> rfl

@[simp] theorem Seat.landP_id (x : Seat) (n d : Nat) (v : Bool) : (x.landP n d v).id = x.id := by unfold Seat.landP; split <;> rfl
@[simp] theorem Seat.landP_gang (x : Seat) (n d : Nat) (v : Bool) : (x.landP n d v).gang = x.gang := by unfold Seat.landP; split <;> rfl
@[simp] theorem Seat.landP_e (x : Seat) (n d : Nat) (v : Bool) : (x.landP n d v).e = x.e := by unfold Seat.landP; split <;> rfl
@[simp] theorem Seat.landP_m (x : Seat) (n d : Nat) (v : Bool) : (x.landP n d v).m = x.m := by unfold Seat.landP; split <;> rfl
@[simp] theorem Seat.landP_prio (x : Seat) (n d : Nat) (v : Bool) : (x.landP n d v).prio = x.prio := by unfold Seat.landP; split <;> rfl
@[simp] theorem Seat.landP_cfg (x : Seat) (n d : Nat) (v : Bool) : (x.landP n d v).cfg = x.cfg := by unfold Seat.landP; split <;> rfl
@[simp] theorem Seat.landP_regs (x : Seat) (n d : Nat) (v : Bool) : (x.landP n d v).regs = x.regs := by unfold Seat.landP; split <;> rfl
@[simp] theorem Seat.landP_standing (x : Seat) (n d : Nat) (v : Bool) : (x.landP n d v).standing = x.standing := by unfold Seat.landP; split <;> rfl
@[simp] theorem Seat.landP_skipDepth (x : Seat) (n d : Nat) (v : Bool) : (x.landP n d v).skipDepth = x.skipDepth := by unfold Seat.landP; split <;> rfl
@[simp] theorem Seat.landP_skipLevel (x : Seat) (n d : Nat) (v : Bool) : (x.landP n d v).skipLevel = x.skipLevel := by unfold Seat.landP; split <;> rfl
@[simp] theorem Seat.landP_cycle (x : Seat) (n d : Nat) (v : Bool) : (x.landP n d v).cycle = x.cycle := by unfold Seat.landP; split <;> rfl
@[simp] theorem Seat.landP_remotes (x : Seat) (n d : Nat) (v : Bool) : (x.landP n d v).remotes = x.remotes := by unfold Seat.landP; split <;> rfl
@[simp] theorem Seat.landP_mat (x : Seat) (n d : Nat) (v : Bool) : (x.landP n d v).mat = x.mat := by unfold Seat.landP; split <;> rfl
@[simp] theorem Seat.landP_pads (x : Seat) (n d : Nat) (v : Bool) : (x.landP n d v).pads = x.pads := by unfold Seat.landP; split <;> rfl
@[simp] theorem Seat.landP_sync (x : Seat) (n d : Nat) (v : Bool) : (x.landP n d v).sync = x.sync := by unfold Seat.landP; split <;> rfl
@[simp] theorem Seat.landP_copy (x : Seat) (n d : Nat) (v : Bool) : (x.landP n d v).copy = x.copy := by unfold Seat.landP; split <;> rfl
@[simp] theorem Seat.landP_sys (x : Seat) (n d : Nat) (v : Bool) : (x.landP n d v).sys = x.sys := by unfold Seat.landP; split <;> rfl
@[simp] theorem Seat.landP_transit (x : Seat) (n d : Nat) (v : Bool) : (x.landP n d v).transit = x.transit := by unfold Seat.landP; split <;> rfl
@[simp] theorem Seat.landP_queue (x : Seat) (n d : Nat) (v : Bool) : (x.landP n d v).queue = x.queue := by unfold Seat.landP; split <;> rfl
@[simp] theorem Seat.landP_cur (x : Seat) (n d : Nat) (v : Bool) : (x.landP n d v).cur = x.cur := by unfold Seat.landP; split <;> rfl
@[simp] theorem Seat.landP_run (x : Seat) (n d : Nat) (v : Bool) : (x.landP n d v).run = x.run := by unfold Seat.landP; split <;> rfl
@[simp] theorem Seat.landP_started (x : Seat) (n d : Nat) (v : Bool) : (x.landP n d v).started = x.started := by unfold Seat.landP; split <;> rfl
@[simp] theorem Seat.landP_go (x : Seat) (n d : Nat) (v : Bool) : (x.landP n d v).go = x.go := by unfold Seat.landP; split <;> rfl
@[simp] theorem Seat.landP_replayed (x : Seat) (n d : Nat) (v : Bool) : (x.landP n d v).replayed = x.replayed := by unfold Seat.landP; split <;> rfl
@[simp] theorem Seat.landP_skinked (x : Seat) (n d : Nat) (v : Bool) : (x.landP n d v).skinked = x.skinked := by unfold Seat.landP; split <;> rfl
@[simp] theorem Seat.landP_after (x : Seat) (n d : Nat) (v : Bool) : (x.landP n d v).after = x.after := by unfold Seat.landP; split <;> rfl
@[simp] theorem Seat.landP_asideState (x : Seat) (n d : Nat) (v : Bool) : (x.landP n d v).asideState = x.asideState := by unfold Seat.landP; split <;> rfl
@[simp] theorem Seat.landP_prepared (x : Seat) (n d : Nat) (v : Bool) : (x.landP n d v).prepared = x.prepared := by unfold Seat.landP; split <;> rfl
@[simp] theorem Seat.landP_outbox (x : Seat) (n d : Nat) (v : Bool) : (x.landP n d v).outbox = x.outbox := by unfold Seat.landP; split <;> rfl
@[simp] theorem Seat.landP_yields (x : Seat) (n d : Nat) (v : Bool) : (x.landP n d v).yields = x.yields := by unfold Seat.landP; split <;> rfl
@[simp] theorem Seat.landP_held (x : Seat) (n d : Nat) (v : Bool) : (x.landP n d v).held = x.held := by unfold Seat.landP; split <;> rfl
@[simp] theorem Seat.landP_extents (x : Seat) (n d : Nat) (v : Bool) : (x.landP n d v).extents = x.extents := by unfold Seat.landP; split <;> rfl
@[simp] theorem Seat.landP_unacked (x : Seat) (n d : Nat) (v : Bool) : (x.landP n d v).unacked = x.unacked := by unfold Seat.landP; split <;> rfl
@[simp] theorem Seat.landP_tied (x : Seat) (n d : Nat) (v : Bool) : (x.landP n d v).tied = x.tied := by unfold Seat.landP; split <;> rfl
@[simp] theorem Seat.landP_slab (x : Seat) (n d : Nat) (v : Bool) : (x.landP n d v).slab = x.slab := by unfold Seat.landP; split <;> rfl

@[simp] theorem Seat.retire_id (x : Seat) (n : Nat) (b : BitVec 4) (r : BitVec 1) (l : Option Nat) : (x.retire n b r l).id = x.id := by unfold Seat.retire; split <;> (try split) <;> rfl
@[simp] theorem Seat.retire_gang (x : Seat) (n : Nat) (b : BitVec 4) (r : BitVec 1) (l : Option Nat) : (x.retire n b r l).gang = x.gang := by unfold Seat.retire; split <;> (try split) <;> rfl
@[simp] theorem Seat.retire_e (x : Seat) (n : Nat) (b : BitVec 4) (r : BitVec 1) (l : Option Nat) : (x.retire n b r l).e = x.e := by unfold Seat.retire; split <;> (try split) <;> rfl
@[simp] theorem Seat.retire_m (x : Seat) (n : Nat) (b : BitVec 4) (r : BitVec 1) (l : Option Nat) : (x.retire n b r l).m = x.m := by unfold Seat.retire; split <;> (try split) <;> rfl
@[simp] theorem Seat.retire_prio (x : Seat) (n : Nat) (b : BitVec 4) (r : BitVec 1) (l : Option Nat) : (x.retire n b r l).prio = x.prio := by unfold Seat.retire; split <;> (try split) <;> rfl
@[simp] theorem Seat.retire_cfg (x : Seat) (n : Nat) (b : BitVec 4) (r : BitVec 1) (l : Option Nat) : (x.retire n b r l).cfg = x.cfg := by unfold Seat.retire; split <;> (try split) <;> rfl
@[simp] theorem Seat.retire_regs (x : Seat) (n : Nat) (b : BitVec 4) (r : BitVec 1) (l : Option Nat) : (x.retire n b r l).regs = x.regs := by unfold Seat.retire; split <;> (try split) <;> rfl
@[simp] theorem Seat.retire_standing (x : Seat) (n : Nat) (b : BitVec 4) (r : BitVec 1) (l : Option Nat) : (x.retire n b r l).standing = x.standing := by unfold Seat.retire; split <;> (try split) <;> rfl
@[simp] theorem Seat.retire_skipDepth (x : Seat) (n : Nat) (b : BitVec 4) (r : BitVec 1) (l : Option Nat) : (x.retire n b r l).skipDepth = x.skipDepth := by unfold Seat.retire; split <;> (try split) <;> rfl
@[simp] theorem Seat.retire_skipLevel (x : Seat) (n : Nat) (b : BitVec 4) (r : BitVec 1) (l : Option Nat) : (x.retire n b r l).skipLevel = x.skipLevel := by unfold Seat.retire; split <;> (try split) <;> rfl
@[simp] theorem Seat.retire_cycle (x : Seat) (n : Nat) (b : BitVec 4) (r : BitVec 1) (l : Option Nat) : (x.retire n b r l).cycle = x.cycle := by unfold Seat.retire; split <;> (try split) <;> rfl
@[simp] theorem Seat.retire_remotes (x : Seat) (n : Nat) (b : BitVec 4) (r : BitVec 1) (l : Option Nat) : (x.retire n b r l).remotes = x.remotes := by unfold Seat.retire; split <;> (try split) <;> rfl
@[simp] theorem Seat.retire_mat (x : Seat) (n : Nat) (b : BitVec 4) (r : BitVec 1) (l : Option Nat) : (x.retire n b r l).mat = x.mat := by unfold Seat.retire; split <;> (try split) <;> rfl
@[simp] theorem Seat.retire_pads (x : Seat) (n : Nat) (b : BitVec 4) (r : BitVec 1) (l : Option Nat) : (x.retire n b r l).pads = x.pads := by unfold Seat.retire; split <;> (try split) <;> rfl
@[simp] theorem Seat.retire_sync (x : Seat) (n : Nat) (b : BitVec 4) (r : BitVec 1) (l : Option Nat) : (x.retire n b r l).sync = x.sync := by unfold Seat.retire; split <;> (try split) <;> rfl
@[simp] theorem Seat.retire_copy (x : Seat) (n : Nat) (b : BitVec 4) (r : BitVec 1) (l : Option Nat) : (x.retire n b r l).copy = x.copy := by unfold Seat.retire; split <;> (try split) <;> rfl
@[simp] theorem Seat.retire_sys (x : Seat) (n : Nat) (b : BitVec 4) (r : BitVec 1) (l : Option Nat) : (x.retire n b r l).sys = x.sys := by unfold Seat.retire; split <;> (try split) <;> rfl
@[simp] theorem Seat.retire_transit (x : Seat) (n : Nat) (b : BitVec 4) (r : BitVec 1) (l : Option Nat) : (x.retire n b r l).transit = x.transit := by unfold Seat.retire; split <;> (try split) <;> rfl
@[simp] theorem Seat.retire_queue (x : Seat) (n : Nat) (b : BitVec 4) (r : BitVec 1) (l : Option Nat) : (x.retire n b r l).queue = x.queue := by unfold Seat.retire; split <;> (try split) <;> rfl
@[simp] theorem Seat.retire_cur (x : Seat) (n : Nat) (b : BitVec 4) (r : BitVec 1) (l : Option Nat) : (x.retire n b r l).cur = x.cur := by unfold Seat.retire; split <;> (try split) <;> rfl
@[simp] theorem Seat.retire_run (x : Seat) (n : Nat) (b : BitVec 4) (r : BitVec 1) (l : Option Nat) : (x.retire n b r l).run = x.run := by unfold Seat.retire; split <;> (try split) <;> rfl
@[simp] theorem Seat.retire_started (x : Seat) (n : Nat) (b : BitVec 4) (r : BitVec 1) (l : Option Nat) : (x.retire n b r l).started = x.started := by unfold Seat.retire; split <;> (try split) <;> rfl
@[simp] theorem Seat.retire_go (x : Seat) (n : Nat) (b : BitVec 4) (r : BitVec 1) (l : Option Nat) : (x.retire n b r l).go = x.go := by unfold Seat.retire; split <;> (try split) <;> rfl
@[simp] theorem Seat.retire_replayed (x : Seat) (n : Nat) (b : BitVec 4) (r : BitVec 1) (l : Option Nat) : (x.retire n b r l).replayed = x.replayed := by unfold Seat.retire; split <;> (try split) <;> rfl
@[simp] theorem Seat.retire_skinked (x : Seat) (n : Nat) (b : BitVec 4) (r : BitVec 1) (l : Option Nat) : (x.retire n b r l).skinked = x.skinked := by unfold Seat.retire; split <;> (try split) <;> rfl
@[simp] theorem Seat.retire_after (x : Seat) (n : Nat) (b : BitVec 4) (r : BitVec 1) (l : Option Nat) : (x.retire n b r l).after = x.after := by unfold Seat.retire; split <;> (try split) <;> rfl
@[simp] theorem Seat.retire_asideState (x : Seat) (n : Nat) (b : BitVec 4) (r : BitVec 1) (l : Option Nat) : (x.retire n b r l).asideState = x.asideState := by unfold Seat.retire; split <;> (try split) <;> rfl
@[simp] theorem Seat.retire_prepared (x : Seat) (n : Nat) (b : BitVec 4) (r : BitVec 1) (l : Option Nat) : (x.retire n b r l).prepared = x.prepared := by unfold Seat.retire; split <;> (try split) <;> rfl
@[simp] theorem Seat.retire_outbox (x : Seat) (n : Nat) (b : BitVec 4) (r : BitVec 1) (l : Option Nat) : (x.retire n b r l).outbox = x.outbox := by unfold Seat.retire; split <;> (try split) <;> rfl
@[simp] theorem Seat.retire_yields (x : Seat) (n : Nat) (b : BitVec 4) (r : BitVec 1) (l : Option Nat) : (x.retire n b r l).yields = x.yields := by unfold Seat.retire; split <;> (try split) <;> rfl
@[simp] theorem Seat.retire_held (x : Seat) (n : Nat) (b : BitVec 4) (r : BitVec 1) (l : Option Nat) : (x.retire n b r l).held = x.held := by unfold Seat.retire; split <;> (try split) <;> rfl
@[simp] theorem Seat.retire_extents (x : Seat) (n : Nat) (b : BitVec 4) (r : BitVec 1) (l : Option Nat) : (x.retire n b r l).extents = x.extents := by unfold Seat.retire; split <;> (try split) <;> rfl
@[simp] theorem Seat.retire_unacked (x : Seat) (n : Nat) (b : BitVec 4) (r : BitVec 1) (l : Option Nat) : (x.retire n b r l).unacked = x.unacked := by unfold Seat.retire; split <;> (try split) <;> rfl
@[simp] theorem Seat.retire_tied (x : Seat) (n : Nat) (b : BitVec 4) (r : BitVec 1) (l : Option Nat) : (x.retire n b r l).tied = x.tied := by unfold Seat.retire; split <;> (try split) <;> rfl
@[simp] theorem Seat.retire_slab (x : Seat) (n : Nat) (b : BitVec 4) (r : BitVec 1) (l : Option Nat) : (x.retire n b r l).slab = x.slab := by unfold Seat.retire; split <;> (try split) <;> rfl

@[simp] theorem Seat.send_id (x : Seat) (m : Msg) : (x.send m).id = x.id := rfl
@[simp] theorem Seat.send_gang (x : Seat) (m : Msg) : (x.send m).gang = x.gang := rfl
@[simp] theorem Seat.send_e (x : Seat) (m : Msg) : (x.send m).e = x.e := rfl
@[simp] theorem Seat.send_m (x : Seat) (m : Msg) : (x.send m).m = x.m := rfl
@[simp] theorem Seat.send_prio (x : Seat) (m : Msg) : (x.send m).prio = x.prio := rfl
@[simp] theorem Seat.send_cfg (x : Seat) (m : Msg) : (x.send m).cfg = x.cfg := rfl
@[simp] theorem Seat.send_regs (x : Seat) (m : Msg) : (x.send m).regs = x.regs := rfl
@[simp] theorem Seat.send_standing (x : Seat) (m : Msg) : (x.send m).standing = x.standing := rfl
@[simp] theorem Seat.send_skipDepth (x : Seat) (m : Msg) : (x.send m).skipDepth = x.skipDepth := rfl
@[simp] theorem Seat.send_skipLevel (x : Seat) (m : Msg) : (x.send m).skipLevel = x.skipLevel := rfl
@[simp] theorem Seat.send_cycle (x : Seat) (m : Msg) : (x.send m).cycle = x.cycle := rfl
@[simp] theorem Seat.send_landings (x : Seat) (m : Msg) : (x.send m).landings = x.landings := rfl
@[simp] theorem Seat.send_remotes (x : Seat) (m : Msg) : (x.send m).remotes = x.remotes := rfl
@[simp] theorem Seat.send_mat (x : Seat) (m : Msg) : (x.send m).mat = x.mat := rfl
@[simp] theorem Seat.send_pads (x : Seat) (m : Msg) : (x.send m).pads = x.pads := rfl
@[simp] theorem Seat.send_copy (x : Seat) (m : Msg) : (x.send m).copy = x.copy := rfl
@[simp] theorem Seat.send_sys (x : Seat) (m : Msg) : (x.send m).sys = x.sys := rfl
@[simp] theorem Seat.send_transit (x : Seat) (m : Msg) : (x.send m).transit = x.transit := rfl
@[simp] theorem Seat.send_queue (x : Seat) (m : Msg) : (x.send m).queue = x.queue := rfl
@[simp] theorem Seat.send_cur (x : Seat) (m : Msg) : (x.send m).cur = x.cur := rfl
@[simp] theorem Seat.send_run (x : Seat) (m : Msg) : (x.send m).run = x.run := rfl
@[simp] theorem Seat.send_started (x : Seat) (m : Msg) : (x.send m).started = x.started := rfl
@[simp] theorem Seat.send_go (x : Seat) (m : Msg) : (x.send m).go = x.go := rfl
@[simp] theorem Seat.send_replayed (x : Seat) (m : Msg) : (x.send m).replayed = x.replayed := rfl
@[simp] theorem Seat.send_skinked (x : Seat) (m : Msg) : (x.send m).skinked = x.skinked := rfl
@[simp] theorem Seat.send_after (x : Seat) (m : Msg) : (x.send m).after = x.after := rfl
@[simp] theorem Seat.send_asideState (x : Seat) (m : Msg) : (x.send m).asideState = x.asideState := rfl
@[simp] theorem Seat.send_prepared (x : Seat) (m : Msg) : (x.send m).prepared = x.prepared := rfl
@[simp] theorem Seat.send_yields (x : Seat) (m : Msg) : (x.send m).yields = x.yields := rfl
@[simp] theorem Seat.send_held (x : Seat) (m : Msg) : (x.send m).held = x.held := rfl
@[simp] theorem Seat.send_extents (x : Seat) (m : Msg) : (x.send m).extents = x.extents := rfl
@[simp] theorem Seat.send_unacked (x : Seat) (m : Msg) : (x.send m).unacked = x.unacked := rfl
@[simp] theorem Seat.send_tied (x : Seat) (m : Msg) : (x.send m).tied = x.tied := rfl
@[simp] theorem Seat.send_slab (x : Seat) (m : Msg) : (x.send m).slab = x.slab := rfl

@[simp] theorem Seat.writeBytes_id (x : Seat) (w : List (Nat × Byte)) : (x.writeBytes w).id = x.id := rfl
@[simp] theorem Seat.writeBytes_gang (x : Seat) (w : List (Nat × Byte)) : (x.writeBytes w).gang = x.gang := rfl
@[simp] theorem Seat.writeBytes_e (x : Seat) (w : List (Nat × Byte)) : (x.writeBytes w).e = x.e := rfl
@[simp] theorem Seat.writeBytes_m (x : Seat) (w : List (Nat × Byte)) : (x.writeBytes w).m = x.m := rfl
@[simp] theorem Seat.writeBytes_prio (x : Seat) (w : List (Nat × Byte)) : (x.writeBytes w).prio = x.prio := rfl
@[simp] theorem Seat.writeBytes_cfg (x : Seat) (w : List (Nat × Byte)) : (x.writeBytes w).cfg = x.cfg := rfl
@[simp] theorem Seat.writeBytes_regs (x : Seat) (w : List (Nat × Byte)) : (x.writeBytes w).regs = x.regs := rfl
@[simp] theorem Seat.writeBytes_standing (x : Seat) (w : List (Nat × Byte)) : (x.writeBytes w).standing = x.standing := rfl
@[simp] theorem Seat.writeBytes_skipDepth (x : Seat) (w : List (Nat × Byte)) : (x.writeBytes w).skipDepth = x.skipDepth := rfl
@[simp] theorem Seat.writeBytes_skipLevel (x : Seat) (w : List (Nat × Byte)) : (x.writeBytes w).skipLevel = x.skipLevel := rfl
@[simp] theorem Seat.writeBytes_cycle (x : Seat) (w : List (Nat × Byte)) : (x.writeBytes w).cycle = x.cycle := rfl
@[simp] theorem Seat.writeBytes_landings (x : Seat) (w : List (Nat × Byte)) : (x.writeBytes w).landings = x.landings := rfl
@[simp] theorem Seat.writeBytes_remotes (x : Seat) (w : List (Nat × Byte)) : (x.writeBytes w).remotes = x.remotes := rfl
@[simp] theorem Seat.writeBytes_mat (x : Seat) (w : List (Nat × Byte)) : (x.writeBytes w).mat = x.mat := rfl
@[simp] theorem Seat.writeBytes_sync (x : Seat) (w : List (Nat × Byte)) : (x.writeBytes w).sync = x.sync := rfl
@[simp] theorem Seat.writeBytes_copy (x : Seat) (w : List (Nat × Byte)) : (x.writeBytes w).copy = x.copy := rfl
@[simp] theorem Seat.writeBytes_sys (x : Seat) (w : List (Nat × Byte)) : (x.writeBytes w).sys = x.sys := rfl
@[simp] theorem Seat.writeBytes_transit (x : Seat) (w : List (Nat × Byte)) : (x.writeBytes w).transit = x.transit := rfl
@[simp] theorem Seat.writeBytes_queue (x : Seat) (w : List (Nat × Byte)) : (x.writeBytes w).queue = x.queue := rfl
@[simp] theorem Seat.writeBytes_cur (x : Seat) (w : List (Nat × Byte)) : (x.writeBytes w).cur = x.cur := rfl
@[simp] theorem Seat.writeBytes_run (x : Seat) (w : List (Nat × Byte)) : (x.writeBytes w).run = x.run := rfl
@[simp] theorem Seat.writeBytes_started (x : Seat) (w : List (Nat × Byte)) : (x.writeBytes w).started = x.started := rfl
@[simp] theorem Seat.writeBytes_go (x : Seat) (w : List (Nat × Byte)) : (x.writeBytes w).go = x.go := rfl
@[simp] theorem Seat.writeBytes_replayed (x : Seat) (w : List (Nat × Byte)) : (x.writeBytes w).replayed = x.replayed := rfl
@[simp] theorem Seat.writeBytes_skinked (x : Seat) (w : List (Nat × Byte)) : (x.writeBytes w).skinked = x.skinked := rfl
@[simp] theorem Seat.writeBytes_after (x : Seat) (w : List (Nat × Byte)) : (x.writeBytes w).after = x.after := rfl
@[simp] theorem Seat.writeBytes_asideState (x : Seat) (w : List (Nat × Byte)) : (x.writeBytes w).asideState = x.asideState := rfl
@[simp] theorem Seat.writeBytes_prepared (x : Seat) (w : List (Nat × Byte)) : (x.writeBytes w).prepared = x.prepared := rfl
@[simp] theorem Seat.writeBytes_outbox (x : Seat) (w : List (Nat × Byte)) : (x.writeBytes w).outbox = x.outbox := rfl
@[simp] theorem Seat.writeBytes_yields (x : Seat) (w : List (Nat × Byte)) : (x.writeBytes w).yields = x.yields := rfl
@[simp] theorem Seat.writeBytes_held (x : Seat) (w : List (Nat × Byte)) : (x.writeBytes w).held = x.held := rfl
@[simp] theorem Seat.writeBytes_extents (x : Seat) (w : List (Nat × Byte)) : (x.writeBytes w).extents = x.extents := rfl
@[simp] theorem Seat.writeBytes_unacked (x : Seat) (w : List (Nat × Byte)) : (x.writeBytes w).unacked = x.unacked := rfl
@[simp] theorem Seat.writeBytes_tied (x : Seat) (w : List (Nat × Byte)) : (x.writeBytes w).tied = x.tied := rfl
@[simp] theorem Seat.writeBytes_slab (x : Seat) (w : List (Nat × Byte)) : (x.writeBytes w).slab = x.slab := rfl

@[simp] theorem Seat.stopWith_id (x : Seat) (f : Frame) : (x.stopWith f).id = x.id := rfl
@[simp] theorem Seat.stopWith_gang (x : Seat) (f : Frame) : (x.stopWith f).gang = x.gang := rfl
@[simp] theorem Seat.stopWith_e (x : Seat) (f : Frame) : (x.stopWith f).e = x.e := rfl
@[simp] theorem Seat.stopWith_m (x : Seat) (f : Frame) : (x.stopWith f).m = x.m := rfl
@[simp] theorem Seat.stopWith_prio (x : Seat) (f : Frame) : (x.stopWith f).prio = x.prio := rfl
@[simp] theorem Seat.stopWith_cfg (x : Seat) (f : Frame) : (x.stopWith f).cfg = x.cfg := rfl
@[simp] theorem Seat.stopWith_regs (x : Seat) (f : Frame) : (x.stopWith f).regs = x.regs := rfl
@[simp] theorem Seat.stopWith_standing (x : Seat) (f : Frame) : (x.stopWith f).standing = x.standing := rfl
@[simp] theorem Seat.stopWith_skipDepth (x : Seat) (f : Frame) : (x.stopWith f).skipDepth = x.skipDepth := rfl
@[simp] theorem Seat.stopWith_skipLevel (x : Seat) (f : Frame) : (x.stopWith f).skipLevel = x.skipLevel := rfl
@[simp] theorem Seat.stopWith_cycle (x : Seat) (f : Frame) : (x.stopWith f).cycle = x.cycle := rfl
@[simp] theorem Seat.stopWith_landings (x : Seat) (f : Frame) : (x.stopWith f).landings = x.landings := rfl
@[simp] theorem Seat.stopWith_remotes (x : Seat) (f : Frame) : (x.stopWith f).remotes = x.remotes := rfl
@[simp] theorem Seat.stopWith_mat (x : Seat) (f : Frame) : (x.stopWith f).mat = x.mat := rfl
@[simp] theorem Seat.stopWith_pads (x : Seat) (f : Frame) : (x.stopWith f).pads = x.pads := rfl
@[simp] theorem Seat.stopWith_sync (x : Seat) (f : Frame) : (x.stopWith f).sync = x.sync := rfl
@[simp] theorem Seat.stopWith_copy (x : Seat) (f : Frame) : (x.stopWith f).copy = x.copy := rfl
@[simp] theorem Seat.stopWith_transit (x : Seat) (f : Frame) : (x.stopWith f).transit = x.transit := rfl
@[simp] theorem Seat.stopWith_queue (x : Seat) (f : Frame) : (x.stopWith f).queue = x.queue := rfl
@[simp] theorem Seat.stopWith_cur (x : Seat) (f : Frame) : (x.stopWith f).cur = x.cur := rfl
@[simp] theorem Seat.stopWith_started (x : Seat) (f : Frame) : (x.stopWith f).started = x.started := rfl
@[simp] theorem Seat.stopWith_go (x : Seat) (f : Frame) : (x.stopWith f).go = x.go := rfl
@[simp] theorem Seat.stopWith_replayed (x : Seat) (f : Frame) : (x.stopWith f).replayed = x.replayed := rfl
@[simp] theorem Seat.stopWith_skinked (x : Seat) (f : Frame) : (x.stopWith f).skinked = x.skinked := rfl
@[simp] theorem Seat.stopWith_after (x : Seat) (f : Frame) : (x.stopWith f).after = x.after := rfl
@[simp] theorem Seat.stopWith_asideState (x : Seat) (f : Frame) : (x.stopWith f).asideState = x.asideState := rfl
@[simp] theorem Seat.stopWith_prepared (x : Seat) (f : Frame) : (x.stopWith f).prepared = x.prepared := rfl
@[simp] theorem Seat.stopWith_outbox (x : Seat) (f : Frame) : (x.stopWith f).outbox = x.outbox := rfl
@[simp] theorem Seat.stopWith_yields (x : Seat) (f : Frame) : (x.stopWith f).yields = x.yields := rfl
@[simp] theorem Seat.stopWith_held (x : Seat) (f : Frame) : (x.stopWith f).held = x.held := rfl
@[simp] theorem Seat.stopWith_extents (x : Seat) (f : Frame) : (x.stopWith f).extents = x.extents := rfl
@[simp] theorem Seat.stopWith_unacked (x : Seat) (f : Frame) : (x.stopWith f).unacked = x.unacked := rfl
@[simp] theorem Seat.stopWith_tied (x : Seat) (f : Frame) : (x.stopWith f).tied = x.tied := rfl
@[simp] theorem Seat.stopWith_slab (x : Seat) (f : Frame) : (x.stopWith f).slab = x.slab := rfl

@[simp] theorem Seat.latch_id (x : Seat) (c n o : Nat) (a : Word64) : (x.latch c n o a).id = x.id := rfl
@[simp] theorem Seat.latch_gang (x : Seat) (c n o : Nat) (a : Word64) : (x.latch c n o a).gang = x.gang := rfl
@[simp] theorem Seat.latch_e (x : Seat) (c n o : Nat) (a : Word64) : (x.latch c n o a).e = x.e := rfl
@[simp] theorem Seat.latch_m (x : Seat) (c n o : Nat) (a : Word64) : (x.latch c n o a).m = x.m := rfl
@[simp] theorem Seat.latch_prio (x : Seat) (c n o : Nat) (a : Word64) : (x.latch c n o a).prio = x.prio := rfl
@[simp] theorem Seat.latch_cfg (x : Seat) (c n o : Nat) (a : Word64) : (x.latch c n o a).cfg = x.cfg := rfl
@[simp] theorem Seat.latch_regs (x : Seat) (c n o : Nat) (a : Word64) : (x.latch c n o a).regs = x.regs := rfl
@[simp] theorem Seat.latch_standing (x : Seat) (c n o : Nat) (a : Word64) : (x.latch c n o a).standing = x.standing := rfl
@[simp] theorem Seat.latch_skipDepth (x : Seat) (c n o : Nat) (a : Word64) : (x.latch c n o a).skipDepth = x.skipDepth := rfl
@[simp] theorem Seat.latch_skipLevel (x : Seat) (c n o : Nat) (a : Word64) : (x.latch c n o a).skipLevel = x.skipLevel := rfl
@[simp] theorem Seat.latch_cycle (x : Seat) (c n o : Nat) (a : Word64) : (x.latch c n o a).cycle = x.cycle := rfl
@[simp] theorem Seat.latch_landings (x : Seat) (c n o : Nat) (a : Word64) : (x.latch c n o a).landings = x.landings := rfl
@[simp] theorem Seat.latch_remotes (x : Seat) (c n o : Nat) (a : Word64) : (x.latch c n o a).remotes = x.remotes := rfl
@[simp] theorem Seat.latch_mat (x : Seat) (c n o : Nat) (a : Word64) : (x.latch c n o a).mat = x.mat := rfl
@[simp] theorem Seat.latch_pads (x : Seat) (c n o : Nat) (a : Word64) : (x.latch c n o a).pads = x.pads := rfl
@[simp] theorem Seat.latch_sync (x : Seat) (c n o : Nat) (a : Word64) : (x.latch c n o a).sync = x.sync := rfl
@[simp] theorem Seat.latch_copy (x : Seat) (c n o : Nat) (a : Word64) : (x.latch c n o a).copy = x.copy := rfl
@[simp] theorem Seat.latch_transit (x : Seat) (c n o : Nat) (a : Word64) : (x.latch c n o a).transit = x.transit := rfl
@[simp] theorem Seat.latch_queue (x : Seat) (c n o : Nat) (a : Word64) : (x.latch c n o a).queue = x.queue := rfl
@[simp] theorem Seat.latch_cur (x : Seat) (c n o : Nat) (a : Word64) : (x.latch c n o a).cur = x.cur := rfl
@[simp] theorem Seat.latch_run (x : Seat) (c n o : Nat) (a : Word64) : (x.latch c n o a).run = x.run := rfl
@[simp] theorem Seat.latch_started (x : Seat) (c n o : Nat) (a : Word64) : (x.latch c n o a).started = x.started := rfl
@[simp] theorem Seat.latch_go (x : Seat) (c n o : Nat) (a : Word64) : (x.latch c n o a).go = x.go := rfl
@[simp] theorem Seat.latch_replayed (x : Seat) (c n o : Nat) (a : Word64) : (x.latch c n o a).replayed = x.replayed := rfl
@[simp] theorem Seat.latch_skinked (x : Seat) (c n o : Nat) (a : Word64) : (x.latch c n o a).skinked = x.skinked := rfl
@[simp] theorem Seat.latch_after (x : Seat) (c n o : Nat) (a : Word64) : (x.latch c n o a).after = x.after := rfl
@[simp] theorem Seat.latch_asideState (x : Seat) (c n o : Nat) (a : Word64) : (x.latch c n o a).asideState = x.asideState := rfl
@[simp] theorem Seat.latch_prepared (x : Seat) (c n o : Nat) (a : Word64) : (x.latch c n o a).prepared = x.prepared := rfl
@[simp] theorem Seat.latch_outbox (x : Seat) (c n o : Nat) (a : Word64) : (x.latch c n o a).outbox = x.outbox := rfl
@[simp] theorem Seat.latch_yields (x : Seat) (c n o : Nat) (a : Word64) : (x.latch c n o a).yields = x.yields := rfl
@[simp] theorem Seat.latch_held (x : Seat) (c n o : Nat) (a : Word64) : (x.latch c n o a).held = x.held := rfl
@[simp] theorem Seat.latch_extents (x : Seat) (c n o : Nat) (a : Word64) : (x.latch c n o a).extents = x.extents := rfl
@[simp] theorem Seat.latch_unacked (x : Seat) (c n o : Nat) (a : Word64) : (x.latch c n o a).unacked = x.unacked := rfl
@[simp] theorem Seat.latch_tied (x : Seat) (c n o : Nat) (a : Word64) : (x.latch c n o a).tied = x.tied := rfl
@[simp] theorem Seat.latch_slab (x : Seat) (c n o : Nat) (a : Word64) : (x.latch c n o a).slab = x.slab := rfl

@[simp] theorem Seat.updBank_id (x : Seat) (n : Nat) (f : Bank → Bank) : (x.updBank n f).id = x.id := rfl
@[simp] theorem Seat.updBank_gang (x : Seat) (n : Nat) (f : Bank → Bank) : (x.updBank n f).gang = x.gang := rfl
@[simp] theorem Seat.updBank_e (x : Seat) (n : Nat) (f : Bank → Bank) : (x.updBank n f).e = x.e := rfl
@[simp] theorem Seat.updBank_m (x : Seat) (n : Nat) (f : Bank → Bank) : (x.updBank n f).m = x.m := rfl
@[simp] theorem Seat.updBank_prio (x : Seat) (n : Nat) (f : Bank → Bank) : (x.updBank n f).prio = x.prio := rfl
@[simp] theorem Seat.updBank_cfg (x : Seat) (n : Nat) (f : Bank → Bank) : (x.updBank n f).cfg = x.cfg := rfl
@[simp] theorem Seat.updBank_regs (x : Seat) (n : Nat) (f : Bank → Bank) : (x.updBank n f).regs = x.regs := rfl
@[simp] theorem Seat.updBank_standing (x : Seat) (n : Nat) (f : Bank → Bank) : (x.updBank n f).standing = x.standing := rfl
@[simp] theorem Seat.updBank_skipDepth (x : Seat) (n : Nat) (f : Bank → Bank) : (x.updBank n f).skipDepth = x.skipDepth := rfl
@[simp] theorem Seat.updBank_skipLevel (x : Seat) (n : Nat) (f : Bank → Bank) : (x.updBank n f).skipLevel = x.skipLevel := rfl
@[simp] theorem Seat.updBank_cycle (x : Seat) (n : Nat) (f : Bank → Bank) : (x.updBank n f).cycle = x.cycle := rfl
@[simp] theorem Seat.updBank_landings (x : Seat) (n : Nat) (f : Bank → Bank) : (x.updBank n f).landings = x.landings := rfl
@[simp] theorem Seat.updBank_remotes (x : Seat) (n : Nat) (f : Bank → Bank) : (x.updBank n f).remotes = x.remotes := rfl
@[simp] theorem Seat.updBank_pads (x : Seat) (n : Nat) (f : Bank → Bank) : (x.updBank n f).pads = x.pads := rfl
@[simp] theorem Seat.updBank_sync (x : Seat) (n : Nat) (f : Bank → Bank) : (x.updBank n f).sync = x.sync := rfl
@[simp] theorem Seat.updBank_copy (x : Seat) (n : Nat) (f : Bank → Bank) : (x.updBank n f).copy = x.copy := rfl
@[simp] theorem Seat.updBank_sys (x : Seat) (n : Nat) (f : Bank → Bank) : (x.updBank n f).sys = x.sys := rfl
@[simp] theorem Seat.updBank_transit (x : Seat) (n : Nat) (f : Bank → Bank) : (x.updBank n f).transit = x.transit := rfl
@[simp] theorem Seat.updBank_queue (x : Seat) (n : Nat) (f : Bank → Bank) : (x.updBank n f).queue = x.queue := rfl
@[simp] theorem Seat.updBank_cur (x : Seat) (n : Nat) (f : Bank → Bank) : (x.updBank n f).cur = x.cur := rfl
@[simp] theorem Seat.updBank_run (x : Seat) (n : Nat) (f : Bank → Bank) : (x.updBank n f).run = x.run := rfl
@[simp] theorem Seat.updBank_started (x : Seat) (n : Nat) (f : Bank → Bank) : (x.updBank n f).started = x.started := rfl
@[simp] theorem Seat.updBank_go (x : Seat) (n : Nat) (f : Bank → Bank) : (x.updBank n f).go = x.go := rfl
@[simp] theorem Seat.updBank_replayed (x : Seat) (n : Nat) (f : Bank → Bank) : (x.updBank n f).replayed = x.replayed := rfl
@[simp] theorem Seat.updBank_skinked (x : Seat) (n : Nat) (f : Bank → Bank) : (x.updBank n f).skinked = x.skinked := rfl
@[simp] theorem Seat.updBank_after (x : Seat) (n : Nat) (f : Bank → Bank) : (x.updBank n f).after = x.after := rfl
@[simp] theorem Seat.updBank_asideState (x : Seat) (n : Nat) (f : Bank → Bank) : (x.updBank n f).asideState = x.asideState := rfl
@[simp] theorem Seat.updBank_prepared (x : Seat) (n : Nat) (f : Bank → Bank) : (x.updBank n f).prepared = x.prepared := rfl
@[simp] theorem Seat.updBank_outbox (x : Seat) (n : Nat) (f : Bank → Bank) : (x.updBank n f).outbox = x.outbox := rfl
@[simp] theorem Seat.updBank_yields (x : Seat) (n : Nat) (f : Bank → Bank) : (x.updBank n f).yields = x.yields := rfl
@[simp] theorem Seat.updBank_held (x : Seat) (n : Nat) (f : Bank → Bank) : (x.updBank n f).held = x.held := rfl
@[simp] theorem Seat.updBank_extents (x : Seat) (n : Nat) (f : Bank → Bank) : (x.updBank n f).extents = x.extents := rfl
@[simp] theorem Seat.updBank_unacked (x : Seat) (n : Nat) (f : Bank → Bank) : (x.updBank n f).unacked = x.unacked := rfl
@[simp] theorem Seat.updBank_tied (x : Seat) (n : Nat) (f : Bank → Bank) : (x.updBank n f).tied = x.tied := rfl
@[simp] theorem Seat.updBank_slab (x : Seat) (n : Nat) (f : Bank → Bank) : (x.updBank n f).slab = x.slab := rfl

@[simp] theorem Seat.advanceK_id (x : Seat) (f : Word64) (n : Nat) : (x.advanceK f n).id = x.id := by unfold Seat.advanceK; split <;> rfl
@[simp] theorem Seat.advanceK_gang (x : Seat) (f : Word64) (n : Nat) : (x.advanceK f n).gang = x.gang := by unfold Seat.advanceK; split <;> rfl
@[simp] theorem Seat.advanceK_e (x : Seat) (f : Word64) (n : Nat) : (x.advanceK f n).e = x.e := by unfold Seat.advanceK; split <;> rfl
@[simp] theorem Seat.advanceK_m (x : Seat) (f : Word64) (n : Nat) : (x.advanceK f n).m = x.m := by unfold Seat.advanceK; split <;> rfl
@[simp] theorem Seat.advanceK_prio (x : Seat) (f : Word64) (n : Nat) : (x.advanceK f n).prio = x.prio := by unfold Seat.advanceK; split <;> rfl
@[simp] theorem Seat.advanceK_cfg (x : Seat) (f : Word64) (n : Nat) : (x.advanceK f n).cfg = x.cfg := by unfold Seat.advanceK; split <;> rfl
@[simp] theorem Seat.advanceK_regs (x : Seat) (f : Word64) (n : Nat) : (x.advanceK f n).regs = x.regs := by unfold Seat.advanceK; split <;> rfl
@[simp] theorem Seat.advanceK_standing (x : Seat) (f : Word64) (n : Nat) : (x.advanceK f n).standing = x.standing := by unfold Seat.advanceK; split <;> rfl
@[simp] theorem Seat.advanceK_skipDepth (x : Seat) (f : Word64) (n : Nat) : (x.advanceK f n).skipDepth = x.skipDepth := by unfold Seat.advanceK; split <;> rfl
@[simp] theorem Seat.advanceK_skipLevel (x : Seat) (f : Word64) (n : Nat) : (x.advanceK f n).skipLevel = x.skipLevel := by unfold Seat.advanceK; split <;> rfl
@[simp] theorem Seat.advanceK_cycle (x : Seat) (f : Word64) (n : Nat) : (x.advanceK f n).cycle = x.cycle := by unfold Seat.advanceK; split <;> rfl
@[simp] theorem Seat.advanceK_landings (x : Seat) (f : Word64) (n : Nat) : (x.advanceK f n).landings = x.landings := by unfold Seat.advanceK; split <;> rfl
@[simp] theorem Seat.advanceK_remotes (x : Seat) (f : Word64) (n : Nat) : (x.advanceK f n).remotes = x.remotes := by unfold Seat.advanceK; split <;> rfl
@[simp] theorem Seat.advanceK_pads (x : Seat) (f : Word64) (n : Nat) : (x.advanceK f n).pads = x.pads := by unfold Seat.advanceK; split <;> rfl
@[simp] theorem Seat.advanceK_sync (x : Seat) (f : Word64) (n : Nat) : (x.advanceK f n).sync = x.sync := by unfold Seat.advanceK; split <;> rfl
@[simp] theorem Seat.advanceK_copy (x : Seat) (f : Word64) (n : Nat) : (x.advanceK f n).copy = x.copy := by unfold Seat.advanceK; split <;> rfl
@[simp] theorem Seat.advanceK_sys (x : Seat) (f : Word64) (n : Nat) : (x.advanceK f n).sys = x.sys := by unfold Seat.advanceK; split <;> rfl
@[simp] theorem Seat.advanceK_transit (x : Seat) (f : Word64) (n : Nat) : (x.advanceK f n).transit = x.transit := by unfold Seat.advanceK; split <;> rfl
@[simp] theorem Seat.advanceK_queue (x : Seat) (f : Word64) (n : Nat) : (x.advanceK f n).queue = x.queue := by unfold Seat.advanceK; split <;> rfl
@[simp] theorem Seat.advanceK_cur (x : Seat) (f : Word64) (n : Nat) : (x.advanceK f n).cur = x.cur := by unfold Seat.advanceK; split <;> rfl
@[simp] theorem Seat.advanceK_run (x : Seat) (f : Word64) (n : Nat) : (x.advanceK f n).run = x.run := by unfold Seat.advanceK; split <;> rfl
@[simp] theorem Seat.advanceK_started (x : Seat) (f : Word64) (n : Nat) : (x.advanceK f n).started = x.started := by unfold Seat.advanceK; split <;> rfl
@[simp] theorem Seat.advanceK_go (x : Seat) (f : Word64) (n : Nat) : (x.advanceK f n).go = x.go := by unfold Seat.advanceK; split <;> rfl
@[simp] theorem Seat.advanceK_replayed (x : Seat) (f : Word64) (n : Nat) : (x.advanceK f n).replayed = x.replayed := by unfold Seat.advanceK; split <;> rfl
@[simp] theorem Seat.advanceK_skinked (x : Seat) (f : Word64) (n : Nat) : (x.advanceK f n).skinked = x.skinked := by unfold Seat.advanceK; split <;> rfl
@[simp] theorem Seat.advanceK_after (x : Seat) (f : Word64) (n : Nat) : (x.advanceK f n).after = x.after := by unfold Seat.advanceK; split <;> rfl
@[simp] theorem Seat.advanceK_asideState (x : Seat) (f : Word64) (n : Nat) : (x.advanceK f n).asideState = x.asideState := by unfold Seat.advanceK; split <;> rfl
@[simp] theorem Seat.advanceK_prepared (x : Seat) (f : Word64) (n : Nat) : (x.advanceK f n).prepared = x.prepared := by unfold Seat.advanceK; split <;> rfl
@[simp] theorem Seat.advanceK_outbox (x : Seat) (f : Word64) (n : Nat) : (x.advanceK f n).outbox = x.outbox := by unfold Seat.advanceK; split <;> rfl
@[simp] theorem Seat.advanceK_yields (x : Seat) (f : Word64) (n : Nat) : (x.advanceK f n).yields = x.yields := by unfold Seat.advanceK; split <;> rfl
@[simp] theorem Seat.advanceK_held (x : Seat) (f : Word64) (n : Nat) : (x.advanceK f n).held = x.held := by unfold Seat.advanceK; split <;> rfl
@[simp] theorem Seat.advanceK_extents (x : Seat) (f : Word64) (n : Nat) : (x.advanceK f n).extents = x.extents := by unfold Seat.advanceK; split <;> rfl
@[simp] theorem Seat.advanceK_unacked (x : Seat) (f : Word64) (n : Nat) : (x.advanceK f n).unacked = x.unacked := by unfold Seat.advanceK; split <;> rfl
@[simp] theorem Seat.advanceK_tied (x : Seat) (f : Word64) (n : Nat) : (x.advanceK f n).tied = x.tied := by unfold Seat.advanceK; split <;> rfl
@[simp] theorem Seat.advanceK_slab (x : Seat) (f : Word64) (n : Nat) : (x.advanceK f n).slab = x.slab := by unfold Seat.advanceK; split <;> rfl

/-! ### A gang -/

@[simp] theorem Gang.land_id (x : Gang) (n l : Nat) (e : SeqLand) : (x.land n l e).id = x.id := rfl
@[simp] theorem Gang.land_launch (x : Gang) (n l : Nat) (e : SeqLand) : (x.land n l e).launch = x.launch := rfl
@[simp] theorem Gang.land_prio (x : Gang) (n l : Nat) (e : SeqLand) : (x.land n l e).prio = x.prio := rfl
@[simp] theorem Gang.land_c (x : Gang) (n l : Nat) (e : SeqLand) : (x.land n l e).c = x.c := rfl
@[simp] theorem Gang.land_d (x : Gang) (n l : Nat) (e : SeqLand) : (x.land n l e).d = x.d := rfl
@[simp] theorem Gang.land_dies (x : Gang) (n l : Nat) (e : SeqLand) : (x.land n l e).dies = x.dies := rfl
@[simp] theorem Gang.land_seqDie (x : Gang) (n l : Nat) (e : SeqLand) : (x.land n l e).seqDie = x.seqDie := rfl
@[simp] theorem Gang.land_seqNum (x : Gang) (n l : Nat) (e : SeqLand) : (x.land n l e).seqNum = x.seqNum := rfl
@[simp] theorem Gang.land_members (x : Gang) (n l : Nat) (e : SeqLand) : (x.land n l e).members = x.members := rfl
@[simp] theorem Gang.land_kernel (x : Gang) (n l : Nat) (e : SeqLand) : (x.land n l e).kernel = x.kernel := rfl
@[simp] theorem Gang.land_params (x : Gang) (n l : Nat) (e : SeqLand) : (x.land n l e).params = x.params := rfl
@[simp] theorem Gang.land_tensors (x : Gang) (n l : Nat) (e : SeqLand) : (x.land n l e).tensors = x.tensors := rfl
@[simp] theorem Gang.land_g (x : Gang) (n l : Nat) (e : SeqLand) : (x.land n l e).g = x.g := rfl
@[simp] theorem Gang.land_h (x : Gang) (n l : Nat) (e : SeqLand) : (x.land n l e).h = x.h := rfl
@[simp] theorem Gang.land_vote (x : Gang) (n l : Nat) (e : SeqLand) : (x.land n l e).vote = x.vote := rfl
@[simp] theorem Gang.land_pc (x : Gang) (n l : Nat) (e : SeqLand) : (x.land n l e).pc = x.pc := rfl
@[simp] theorem Gang.land_rep (x : Gang) (n l : Nat) (e : SeqLand) : (x.land n l e).rep = x.rep := rfl
@[simp] theorem Gang.land_reps (x : Gang) (n l : Nat) (e : SeqLand) : (x.land n l e).reps = x.reps := rfl
@[simp] theorem Gang.land_cycle (x : Gang) (n l : Nat) (e : SeqLand) : (x.land n l e).cycle = x.cycle := rfl
@[simp] theorem Gang.land_standing (x : Gang) (n l : Nat) (e : SeqLand) : (x.land n l e).standing = x.standing := rfl
@[simp] theorem Gang.land_loops (x : Gang) (n l : Nat) (e : SeqLand) : (x.land n l e).loops = x.loops := rfl
@[simp] theorem Gang.land_delay (x : Gang) (n l : Nat) (e : SeqLand) : (x.land n l e).delay = x.delay := rfl
@[simp] theorem Gang.land_hdr (x : Gang) (n l : Nat) (e : SeqLand) : (x.land n l e).hdr = x.hdr := rfl
@[simp] theorem Gang.land_words (x : Gang) (n l : Nat) (e : SeqLand) : (x.land n l e).words = x.words := rfl
@[simp] theorem Gang.land_fresh (x : Gang) (n l : Nat) (e : SeqLand) : (x.land n l e).fresh = x.fresh := rfl
@[simp] theorem Gang.land_flow (x : Gang) (n l : Nat) (e : SeqLand) : (x.land n l e).flow = x.flow := rfl
@[simp] theorem Gang.land_handlers (x : Gang) (n l : Nat) (e : SeqLand) : (x.land n l e).handlers = x.handlers := rfl
@[simp] theorem Gang.land_level (x : Gang) (n l : Nat) (e : SeqLand) : (x.land n l e).level = x.level := rfl
@[simp] theorem Gang.land_asideState (x : Gang) (n l : Nat) (e : SeqLand) : (x.land n l e).asideState = x.asideState := rfl
@[simp] theorem Gang.land_stop (x : Gang) (n l : Nat) (e : SeqLand) : (x.land n l e).stop = x.stop := rfl
@[simp] theorem Gang.land_edge (x : Gang) (n l : Nat) (e : SeqLand) : (x.land n l e).edge = x.edge := rfl
@[simp] theorem Gang.land_waiting (x : Gang) (n l : Nat) (e : SeqLand) : (x.land n l e).waiting = x.waiting := rfl
@[simp] theorem Gang.land_votePend (x : Gang) (n l : Nat) (e : SeqLand) : (x.land n l e).votePend = x.votePend := rfl
@[simp] theorem Gang.land_serial (x : Gang) (n l : Nat) (e : SeqLand) : (x.land n l e).serial = x.serial := rfl
@[simp] theorem Gang.land_forced (x : Gang) (n l : Nat) (e : SeqLand) : (x.land n l e).forced = x.forced := rfl
@[simp] theorem Gang.land_seqTrap (x : Gang) (n l : Nat) (e : SeqLand) : (x.land n l e).seqTrap = x.seqTrap := rfl
@[simp] theorem Gang.land_lead (x : Gang) (n l : Nat) (e : SeqLand) : (x.land n l e).lead = x.lead := rfl
@[simp] theorem Gang.land_saveCount (x : Gang) (n l : Nat) (e : SeqLand) : (x.land n l e).saveCount = x.saveCount := rfl
@[simp] theorem Gang.land_order (x : Gang) (n l : Nat) (e : SeqLand) : (x.land n l e).order = x.order := rfl
@[simp] theorem Gang.land_startAt (x : Gang) (n l : Nat) (e : SeqLand) : (x.land n l e).startAt = x.startAt := rfl
@[simp] theorem Gang.land_ext (x : Gang) (n l : Nat) (e : SeqLand) : (x.land n l e).ext = x.ext := rfl
@[simp] theorem Gang.land_off (x : Gang) (n l : Nat) (e : SeqLand) : (x.land n l e).off = x.off := rfl
@[simp] theorem Gang.land_next (x : Gang) (n l : Nat) (e : SeqLand) : (x.land n l e).next = x.next := rfl
@[simp] theorem Gang.land_held (x : Gang) (n l : Nat) (e : SeqLand) : (x.land n l e).held = x.held := rfl

@[simp] theorem Gang.landG_id (x : Gang) (n l d : Nat) (v : Word64) : (x.landG n l d v).id = x.id := by unfold Gang.landG; split <;> rfl
@[simp] theorem Gang.landG_launch (x : Gang) (n l d : Nat) (v : Word64) : (x.landG n l d v).launch = x.launch := by unfold Gang.landG; split <;> rfl
@[simp] theorem Gang.landG_prio (x : Gang) (n l d : Nat) (v : Word64) : (x.landG n l d v).prio = x.prio := by unfold Gang.landG; split <;> rfl
@[simp] theorem Gang.landG_c (x : Gang) (n l d : Nat) (v : Word64) : (x.landG n l d v).c = x.c := by unfold Gang.landG; split <;> rfl
@[simp] theorem Gang.landG_d (x : Gang) (n l d : Nat) (v : Word64) : (x.landG n l d v).d = x.d := by unfold Gang.landG; split <;> rfl
@[simp] theorem Gang.landG_dies (x : Gang) (n l d : Nat) (v : Word64) : (x.landG n l d v).dies = x.dies := by unfold Gang.landG; split <;> rfl
@[simp] theorem Gang.landG_seqDie (x : Gang) (n l d : Nat) (v : Word64) : (x.landG n l d v).seqDie = x.seqDie := by unfold Gang.landG; split <;> rfl
@[simp] theorem Gang.landG_seqNum (x : Gang) (n l d : Nat) (v : Word64) : (x.landG n l d v).seqNum = x.seqNum := by unfold Gang.landG; split <;> rfl
@[simp] theorem Gang.landG_members (x : Gang) (n l d : Nat) (v : Word64) : (x.landG n l d v).members = x.members := by unfold Gang.landG; split <;> rfl
@[simp] theorem Gang.landG_kernel (x : Gang) (n l d : Nat) (v : Word64) : (x.landG n l d v).kernel = x.kernel := by unfold Gang.landG; split <;> rfl
@[simp] theorem Gang.landG_params (x : Gang) (n l d : Nat) (v : Word64) : (x.landG n l d v).params = x.params := by unfold Gang.landG; split <;> rfl
@[simp] theorem Gang.landG_tensors (x : Gang) (n l d : Nat) (v : Word64) : (x.landG n l d v).tensors = x.tensors := by unfold Gang.landG; split <;> rfl
@[simp] theorem Gang.landG_g (x : Gang) (n l d : Nat) (v : Word64) : (x.landG n l d v).g = x.g := by unfold Gang.landG; split <;> rfl
@[simp] theorem Gang.landG_h (x : Gang) (n l d : Nat) (v : Word64) : (x.landG n l d v).h = x.h := by unfold Gang.landG; split <;> rfl
@[simp] theorem Gang.landG_vote (x : Gang) (n l d : Nat) (v : Word64) : (x.landG n l d v).vote = x.vote := by unfold Gang.landG; split <;> rfl
@[simp] theorem Gang.landG_pc (x : Gang) (n l d : Nat) (v : Word64) : (x.landG n l d v).pc = x.pc := by unfold Gang.landG; split <;> rfl
@[simp] theorem Gang.landG_rep (x : Gang) (n l d : Nat) (v : Word64) : (x.landG n l d v).rep = x.rep := by unfold Gang.landG; split <;> rfl
@[simp] theorem Gang.landG_reps (x : Gang) (n l d : Nat) (v : Word64) : (x.landG n l d v).reps = x.reps := by unfold Gang.landG; split <;> rfl
@[simp] theorem Gang.landG_cycle (x : Gang) (n l d : Nat) (v : Word64) : (x.landG n l d v).cycle = x.cycle := by unfold Gang.landG; split <;> rfl
@[simp] theorem Gang.landG_standing (x : Gang) (n l d : Nat) (v : Word64) : (x.landG n l d v).standing = x.standing := by unfold Gang.landG; split <;> rfl
@[simp] theorem Gang.landG_loops (x : Gang) (n l d : Nat) (v : Word64) : (x.landG n l d v).loops = x.loops := by unfold Gang.landG; split <;> rfl
@[simp] theorem Gang.landG_delay (x : Gang) (n l d : Nat) (v : Word64) : (x.landG n l d v).delay = x.delay := by unfold Gang.landG; split <;> rfl
@[simp] theorem Gang.landG_hdr (x : Gang) (n l d : Nat) (v : Word64) : (x.landG n l d v).hdr = x.hdr := by unfold Gang.landG; split <;> rfl
@[simp] theorem Gang.landG_words (x : Gang) (n l d : Nat) (v : Word64) : (x.landG n l d v).words = x.words := by unfold Gang.landG; split <;> rfl
@[simp] theorem Gang.landG_fresh (x : Gang) (n l d : Nat) (v : Word64) : (x.landG n l d v).fresh = x.fresh := by unfold Gang.landG; split <;> rfl
@[simp] theorem Gang.landG_flow (x : Gang) (n l d : Nat) (v : Word64) : (x.landG n l d v).flow = x.flow := by unfold Gang.landG; split <;> rfl
@[simp] theorem Gang.landG_handlers (x : Gang) (n l d : Nat) (v : Word64) : (x.landG n l d v).handlers = x.handlers := by unfold Gang.landG; split <;> rfl
@[simp] theorem Gang.landG_level (x : Gang) (n l d : Nat) (v : Word64) : (x.landG n l d v).level = x.level := by unfold Gang.landG; split <;> rfl
@[simp] theorem Gang.landG_asideState (x : Gang) (n l d : Nat) (v : Word64) : (x.landG n l d v).asideState = x.asideState := by unfold Gang.landG; split <;> rfl
@[simp] theorem Gang.landG_stop (x : Gang) (n l d : Nat) (v : Word64) : (x.landG n l d v).stop = x.stop := by unfold Gang.landG; split <;> rfl
@[simp] theorem Gang.landG_edge (x : Gang) (n l d : Nat) (v : Word64) : (x.landG n l d v).edge = x.edge := by unfold Gang.landG; split <;> rfl
@[simp] theorem Gang.landG_waiting (x : Gang) (n l d : Nat) (v : Word64) : (x.landG n l d v).waiting = x.waiting := by unfold Gang.landG; split <;> rfl
@[simp] theorem Gang.landG_votePend (x : Gang) (n l d : Nat) (v : Word64) : (x.landG n l d v).votePend = x.votePend := by unfold Gang.landG; split <;> rfl
@[simp] theorem Gang.landG_serial (x : Gang) (n l d : Nat) (v : Word64) : (x.landG n l d v).serial = x.serial := by unfold Gang.landG; split <;> rfl
@[simp] theorem Gang.landG_forced (x : Gang) (n l d : Nat) (v : Word64) : (x.landG n l d v).forced = x.forced := by unfold Gang.landG; split <;> rfl
@[simp] theorem Gang.landG_seqTrap (x : Gang) (n l d : Nat) (v : Word64) : (x.landG n l d v).seqTrap = x.seqTrap := by unfold Gang.landG; split <;> rfl
@[simp] theorem Gang.landG_lead (x : Gang) (n l d : Nat) (v : Word64) : (x.landG n l d v).lead = x.lead := by unfold Gang.landG; split <;> rfl
@[simp] theorem Gang.landG_saveCount (x : Gang) (n l d : Nat) (v : Word64) : (x.landG n l d v).saveCount = x.saveCount := by unfold Gang.landG; split <;> rfl
@[simp] theorem Gang.landG_order (x : Gang) (n l d : Nat) (v : Word64) : (x.landG n l d v).order = x.order := by unfold Gang.landG; split <;> rfl
@[simp] theorem Gang.landG_startAt (x : Gang) (n l d : Nat) (v : Word64) : (x.landG n l d v).startAt = x.startAt := by unfold Gang.landG; split <;> rfl
@[simp] theorem Gang.landG_ext (x : Gang) (n l d : Nat) (v : Word64) : (x.landG n l d v).ext = x.ext := by unfold Gang.landG; split <;> rfl

@[simp] theorem Gang.trapSeq_id (x : Gang) (e : TrapInfo) (n p : Nat) : (x.trapSeq e n p).id = x.id := rfl
@[simp] theorem Gang.trapSeq_launch (x : Gang) (e : TrapInfo) (n p : Nat) : (x.trapSeq e n p).launch = x.launch := rfl
@[simp] theorem Gang.trapSeq_prio (x : Gang) (e : TrapInfo) (n p : Nat) : (x.trapSeq e n p).prio = x.prio := rfl
@[simp] theorem Gang.trapSeq_c (x : Gang) (e : TrapInfo) (n p : Nat) : (x.trapSeq e n p).c = x.c := rfl
@[simp] theorem Gang.trapSeq_d (x : Gang) (e : TrapInfo) (n p : Nat) : (x.trapSeq e n p).d = x.d := rfl
@[simp] theorem Gang.trapSeq_dies (x : Gang) (e : TrapInfo) (n p : Nat) : (x.trapSeq e n p).dies = x.dies := rfl
@[simp] theorem Gang.trapSeq_seqDie (x : Gang) (e : TrapInfo) (n p : Nat) : (x.trapSeq e n p).seqDie = x.seqDie := rfl
@[simp] theorem Gang.trapSeq_seqNum (x : Gang) (e : TrapInfo) (n p : Nat) : (x.trapSeq e n p).seqNum = x.seqNum := rfl
@[simp] theorem Gang.trapSeq_members (x : Gang) (e : TrapInfo) (n p : Nat) : (x.trapSeq e n p).members = x.members := rfl
@[simp] theorem Gang.trapSeq_kernel (x : Gang) (e : TrapInfo) (n p : Nat) : (x.trapSeq e n p).kernel = x.kernel := rfl
@[simp] theorem Gang.trapSeq_params (x : Gang) (e : TrapInfo) (n p : Nat) : (x.trapSeq e n p).params = x.params := rfl
@[simp] theorem Gang.trapSeq_tensors (x : Gang) (e : TrapInfo) (n p : Nat) : (x.trapSeq e n p).tensors = x.tensors := rfl
@[simp] theorem Gang.trapSeq_g (x : Gang) (e : TrapInfo) (n p : Nat) : (x.trapSeq e n p).g = x.g := rfl
@[simp] theorem Gang.trapSeq_h (x : Gang) (e : TrapInfo) (n p : Nat) : (x.trapSeq e n p).h = x.h := rfl
@[simp] theorem Gang.trapSeq_vote (x : Gang) (e : TrapInfo) (n p : Nat) : (x.trapSeq e n p).vote = x.vote := rfl
@[simp] theorem Gang.trapSeq_pc (x : Gang) (e : TrapInfo) (n p : Nat) : (x.trapSeq e n p).pc = x.pc := rfl
@[simp] theorem Gang.trapSeq_rep (x : Gang) (e : TrapInfo) (n p : Nat) : (x.trapSeq e n p).rep = x.rep := rfl
@[simp] theorem Gang.trapSeq_reps (x : Gang) (e : TrapInfo) (n p : Nat) : (x.trapSeq e n p).reps = x.reps := rfl
@[simp] theorem Gang.trapSeq_cycle (x : Gang) (e : TrapInfo) (n p : Nat) : (x.trapSeq e n p).cycle = x.cycle := rfl
@[simp] theorem Gang.trapSeq_landings (x : Gang) (e : TrapInfo) (n p : Nat) : (x.trapSeq e n p).landings = x.landings := rfl
@[simp] theorem Gang.trapSeq_standing (x : Gang) (e : TrapInfo) (n p : Nat) : (x.trapSeq e n p).standing = x.standing := rfl
@[simp] theorem Gang.trapSeq_loops (x : Gang) (e : TrapInfo) (n p : Nat) : (x.trapSeq e n p).loops = x.loops := rfl
@[simp] theorem Gang.trapSeq_delay (x : Gang) (e : TrapInfo) (n p : Nat) : (x.trapSeq e n p).delay = x.delay := rfl
@[simp] theorem Gang.trapSeq_hdr (x : Gang) (e : TrapInfo) (n p : Nat) : (x.trapSeq e n p).hdr = x.hdr := rfl
@[simp] theorem Gang.trapSeq_words (x : Gang) (e : TrapInfo) (n p : Nat) : (x.trapSeq e n p).words = x.words := rfl
@[simp] theorem Gang.trapSeq_fresh (x : Gang) (e : TrapInfo) (n p : Nat) : (x.trapSeq e n p).fresh = x.fresh := rfl
@[simp] theorem Gang.trapSeq_flow (x : Gang) (e : TrapInfo) (n p : Nat) : (x.trapSeq e n p).flow = x.flow := rfl
@[simp] theorem Gang.trapSeq_handlers (x : Gang) (e : TrapInfo) (n p : Nat) : (x.trapSeq e n p).handlers = x.handlers := rfl
@[simp] theorem Gang.trapSeq_level (x : Gang) (e : TrapInfo) (n p : Nat) : (x.trapSeq e n p).level = x.level := rfl
@[simp] theorem Gang.trapSeq_asideState (x : Gang) (e : TrapInfo) (n p : Nat) : (x.trapSeq e n p).asideState = x.asideState := rfl
@[simp] theorem Gang.trapSeq_stop (x : Gang) (e : TrapInfo) (n p : Nat) : (x.trapSeq e n p).stop = x.stop := rfl
@[simp] theorem Gang.trapSeq_edge (x : Gang) (e : TrapInfo) (n p : Nat) : (x.trapSeq e n p).edge = x.edge := rfl
@[simp] theorem Gang.trapSeq_waiting (x : Gang) (e : TrapInfo) (n p : Nat) : (x.trapSeq e n p).waiting = x.waiting := rfl
@[simp] theorem Gang.trapSeq_votePend (x : Gang) (e : TrapInfo) (n p : Nat) : (x.trapSeq e n p).votePend = x.votePend := rfl
@[simp] theorem Gang.trapSeq_serial (x : Gang) (e : TrapInfo) (n p : Nat) : (x.trapSeq e n p).serial = x.serial := rfl
@[simp] theorem Gang.trapSeq_forced (x : Gang) (e : TrapInfo) (n p : Nat) : (x.trapSeq e n p).forced = x.forced := rfl
@[simp] theorem Gang.trapSeq_lead (x : Gang) (e : TrapInfo) (n p : Nat) : (x.trapSeq e n p).lead = x.lead := rfl
@[simp] theorem Gang.trapSeq_saveCount (x : Gang) (e : TrapInfo) (n p : Nat) : (x.trapSeq e n p).saveCount = x.saveCount := rfl
@[simp] theorem Gang.trapSeq_order (x : Gang) (e : TrapInfo) (n p : Nat) : (x.trapSeq e n p).order = x.order := rfl
@[simp] theorem Gang.trapSeq_startAt (x : Gang) (e : TrapInfo) (n p : Nat) : (x.trapSeq e n p).startAt = x.startAt := rfl
@[simp] theorem Gang.trapSeq_ext (x : Gang) (e : TrapInfo) (n p : Nat) : (x.trapSeq e n p).ext = x.ext := rfl
@[simp] theorem Gang.trapSeq_off (x : Gang) (e : TrapInfo) (n p : Nat) : (x.trapSeq e n p).off = x.off := rfl
@[simp] theorem Gang.trapSeq_next (x : Gang) (e : TrapInfo) (n p : Nat) : (x.trapSeq e n p).next = x.next := rfl
@[simp] theorem Gang.trapSeq_held (x : Gang) (e : TrapInfo) (n p : Nat) : (x.trapSeq e n p).held = x.held := rfl

/-! ### Finding and replacing -/

theorem State.seat?_id {s : State} {k : Nat} {x : Seat} (h : s.seat? k = some x) : x.id = k := by
  have := List.find?_some h
  simpa using this

theorem State.gang?_id {s : State} {g : Nat} {x : Gang} (h : s.gang? g = some x) : x.id = g := by
  have := List.find?_some h
  simpa using this

theorem State.putSeat_seats (s : State) (x : Seat) :
    (s.putSeat x).seats = s.seats.map fun y => if y.id == x.id then x else y := rfl

theorem State.putGang_gangs (s : State) (x : Gang) :
    (s.putGang x).gangs = s.gangs.map fun y => if y.id == x.id then x else y := rfl

/-- An element that replaces those of its number is found under it. -/
theorem find?_replace_self {α : Type} (f : α → Nat) (x : α) : ∀ l : List α, (l.find? fun y => f y == f x).isSome →
    (l.map fun y => if f y == f x then x else y).find? (fun y => f y == f x) = some x
  | [], h => by simp at h
  | z :: r, h => by
    rcases hz : f z == f x with _ | _
    · simp only [List.find?_cons, hz] at h
      simp only [List.map_cons, hz, Bool.false_eq_true, if_false, List.find?_cons]
      exact find?_replace_self f x r h
    · simp only [List.map_cons, hz, if_true, List.find?_cons, beq_self_eq_true]

/-- Elements of other numbers are found as before. -/
theorem find?_replace_ne {α : Type} (f : α → Nat) (x : α) {k : Nat} (h : k ≠ f x) : ∀ l : List α,
    (l.map fun y => if f y == f x then x else y).find? (fun y => f y == k) = l.find? fun y => f y == k
  | [] => rfl
  | z :: r => by
    have hx : (f x == k) = false := by simpa using fun e : f x = k => h e.symm
    rcases hz : f z == f x with _ | _
    · simp only [List.map_cons, hz, Bool.false_eq_true, if_false, List.find?_cons, find?_replace_ne f x h r]
    · have hk : (f z == k) = false := by rw [beq_iff_eq.1 hz]; exact hx
      simp only [List.map_cons, hz, if_true, List.find?_cons, hx, hk, find?_replace_ne f x h r]

/-- A replaced seat is found under its number. -/
theorem State.seat?_putSeat_self {s : State} {x y : Seat} (h : s.seat? x.id = some y) : (s.putSeat x).seat? x.id = some x :=
  find?_replace_self Seat.id x s.seats (by simp only [State.seat?] at h; simp [h])

/-- Other seats stand as they did. -/
theorem State.seat?_putSeat_ne {s : State} {x : Seat} {k : Nat} (h : k ≠ x.id) : (s.putSeat x).seat? k = s.seat? k :=
  find?_replace_ne Seat.id x h s.seats

theorem State.gang?_putGang_self {s : State} {x y : Gang} (h : s.gang? x.id = some y) : (s.putGang x).gang? x.id = some x :=
  find?_replace_self Gang.id x s.gangs (by simp only [State.gang?] at h; simp [h])

theorem State.gang?_putGang_ne {s : State} {x : Gang} {k : Nat} (h : k ≠ x.id) : (s.putGang x).gang? k = s.gang? k :=
  find?_replace_ne Gang.id x h s.gangs

/-- Replacing keeps the numbers. -/
@[simp] theorem State.putSeat_ids (s : State) (x : Seat) : (s.putSeat x).seats.map (·.id) = s.seats.map (·.id) := by
  simp only [State.putSeat, List.map_map]
  refine List.map_congr_left fun y _ => ?_
  by_cases h : y.id = x.id <;> simp [h]

@[simp] theorem State.putGang_ids (s : State) (x : Gang) : (s.putGang x).gangs.map (·.id) = s.gangs.map (·.id) := by
  simp only [State.putGang, List.map_map]
  refine List.map_congr_left fun y _ => ?_
  by_cases h : y.id = x.id <;> simp [h]

/-- The later of two seats of one number stays. -/
theorem State.putSeat_putSeat (s : State) {x y : Seat} (h : x.id = y.id) : (s.putSeat x).putSeat y = s.putSeat y := by
  have hm : (s.seats.map fun z => if z.id == x.id then x else z).map (fun z => if z.id == y.id then y else z) =
      s.seats.map fun z => if z.id == y.id then y else z := by
    simp only [List.map_map]
    refine List.map_congr_left fun z _ => ?_
    by_cases hz : z.id = y.id <;> simp [hz, h]
  simp only [State.putSeat, hm]

/-- A seat of one number written back where numbers are unique changes nothing. -/
theorem State.putSeat_self {s : State} {k : Nat} {x : Seat} (hn : (s.seats.map (·.id)).Nodup) (h : s.seat? k = some x) :
    s.putSeat x = s := by
  have hx : x ∈ s.seats := List.mem_of_find?_eq_some h
  have hm : (s.seats.map fun y => if y.id == x.id then x else y) = s.seats := by
    conv_rhs => rw [← List.map_id s.seats]
    refine List.map_congr_left fun y hy => ?_
    by_cases e : y.id = x.id
    · simp [List.inj_on_of_nodup_map hn hy hx e]
    · simp [e]
  simp only [State.putSeat, hm]

/-- The seat of a trap of kind F keeps its number. -/
@[simp] theorem Seat.trapF_id (x : Seat) (e : TrapInfo) (n : Nat) : (x.trapF e n).id = x.id := by
  unfold Seat.trapF; split <;> rfl

/-- A landing is added to those on their way. -/
theorem mem_insertLanding {l m : Landing} {ls : List Landing} : m ∈ insertLanding l ls ↔ m = l ∨ m ∈ ls := by
  induction ls with
  | nil => simp [insertLanding]
  | cons h r ih =>
    unfold insertLanding
    split
    · simp
    · simp [ih]; tauto

end Sys2Proof.Machine
end

