-- ==== Sys2Proof/Laws/Frame.lean ====
section
/-! SUPPORT. What an operation of a bundle can change at all, and the shared frame that every operation of slots 2 to 7
goes through. -/

namespace Sys2Proof.Machine

/-- Passing the issue slot changes seats and tiles only. -/
theorem State.giveSlot_state (s : State) (tile : Nat) (k : Option Nat) :
    ∃ q l, s.giveSlot tile k = { s with seats := q, tiles := l } := by
  by_cases h : (s.tile tile).holder = k
  · exact ⟨s.seats, s.tiles, if_pos h⟩
  · exact ⟨_, _, if_neg h⟩

/-- A seat that stops changes seats and the issue slots of tiles only. -/
theorem State.stopSeat_state (s : State) (x : Seat) : ∃ q l, s.stopSeat x = { s with seats := q, tiles := l } := by
  by_cases h : (x.run != .run && s.holder (x.id / 4) == some x.id) = true
  · obtain ⟨q, l, e⟩ := State.giveSlot_state (s.putSeat x) (x.id / 4) (((s.putSeat x).candidate (x.id / 4) (x.id % 4) (some x.id)).map (·.id))
    exact ⟨q, l, (if_pos h).trans e⟩
  · exact ⟨_, _, if_neg h⟩

/-- A trap or a hold changes seats, the open execution and the issue slots of tiles only. -/
theorem State.takeTrap_state (s : State) (base : Seat) (e : TrapInfo) (slot : Nat) :
    ∃ q l, s.takeTrap base e slot = { s with seats := q, cursor := none, tiles := l } := by
  unfold State.takeTrap
  by_cases h : e.cause = 0
  · exact ⟨_, _, by simp only [h, if_true]; rfl⟩
  · obtain ⟨q, l, e'⟩ := State.stopSeat_state s (base.trapF e slot)
    exact ⟨q, l, by simp only [h, if_false, e']⟩

theorem State.eq_of_trap {s u : State} {base : Seat} {e : TrapInfo} {slot : Nat} (h : u = s.takeTrap base e slot) :
    u = { s with seats := u.seats, cursor := u.cursor, tiles := u.tiles } := by
  obtain ⟨q, l, e⟩ := State.takeTrap_state s base e slot
  rw [h, e]

/-- An operation of a tile slot changes seats, the open execution and, where its seat traps, the tile's issue slot only. -/
theorem tileOp_state {t : Tag} {body : Ctx → Except TrapInfo (Seat × Option Nat)} {s u : State} (h : tileOp t body s = .next u) :
    u = { s with seats := u.seats, cursor := u.cursor, tiles := u.tiles } := by
  simp only [tileOp] at h
  repeat' split at h
  all_goals cases h
  all_goals first | rfl | exact State.eq_of_trap rfl

theorem seatOp_state {body : Ctx → Except TrapInfo Seat} {s u : State} (h : seatOp body s = .next u) :
    u = { s with seats := u.seats, cursor := u.cursor, tiles := u.tiles } := tileOp_state h

theorem seatAlways_state {body : Ctx → Except TrapInfo Seat} {s u : State} (h : seatAlways body s = .next u) :
    u = { s with seats := u.seats, cursor := u.cursor, tiles := u.tiles } := by
  unfold seatAlways at h
  repeat' split at h
  all_goals cases h
  all_goals first | rfl | exact State.eq_of_trap rfl

theorem beatOp_state {t : Tag} {sp : Bool} {body : Ctx → Except TrapInfo (Seat × Option Nat)} {s u : State}
    (h : beatOp t sp body s = .next u) : u = { s with seats := u.seats, cursor := u.cursor, tiles := u.tiles } := by
  unfold beatOp at h
  repeat' split at h
  · have := tileOp_state h
    exact this
  all_goals cases h

/-- An operation at a sequencer changes gangs and the open execution only. -/
theorem seqOp_state {body : SCtx → Except TrapInfo Gang} {s u : State} (h : seqOp body s = .next u) :
    u = { s with gangs := u.gangs, cursor := u.cursor } := by
  unfold seqOp at h
  repeat' split at h
  all_goals cases h
  all_goals rfl

/-- Every operation of slots 2 to 7 that holds no beat goes through the shared frame, with its own tag. -/
theorem exec_tile : ∀ (i : Instr) (t : Tag), i.tag = some t → i.holdsBeat = false →
    ∃ body : Ctx → Except TrapInfo (Seat × Option Nat), ∀ s, exec i s = tileOp t body s := by
  intro i t ht hb
  cases i <;> simp only [Instr.tag, reduceCtorEq, Option.some.injEq] at ht
  case adrAdd => subst ht; exact ⟨_, fun s => by unfold exec; dsimp only; unfold execAdrAdd adrArith; rfl⟩
  case adrSub => subst ht; exact ⟨_, fun s => by unfold exec; dsimp only; unfold execAdrSub adrArith; rfl⟩
  case adrAnd => subst ht; exact ⟨_, fun s => by unfold exec; dsimp only; unfold execAdrAnd adrArith; rfl⟩
  case adrOr => subst ht; exact ⟨_, fun s => by unfold exec; dsimp only; unfold execAdrOr adrArith; rfl⟩
  case adrXor => subst ht; exact ⟨_, fun s => by unfold exec; dsimp only; unfold execAdrXor adrArith; rfl⟩
  case adrShl => subst ht; exact ⟨_, fun s => by unfold exec; dsimp only; unfold execAdrShl adrArith; rfl⟩
  case adrShr => subst ht; exact ⟨_, fun s => by unfold exec; dsimp only; unfold execAdrShr adrArith; rfl⟩
  case adrSra => subst ht; exact ⟨_, fun s => by unfold exec; dsimp only; unfold execAdrSra adrArith; rfl⟩
  case adrMul => subst ht; exact ⟨_, fun s => by unfold exec; dsimp only; unfold execAdrMul adrArith; rfl⟩
  case adrMulh => subst ht; exact ⟨_, fun s => by unfold exec; dsimp only; unfold execAdrMulh adrArith; rfl⟩
  case adrMin => subst ht; exact ⟨_, fun s => by unfold exec; dsimp only; unfold execAdrMin adrArith; rfl⟩
  case adrMax => subst ht; exact ⟨_, fun s => by unfold exec; dsimp only; unfold execAdrMax adrArith; rfl⟩
  case adrAddi => subst ht; exact ⟨_, fun s => by unfold exec; dsimp only; unfold execAdrAddi adrUnary; rfl⟩
  case adrLi => subst ht; exact ⟨_, fun s => by unfold exec; dsimp only; unfold execAdrLi; rfl⟩
  case adrLiHi => subst ht; exact ⟨_, fun s => by unfold exec; dsimp only; unfold execAdrLiHi adrUnary; rfl⟩
  case cmp => subst ht; exact ⟨_, fun s => by unfold exec; dsimp only; unfold execCmp; rfl⟩
  case plog => subst ht; exact ⟨_, fun s => by unfold exec; dsimp only; unfold execPlog; rfl⟩
  case adrSel => subst ht; exact ⟨_, fun s => by unfold exec; dsimp only; unfold execAdrSel; rfl⟩
  case adrClz => subst ht; exact ⟨_, fun s => by unfold exec; dsimp only; unfold execAdrClz adrUnary; rfl⟩
  case popc => subst ht; exact ⟨_, fun s => by unfold exec; dsimp only; unfold execPopc adrUnary; rfl⟩
  case tadr => subst ht; exact ⟨_, fun s => by unfold exec; dsimp only; unfold execTadr; rfl⟩
  case ld => subst ht; exact ⟨_, fun s => by unfold exec; dsimp only; unfold execLd; rfl⟩
  case st => subst ht; exact ⟨_, fun s => by unfold exec; dsimp only; unfold execSt; rfl⟩
  case ldr => subst ht; exact ⟨_, fun s => by unfold exec; dsimp only; unfold execLdr; rfl⟩
  case str => subst ht; exact ⟨_, fun s => by unfold exec; dsimp only; unfold execStr; rfl⟩
  case amo => subst ht; exact ⟨_, fun s => by unfold exec; dsimp only; unfold execAmo; rfl⟩
  case amor => subst ht; exact ⟨_, fun s => by unfold exec; dsimp only; unfold execAmor; rfl⟩
  case ownEng => subst ht; exact ⟨_, fun s => by unfold exec; dsimp only; unfold execOwnEng; rfl⟩
  case ownThr => subst ht; exact ⟨_, fun s => by unfold exec; dsimp only; unfold execOwnThr; rfl⟩
  case wpr => subst ht; exact ⟨_, fun s => by unfold exec; dsimp only; unfold execWpr; rfl⟩
  case ljoin => subst ht; exact ⟨_, fun s => by unfold exec; dsimp only; unfold execLjoin latticeOp; rfl⟩
  case ljoinSc => subst ht; exact ⟨_, fun s => by unfold exec; dsimp only; unfold execLjoinSc latticeOp; rfl⟩
  case lstm => subst ht; exact ⟨_, fun s => by unfold exec; dsimp only; unfold execLstm latticeOp; rfl⟩
  case linc => subst ht; exact ⟨_, fun s => by unfold exec; dsimp only; unfold execLinc latticeOp; rfl⟩
  case lld => subst ht; exact ⟨_, fun s => by unfold exec; dsimp only; unfold execLld watchOp; rfl⟩
  case lwait => subst ht; exact ⟨_, fun s => by unfold exec; dsimp only; unfold execLwait watchOp; rfl⟩
  case vadd => subst ht; exact ⟨_, fun s => by unfold exec; dsimp only; unfold execVadd elementwise; rfl⟩
  case vsub => subst ht; exact ⟨_, fun s => by unfold exec; dsimp only; unfold execVsub elementwise; rfl⟩
  case vmul => subst ht; exact ⟨_, fun s => by unfold exec; dsimp only; unfold execVmul elementwise; rfl⟩
  case vfma => subst ht; exact ⟨_, fun s => by unfold exec; dsimp only; unfold execVfma elementwise; rfl⟩
  case vfms => subst ht; exact ⟨_, fun s => by unfold exec; dsimp only; unfold execVfms elementwise; rfl⟩
  case vmin => subst ht; exact ⟨_, fun s => by unfold exec; dsimp only; unfold execVmin elementwise; rfl⟩
  case vmax => subst ht; exact ⟨_, fun s => by unfold exec; dsimp only; unfold execVmax elementwise; rfl⟩
  case vabs => subst ht; exact ⟨_, fun s => by unfold exec; dsimp only; unfold execVabs elementwise; rfl⟩
  case vneg => subst ht; exact ⟨_, fun s => by unfold exec; dsimp only; unfold execVneg elementwise; rfl⟩
  case vand => subst ht; exact ⟨_, fun s => by unfold exec; dsimp only; unfold execVand bitwise; rfl⟩
  case vor => subst ht; exact ⟨_, fun s => by unfold exec; dsimp only; unfold execVor bitwise; rfl⟩
  case vxor => subst ht; exact ⟨_, fun s => by unfold exec; dsimp only; unfold execVxor bitwise; rfl⟩
  case vnot => subst ht; exact ⟨_, fun s => by unfold exec; dsimp only; unfold execVnot bitwise; rfl⟩
  case vshl => subst ht; exact ⟨_, fun s => by unfold exec; dsimp only; unfold execVshl vshift; rfl⟩
  case vshr => subst ht; exact ⟨_, fun s => by unfold exec; dsimp only; unfold execVshr vshift; rfl⟩
  case vsra => subst ht; exact ⟨_, fun s => by unfold exec; dsimp only; unfold execVsra vshift; rfl⟩
  case vsel => subst ht; exact ⟨_, fun s => by unfold exec; dsimp only; unfold execVsel; rfl⟩
  case vcvt => subst ht; exact ⟨_, fun s => by unfold exec; dsimp only; unfold execVcvt; rfl⟩
  case vred => subst ht; exact ⟨_, fun s => by unfold exec; dsimp only; unfold execVred; rfl⟩
  case vscan => subst ht; exact ⟨_, fun s => by unfold exec; dsimp only; unfold execVscan; rfl⟩
  case vperm => subst ht; exact ⟨_, fun s => by unfold exec; dsimp only; unfold execVperm; rfl⟩
  case vbcst => subst ht; exact ⟨_, fun s => by unfold exec; dsimp only; unfold execVbcst; rfl⟩
  case vbcstLane => subst ht; exact ⟨_, fun s => by unfold exec; dsimp only; unfold execVbcstLane; rfl⟩
  case viota => subst ht; exact ⟨_, fun s => by unfold exec; dsimp only; unfold execViota; rfl⟩
  case vrcp => subst ht; exact ⟨_, fun s => by unfold exec; dsimp only; unfold execVrcp vfunction; rfl⟩
  case vrsq => subst ht; exact ⟨_, fun s => by unfold exec; dsimp only; unfold execVrsq vfunction; rfl⟩
  case vexp2 => subst ht; exact ⟨_, fun s => by unfold exec; dsimp only; unfold execVexp2 vfunction; rfl⟩
  case vlog2 => subst ht; exact ⟨_, fun s => by unfold exec; dsimp only; unfold execVlog2 vfunction; rfl⟩
  case vmov => subst ht; exact ⟨_, fun s => by unfold exec; dsimp only; unfold execVmov bitwise; rfl⟩
  case mspush => subst ht; exact ⟨_, fun s => by unfold exec; dsimp only; unfold execMspush; rfl⟩
  case mspushScalar => subst ht; exact ⟨_, fun s => by unfold exec; dsimp only; unfold execMspushScalar; rfl⟩
  case msinv => subst ht; exact ⟨_, fun s => by unfold exec; dsimp only; unfold execMsinv; rfl⟩
  case mspop => subst ht; exact ⟨_, fun s => by unfold exec; dsimp only; unfold execMspop; rfl⟩
  case msand => subst ht; exact ⟨_, fun s => by unfold exec; dsimp only; unfold execMsand; rfl⟩
  case msandScalar => subst ht; exact ⟨_, fun s => by unfold exec; dsimp only; unfold execMsandScalar; rfl⟩
  case vpopc => subst ht; exact ⟨_, fun s => by unfold exec; dsimp only; unfold execVpopc; rfl⟩
  case vpopcLanes => subst ht; exact ⟨_, fun s => by unfold exec; dsimp only; unfold execVpopcLanes; rfl⟩
  case vact => subst ht; exact ⟨_, fun s => by unfold exec; dsimp only; unfold execVact vfunction; rfl⟩
  case vld => subst ht; exact ⟨_, fun s => by unfold exec; dsimp only; unfold execVld; rfl⟩
  case vst => subst ht; exact ⟨_, fun s => by unfold exec; dsimp only; unfold execVst; rfl⟩
  case vlds => subst ht; exact ⟨_, fun s => by unfold exec; dsimp only; unfold execVlds; rfl⟩
  case vsts => subst ht; exact ⟨_, fun s => by unfold exec; dsimp only; unfold execVsts; rfl⟩
  case vgth => subst ht; exact ⟨_, fun s => by unfold exec; dsimp only; unfold execVgth; rfl⟩
  case vsct => subst ht; exact ⟨_, fun s => by unfold exec; dsimp only; unfold execVsct; rfl⟩
  case vldr => subst ht; exact ⟨_, fun s => by unfold exec; dsimp only; unfold execVldr; rfl⟩
  case vstr => subst ht; exact ⟨_, fun s => by unfold exec; dsimp only; unfold execVstr; rfl⟩
  case vxs => subst ht; exact ⟨_, fun s => by unfold exec; dsimp only; unfold execVxs; rfl⟩
  case vsx => subst ht; exact ⟨_, fun s => by unfold exec; dsimp only; unfold execVsx; rfl⟩
  case vldx => subst ht; exact ⟨_, fun s => by unfold exec; dsimp only; unfold execVldx; rfl⟩
  case vtrp => subst ht; exact ⟨_, fun s => by unfold exec; dsimp only; unfold execVtrp; rfl⟩
  case mpush => subst ht; exact ⟨_, fun s => by unfold exec; dsimp only; unfold execMpush; rfl⟩
  case mdrain => subst ht; exact ⟨_, fun s => by unfold exec; dsimp only; unfold execMdrain; rfl⟩
  case mclr => subst ht; exact ⟨_, fun s => by unfold exec; dsimp only; unfold execMclr; rfl⟩
  case mbmap => subst ht; exact ⟨_, fun s => by unfold exec; dsimp only; unfold execMbmap; rfl⟩
  case mchk => subst ht; exact ⟨_, fun s => by unfold exec; dsimp only; unfold execMchk; rfl⟩
  case mfix => subst ht; exact ⟨_, fun s => by unfold exec; dsimp only; unfold execMfix; rfl⟩
  case mstat => subst ht; exact ⟨_, fun s => by unfold exec; dsimp only; unfold execMstat; rfl⟩
  case xadd => subst ht; exact ⟨_, fun s => by unfold exec; dsimp only; unfold execXadd; rfl⟩
  case xlds => subst ht; exact ⟨_, fun s => by unfold exec; dsimp only; unfold execXlds; rfl⟩
  case xclr => subst ht; exact ⟨_, fun s => by unfold exec; dsimp only; unfold execXclr; rfl⟩
  case cpyi => subst ht; exact ⟨_, fun s => by unfold exec; dsimp only; unfold execCpyi copyOp; rfl⟩
  case cpyo => subst ht; exact ⟨_, fun s => by unfold exec; dsimp only; unfold execCpyo copyOp; rfl⟩
  case cpys => subst ht; exact ⟨_, fun s => by unfold exec; dsimp only; unfold execCpys; rfl⟩
  case cpyx => subst ht; exact ⟨_, fun s => by unfold exec; dsimp only; unfold execCpyx copyOp; rfl⟩
  case cpyr => subst ht; exact ⟨_, fun s => by unfold exec; dsimp only; unfold execCpyr copyOp; rfl⟩
  case cpyl => subst ht; exact ⟨_, fun s => by unfold exec; dsimp only; unfold execCpyl copyOp; rfl⟩
  case cpyk => subst ht; exact ⟨_, fun s => by unfold exec; dsimp only; unfold execCpyk; rfl⟩
  case rrot => subst ht; exact ⟨_, fun s => by unfold exec; dsimp only; unfold execRrot; rfl⟩
  case mcst => subst ht; exact ⟨_, fun s => by unfold exec; dsimp only; unfold execMcst; rfl⟩
  case route => subst ht; exact ⟨_, fun s => by unfold exec; dsimp only; unfold execRoute; rfl⟩
  case a2av => subst ht; exact ⟨_, fun s => by unfold exec; dsimp only; unfold execA2av; rfl⟩
  case ared => subst ht; exact ⟨_, fun s => by unfold exec; dsimp only; unfold execAred gatherOp; rfl⟩
  case agth => subst ht; exact ⟨_, fun s => by unfold exec; dsimp only; unfold execAgth gatherOp; rfl⟩
  case sendo => subst ht; exact ⟨_, fun s => by unfold exec; dsimp only; unfold execSendo; rfl⟩
  case rngs => subst ht; exact ⟨_, fun s => by unfold exec; dsimp only; unfold execRngs; rfl⟩
  case macc => simp [Instr.holdsBeat] at hb
  case macs => simp [Instr.holdsBeat] at hb
  case mshift be _ _ _ _ => subst ht; exact ⟨_, fun s => by unfold exec; dsimp only; unfold execMshift; rw [if_neg (by simpa [Instr.holdsBeat] using hb)]⟩

end Sys2Proof.Machine
end

