-- ==== Sys2Proof/Laws/Memory.lean ====
section
/-! SUPPORT. Every operation on memory keeps its canonical form. -/

namespace Sys2Proof.Machine

namespace Mem

/-- A form that holds from an address on holds from every lower one on. -/
theorem wfFrom_mono {m : List Host.Cell} {lo hi : Nat} (h : lo ≤ hi) (w : wfFrom hi m = true) : wfFrom lo m = true := by
  cases m with
  | nil => rfl
  | cons c r =>
    simp only [wfFrom, Bool.and_eq_true, decide_eq_true_eq] at *
    exact ⟨⟨by omega, w.1.2⟩, w.2⟩

/-- Writing a byte keeps the form. -/
theorem wfFrom_put {m : List Host.Cell} {lo a : Nat} {v : Byte} (h : lo ≤ a) (w : wfFrom lo m = true) :
    wfFrom lo (put m a v) = true := by
  have one (r : List Host.Cell) (hr : wfFrom (a + 1) r = true) (hv : v ≠ 0) : wfFrom lo ((a, v) :: r) = true := by
    simp only [wfFrom, Bool.and_eq_true, decide_eq_true_eq, bne_iff_ne]
    exact ⟨⟨h, hv⟩, hr⟩
  induction m generalizing lo with
  | nil =>
    simp only [put]
    split
    · rfl
    · exact one [] rfl ‹_›
  | cons c r ih =>
    obtain ⟨k, b⟩ := c
    have ⟨⟨h1, h2⟩, h3⟩ : (lo ≤ k ∧ b ≠ 0) ∧ wfFrom (k + 1) r = true := by
      simpa only [wfFrom, Bool.and_eq_true, decide_eq_true_eq, bne_iff_ne] using w
    have keep (lo : Nat) (r : List Host.Cell) (h1 : lo ≤ k) (h3 : wfFrom (k + 1) r = true) : wfFrom lo ((k, b) :: r) = true := by
      simp only [wfFrom, Bool.and_eq_true, decide_eq_true_eq, bne_iff_ne]
      exact ⟨⟨h1, h2⟩, h3⟩
    simp only [put]
    split
    · split
      · exact keep lo r h1 h3
      · exact one _ (keep _ r (by omega) h3) ‹_›
    · split
      · subst_vars
        split
        · exact wfFrom_mono (by omega) h3
        · exact one r h3 ‹_›
      · refine keep lo _ h1 (ih (by omega) h3 fun r hr hv => ?_)
        simp only [wfFrom, Bool.and_eq_true, decide_eq_true_eq, bne_iff_ne]
        exact ⟨⟨by omega, hv⟩, hr⟩

/-- Below the first address of a canonical list every byte reads zero. -/
theorem byte_below : ∀ {m : List Host.Cell} {lo q : Nat}, wfFrom lo m = true → q < lo → byte m q = 0
  | [], _, _, _, _ => rfl
  | (k, b) :: r, lo, q, h, hq => by
    simp only [wfFrom, Bool.and_eq_true, decide_eq_true_eq] at h
    simp only [byte]
    rw [if_neg (by omega)]
    exact byte_below h.2 (by omega)

/-- A byte reads as what was put there, every other byte as before. -/
theorem byte_put : ∀ {m : List Host.Cell} {lo a : Nat} {v : Byte} {q : Nat}, wfFrom lo m = true →
    byte (put m a v) q = if q = a then v else byte m q
  | [], lo, a, v, q, _ => by
    unfold put; split <;> simp only [byte] <;> grind
  | (k, b) :: r, lo, a, v, q, h => by
    simp only [wfFrom, Bool.and_eq_true, decide_eq_true_eq] at h
    have below := fun q => byte_below (q := q) h.2
    have ih := byte_put (m := r) (lo := k + 1) (a := a) (v := v) (q := q) h.2
    unfold put
    split
    · split
      · simp only [byte]; split
        · split <;> simp_all
        · split
          · subst_vars; exact below _ (by omega)
          · rfl
      · simp only [byte]; grind
    · split
      · subst_vars; split
        · simp only [byte]; split
          · subst_vars; exact below _ (by omega)
          · rw [if_neg (by omega)]
        · simp only [byte]; grind
      · simp only [byte]; rw [ih]; grind

theorem wf_put {m : List Host.Cell} {a : Nat} {v : Byte} (w : wf m = true) : wf (put m a v) = true :=
  wfFrom_put (Nat.zero_le a) w

theorem wf_putAll {m : List Host.Cell} {a : Nat} {bs : List Byte} (w : wf m = true) : wf (putAll m a bs) = true := by
  induction bs generalizing m a with
  | nil => exact w
  | cons b r ih => exact ih (wf_put w)

/-- Taking cells away keeps the form. -/
theorem wfFrom_filter {m : List Host.Cell} {lo : Nat} (p : Host.Cell → Bool) (w : wfFrom lo m = true) :
    wfFrom lo (m.filter p) = true := by
  induction m generalizing lo with
  | nil => rfl
  | cons c r ih =>
    simp only [wfFrom, Bool.and_eq_true, decide_eq_true_eq] at w
    by_cases hp : p c
    · simp only [List.filter_cons, hp, if_true, wfFrom, Bool.and_eq_true, decide_eq_true_eq]
      exact ⟨w.1, ih w.2⟩
    · simp only [List.filter_cons, hp, Bool.false_eq_true, if_false]
      exact wfFrom_mono (by omega) (ih w.2)

theorem wf_filter {m : List Host.Cell} (p : Host.Cell → Bool) (w : wf m = true) : wf (m.filter p) = true :=
  wfFrom_filter p w

end Mem

theorem wf_putCells {m : List Host.Cell} {ws : List (Nat × Byte)} (w : Mem.wf m = true) : Mem.wf (putCells m ws) = true := by
  induction ws generalizing m with
  | nil => exact w
  | cons c r ih => exact ih (Mem.wf_put w)

/-- Pads keep their form under a write. -/
theorem Seat.PadsWf.writeBytes {x : Seat} (w : x.PadsWf) (ws : List (Nat × Byte)) : (x.writeBytes ws).PadsWf := wf_putCells w

/-- Writes leave every byte alone that none of them names. -/
theorem byte_putCells_other {q : Nat} : ∀ {ws : List (Nat × Byte)} {m : List Host.Cell}, Mem.wf m = true →
    (∀ w ∈ ws, w.1 ≠ q) → Mem.byte (putCells m ws) q = Mem.byte m q
  | [], _, _, _ => rfl
  | w :: r, m, h, hq => by
    have ih := byte_putCells_other (ws := r) (Mem.wf_put (a := w.1) (v := w.2) h) fun a ha => hq a (List.mem_cons_of_mem _ ha)
    simp only [putCells, List.foldl_cons] at ih ⊢
    rw [ih, Mem.byte_put (lo := 0) h, if_neg fun e => hq w (List.mem_cons_self ..) e.symm]

theorem mem_cellsFrom {bs : List Byte} {a o : Nat} {w : Nat × Byte} (h : w ∈ (bs.zipIdx o).map fun b => (a + b.2, b.1)) :
    a + o ≤ w.1 ∧ w.1 < a + o + bs.length := by
  obtain ⟨⟨x, j⟩, hj, rfl⟩ := List.mem_map.1 h
  have := List.mem_zipIdx hj
  simp at this ⊢
  omega

/-- Bytes written from an address on read as written. -/
theorem byte_cellsFrom : ∀ {bs : List Byte} {m : List Host.Cell} {a o i : Nat}, Mem.wf m = true → i < bs.length →
    Mem.byte (putCells m ((bs.zipIdx o).map fun b => (a + b.2, b.1))) (a + o + i) = bs[i]?.getD 0
  | [], _, _, _, i, _, hi => by simp at hi
  | b :: r, m, a, o, i, h, hi => by
    have hw : Mem.wf (Mem.put m (a + o) b) = true := Mem.wf_put h
    cases i with
    | zero =>
      have := byte_putCells_other (q := a + o) (ws := (r.zipIdx (o + 1)).map fun b => (a + b.2, b.1)) hw
        fun w hm => by have := mem_cellsFrom hm; omega
      simp only [putCells] at this
      simp only [putCells, List.zipIdx_cons, List.map_cons, List.foldl_cons, Nat.add_zero, this]
      simp [Mem.byte_put (lo := 0) h]
    | succ i =>
      have := byte_cellsFrom (bs := r) (a := a) (o := o + 1) (i := i) hw (by simpa using hi)
      simp only [putCells] at this
      simp only [putCells, List.zipIdx_cons, List.map_cons, List.foldl_cons, show a + o + (i + 1) = a + (o + 1) + i by omega, this]
      simp

theorem length_leBytes (n : Nat) : ∀ v, (leBytes n v).length = n := by
  induction n with
  | zero => intro v; rfl
  | succ n ih => intro v; simp [leBytes, ih]

/-- The little-endian bytes of a value give it back, modulo their width. -/
theorem leNat_leBytes (n : Nat) : ∀ v, leNat (leBytes n v) = v % 256 ^ n := by
  induction n with
  | zero => intro v; simp [leBytes, leNat]; omega
  | succ n ih => intro v; simp [leBytes, leNat, ih]; rw [Nat.pow_succ, Nat.mul_comm (256 ^ n) 256, Nat.mod_mul]

/-- n bytes written to the pads read back as written. -/
theorem Seat.PadsWf.padBytes_writeBytes {x : Seat} (h : x.PadsWf) (a n v : Nat) :
    (x.writeBytes (cellsAt a (leBytes n v))).padBytes a n = leBytes n v := by
  apply List.ext_getElem
  · simp [Seat.padBytes, Mem.bytes, length_leBytes]
  · intro i h1 h2
    have := byte_cellsFrom (a := a) (o := 0) (m := x.pads.bytes) h h2
    simp only [Seat.padBytes, Mem.bytes, Seat.writeBytes, cellsAt, List.getElem_map, List.getElem_range]
    simpa [h2] using this

/-- Writes to the pads leave every other byte alone. -/
theorem Seat.PadsWf.byte_writeBytes {x : Seat} (h : x.PadsWf) {a q : Nat} {bs : List Byte} (hq : q < a ∨ a + bs.length ≤ q) :
    Mem.byte (x.writeBytes (cellsAt a bs)).pads.bytes q = Mem.byte x.pads.bytes q :=
  byte_putCells_other h fun w hw => by have := mem_cellsFrom hw; omega

/-- Device memory and host windows keep their form under a write by physical address. -/
theorem State.MemoryWf.writePa {s : State} (w : s.MemoryWf) (ws : List (Nat × Byte)) : (s.writePa ws).MemoryWf :=
  ⟨wf_putCells w.1, wf_putCells w.2⟩

/-- Memory after module reset stands in its form. -/
theorem reset_memoryWf : State.reset.MemoryWf := ⟨rfl, rfl⟩

end Sys2Proof.Machine
end

