-- ==== Sys2Proof/Tests/Slice0.lean ====
section
/-! SUPPORT. Tests of decoding and well-formedness, of single operations and events against values of the spec, and
for every statement with hypotheses a concrete state and operands that meet them. -/

open Sys2Proof Sys2Proof.Machine

/-! ### Limits of the operand fields: one ill-formed term for each check -/

/-- R82 to R85, R101, R115, R119, R127, R129: the CTL slot. -/
theorem test_wf_ctl : ([.br 7 0 0 0 none, .br 0 32 0 0 none, .br 0 0 46 0 none, .br 6 1 0 0 none, .br 6 0 1 0 none,
    .br 0 0 0 1 (some 0), .br 0 0 0 0 (some 0x01000000), .brv 7 0 0 none, .brv 6 1 0 none, .jmp 1 (some 0), .jmpReg 0, .jmpReg 39,
    .call 0 (some 0xFF000000), .callReg 0, .lbrk 0, .lbrk 7, .hndl 0 1 none, .hndl 0x24 1 none, .hndl 0x1E 1 none, .hndl 1 0 none,
    .hndlRemove 0, .hndlRemove 0x1E, .hndlRemove 0x24, .fmtw 32 0, .fmtw 0 48, .sysr 32 0, .sysw 48 0] : List Instr).all
      (fun i => !i.wf) = true := by decide

/-- R269 to R277, R282, R283: the counters and fences. -/
theorem test_wf_sync : ([.bari 16 0 0 none, .bari 0 1 1 none, .bari 0 1 0 (some 0), .semi 0 0 1 (some 0), .semi 0 48 0 none,
    .bara 16 1 0 none, .bara 0 0 0 none, .sems 0 1 1 none, .sems 0 1 0 (some 0x10000000), .sems 0 1 0 (some 1),
    .sems 0 1 0 (some 0x0D000000), .sems 0 1 0 (some 0x01000000), .sems 0 1 0 (some 0x00100000), .barw 16 0, .semw 0 0 0,
    .semw 0 1 1, .wpw 8 0, .fenceAcq 5, .fenceRel 5, .fenceFull 5] : List Instr).all (fun i => !i.wf) = true := by decide

/-- R133 to R141: the UNI slot. -/
theorem test_wf_uni : ([.uniAdd 0 32 0 0, .uniAdd 0 0 39 0, .uniAdd 0 0 0 46, .uniAddi 0 0 0 1 (some 0), .uniLi 0 0 1 (some 0),
    .uniLiHi 0 32 0 none, .ldp 0 0 64, .vote 0 0 0 5, .gidx 0 0 8, .hld 0 16 0, .hld 0 0 64, .hget 0 0 16 0 0, .hget 0 0 0 16 0,
    .hset 0 16 0 0, .hset 0 0 0 16, .hcpy 0 0 16, .hbind 0 16 0, .hval 0 0 46, .uniClz 0 32 0] : List Instr).all
      (fun i => !i.wf) = true := by decide

def tagA : Tag := { o := 0, r := 0, p := 0 }

/-- R143 to R153, R166, R169, R170, R310 to R315: the ADR slot. -/
theorem test_wf_adr : ([.adrAdd tagA 32 0 0, .adrAdd tagA 0 48 0, .adrMulh tagA 0 0 48 0, .adrAddi tagA 0 0 1 (some 0),
    .adrLi tagA 0 1 (some 0), .cmp tagA 6 0 0 0 0, .plog tagA 0 0 8 0, .plog tagA 0 0 0 8, .adrClz tagA 0 48 0, .tadr tagA 0 0 0 4,
    .ld tagA 32 0 0 0 none, .st tagA 0 48 0 0 none, .ldr tagA 0 0 0 0 0x03FFFFFF, .amo tagA 0 0 10 0 none, .amo tagA 31 0 7 0 none,
    .amor tagA 0 0 0 0 0 0, .amor tagA 31 0 0 7 0 0x04000000, .ownEng tagA 48 0, .ownThr tagA 48 0, .wpr tagA 0 8,
    .ljoin tagA 32 0 0 none, .lld tagA 0 0 0 0, .lld tagA 1 0 0 0x04000000, .lwait tagA 0 0 0 0, .lwait tagA 31 0 0 0] : List Instr).all
      (fun i => !i.wf) = true := by decide

/-- R167, R171 to R175, R183 to R199: the VEC and VLS slots; the landing distance, parts and rounding of literals. -/
theorem test_wf_vec : ([.vadd tagA 32 0 0 0, .vadd tagA 0 32 0 0, .vsel tagA 0 0 32, .vabs tagA 32 0 0, .vnot tagA 0 32,
    .vshl tagA 0 0 32 0, .vshl tagA 0 0 48 1, .vcvt tagA 0 0 0x8000, .vcvt tagA 0 0 0x500, .vcvt tagA 0 0 0x600,
    .vcvt tagA 0 0 0x80C, .vcvt tagA 0 0 0x20C0, .vred tagA 0 0 6, .vscan tagA 0 0 3, .vact tagA 0 0 3, .vbcst tagA 0 48,
    .vbcstLane tagA 0 32 0, .viota tagA 0 48 0, .mspush tagA 6 0 0 0, .msand tagA 0 0 32 0, .mspushScalar tagA 48, .vpopc tagA 32,
    .vpopcLanes tagA 0 32, .vld tagA 0 0 0 3 none, .vst tagA 32 0 0 0 none, .vlds tagA 0 0 0 3 0, .vldr tagA 0 0 0 0 0,
    .vstr tagA 0 48 0 0 none, .vgth tagA 0 0 32 0, .vsct tagA 0 48 0 0, .vxs tagA 0 0 48, .vsx tagA 0 48 0, .vldx tagA 0 0 0 none,
    .vldx tagA 0 31 0 none, .vtrp tagA 0 0 48 0] : List Instr).all (fun i => !i.wf) = true := by decide

/-- R211 to R225: the MAT and EXP slots. -/
theorem test_wf_mat : ([.mpush tagA 0 0 0 0 0 none, .mpush tagA 1 0 0 0 1 none, .mpush tagA 32 0 3 1 0 none,
    .mpush tagA 0 0 3 1 0 (some 0), .mshift tagA 0 48 0 0 0 0 0 none, .mshift tagA 1 0 0 0 0 0 0 none,
    .mshift tagA 0 0 0 0 0 0 0 (some 0x10000), .mshift tagA 0 0 1 1 1 0 0 none, .macc tagA 0 1 0 1 0 0 0 none,
    .macc tagA 0 0 0 1 0 1 0 none, .macc tagA 0 0 32 0 0 0 1 none, .macs tagA 0 0 0 0 0 0 0 none, .macs tagA 0 31 0 0 0 0 0 none,
    .mdrain tagA 0 32 1 none, .mdrain tagA 0 48 0 none, .mdrain tagA 0 0 0 (some 0x10000), .mbmap tagA 16 1, .mfix tagA 0 48 0,
    .mstat tagA 0 0 4, .xadd tagA 48 0, .xlds tagA 48 0 none] : List Instr).all (fun i => !i.wf) = true := by decide

/-- R233, R234, R242, R249, R253, R264, R268: the XFR slot. The control word's fields stand only with their bits. -/
theorem test_wf_xfr : ([.cpyi tagA 0 32 1 0 none, .cpyi tagA 0 0 0 0 none, .cpyo tagA 0 0 31 0 none, .cpyi tagA 0 0 1 0 (some 1),
    .cpyi tagA 0 0 1 0 (some 0x40000000), .cpyi tagA 0 0 1 0 (some 0x01000000), .cpyi tagA 0 0 1 0 (some 0x00100000),
    .cpyi tagA 0 0 1 0 (some 0x00004000), .cpyi tagA 0 0 1 0 (some 0x80100000), .cpyi tagA 0 0 1 0 (some 0x00000200),
    .cpyi tagA 0 0 1 0 (some 0x00000040), .cpyr tagA 0 0 1 0 (some 0x000000C0), .cpyk tagA 32 0 0, .cpyk tagA 0 48 0,
    .rrot tagA 2 0 1 0 none, .route tagA 0 0 0 0 none, .sendo tagA 0 0 1 0 (some 0x40), .rngs tagA 48] : List Instr).all
      (fun i => !i.wf) = true := by decide

/-- Fields at the ends of their ranges are admitted (R60, R82, R85, R101, R129, R169, R192, R242). -/
theorem test_wf_limits : ([.br 5 31 45 64 none, .br 6 0 0 0 (some 0x00FFFFFF), .lbrk 6, .hndl 0x23 0 (some 0), .amo tagA 30 47 7 1 none,
    .amo tagA 31 47 8 1 none, .ldr tagA 31 47 16 3 0x04000000, .vcvt tagA 31 31 0x1890, .cpyr tagA 15 31 30 7 (some 0x00000080),
    .cpyi tagA 0 0 1 0 (some 0xC0F04000), .lwait tagA 30 0 0 0xFFFFFFFF, .vred tagA 0 0 5, .gidx 1 31 7] : List Instr).all Instr.wf = true := by decide

/-- R79, R87 to R89: words that are no operation: a free operation code, a nonzero unused bit, a field out of range. -/
theorem test_decode_refuses :
    decode .uni 0x0E000000 0 = .error .illegalOp ∧ decode .ctl 0x5F800000 0 = .error .illegalOp ∧
    decode .uni 0x090A2001 0 = .error .illegalField ∧ decode .ctl 0x40B80000 0 = .error .illegalField := by decide

/-! ### Words of every operation -/

/-- Words of the CTL slot, written from the fields of spec/opcode_table.json (R59, R60). -/
theorem test_decode_ctl :
    decode .ctl 0x4090A30A 0x0 = .ok (.br 2 5 6 10 none) ∧
    decode .ctl 0x4110028A 0x0 = .ok (.brv 2 5 10 none) ∧
    decode .ctl 0x4180000A 0x0 = .ok (.jmp 10 none) ∧
    decode .ctl 0x41806000 0x0 = .ok (.jmpReg 3) ∧
    decode .ctl 0x4200000A 0x0 = .ok (.call 10 none) ∧
    decode .ctl 0x42006000 0x0 = .ok (.callReg 3) ∧
    decode .ctl 0x42800000 0x0 = .ok (.ret ) ∧
    decode .ctl 0x43000003 0x0 = .ok (.loop 3) ∧
    decode .ctl 0x43800003 0x0 = .ok (.lbrk 3) ∧
    decode .ctl 0x44000000 0x0 = .ok (.yield ) ∧
    decode .ctl 0x44800000 0x0 = .ok (.skpz ) ∧
    decode .ctl 0x45000000 0x0 = .ok (.skpe ) ∧
    decode .ctl 0x45800000 0x0 = .ok (.halt ) ∧
    decode .ctl 0x460000A0 0x0 = .ok (.trap 10) ∧
    decode .ctl 0x4680600A 0x0 = .ok (.hndl 3 10 none) ∧
    decode .ctl 0x46806000 0x0 = .ok (.hndlRemove 3) ∧
    decode .ctl 0x47000000 0x0 = .ok (.reth ) ∧
    decode .ctl 0x47862800 0x0 = .ok (.fmtw 3 5) ∧
    decode .ctl 0x48062800 0x0 = .ok (.bari 3 5 0 none) ∧
    decode .ctl 0x48862800 0x0 = .ok (.bara 3 5 0 none) ∧
    decode .ctl 0x49060010 0x0 = .ok (.barw 3 1) ∧
    decode .ctl 0x49862800 0x0 = .ok (.semi 3 5 0 none) ∧
    decode .ctl 0x4A062800 0x0 = .ok (.sems 3 5 0 none) ∧
    decode .ctl 0x4A862800 0x0 = .ok (.semw 3 5 0) ∧
    decode .ctl 0x4B062800 0x0 = .ok (.wpw 3 5) ∧
    decode .ctl 0x4B8000B0 0x0 = .ok (.fenceAcq 3) ∧
    decode .ctl 0x4B800130 0x0 = .ok (.fenceRel 3) ∧
    decode .ctl 0x4B8001B0 0x0 = .ok (.fenceFull 3) ∧
    decode .ctl 0x4C000000 0x0 = .ok (.fsc ) ∧
    decode .ctl 0x4C860050 0x0 = .ok (.sysr 3 5) ∧
    decode .ctl 0x4D001850 0x0 = .ok (.sysw 3 5) ∧
    decode .ctl 0x4D8000A0 0x0 = .ok (.brk 10) := by
  refine ⟨?_, ?_, ?_, ?_, ?_, ?_, ?_, ?_, ?_, ?_, ?_, ?_, ?_, ?_, ?_, ?_, ?_, ?_, ?_, ?_, ?_, ?_, ?_, ?_, ?_, ?_, ?_, ?_, ?_, ?_, ?_, ?_⟩ <;> rfl

/-- Words of the UNI slot, written from the fields of spec/opcode_table.json (R59, R60). -/
theorem test_decode_uni :
    decode .uni 0x408628C0 0x0 = .ok (.uniAdd 1 3 5 6) ∧
    decode .uni 0x410628C0 0x0 = .ok (.uniSub 1 3 5 6) ∧
    decode .uni 0x418628C0 0x0 = .ok (.uniAnd 1 3 5 6) ∧
    decode .uni 0x420628C0 0x0 = .ok (.uniOr 1 3 5 6) ∧
    decode .uni 0x428628C0 0x0 = .ok (.uniXor 1 3 5 6) ∧
    decode .uni 0x430628C0 0x0 = .ok (.uniShl 1 3 5 6) ∧
    decode .uni 0x438628C0 0x0 = .ok (.uniShr 1 3 5 6) ∧
    decode .uni 0x440628C0 0x0 = .ok (.uniSra 1 3 5 6) ∧
    decode .uni 0x448628C0 0x0 = .ok (.uniMul 1 3 5 6) ∧
    decode .uni 0x450628D0 0x0 = .ok (.uniMulh 1 3 5 6 1) ∧
    decode .uni 0x458628C0 0x0 = .ok (.uniMin 1 3 5 6) ∧
    decode .uni 0x460628C0 0x0 = .ok (.uniMax 1 3 5 6) ∧
    decode .uni 0x468628C0 0x0 = .ok (.minu 1 3 5 6) ∧
    decode .uni 0x470628C0 0x0 = .ok (.maxu 1 3 5 6) ∧
    decode .uni 0x478628A0 0x0 = .ok (.uniAddi 1 3 5 10 none) ∧
    decode .uni 0x480600A0 0x0 = .ok (.uniLi 1 3 10 none) ∧
    decode .uni 0x480608A0 0x0 = .ok (.uniLiHi 1 3 10 none) ∧
    decode .uni 0x488600A0 0x0 = .ok (.ldp 1 3 10) ∧
    decode .uni 0x49062860 0x0 = .ok (.vote 1 3 5 3) ∧
    decode .uni 0x49860060 0x0 = .ok (.gidx 1 3 6) ∧
    decode .uni 0x4A0600A0 0x0 = .ok (.hld 1 3 10) ∧
    decode .uni 0x4A8628D0 0x0 = .ok (.hget 1 3 5 6 1) ∧
    decode .uni 0x4B0628C0 0x0 = .ok (.hset 1 3 5 6) ∧
    decode .uni 0x4B862800 0x0 = .ok (.hcpy 1 3 5) ∧
    decode .uni 0x4C062800 0x0 = .ok (.hbind 1 3 5) ∧
    decode .uni 0x4C862800 0x0 = .ok (.hval 1 3 5) ∧
    decode .uni 0x4D062800 0x0 = .ok (.uniClz 1 3 5) ∧
    decode .uni 0x4D8628C0 0x0 = .ok (.uniSel 1 3 5 6) := by
  refine ⟨?_, ?_, ?_, ?_, ?_, ?_, ?_, ?_, ?_, ?_, ?_, ?_, ?_, ?_, ?_, ?_, ?_, ?_, ?_, ?_, ?_, ?_, ?_, ?_, ?_, ?_, ?_, ?_⟩ <;> rfl

/-- Words of the ADR slot, written from the fields of spec/opcode_table.json (R59, R60). -/
theorem test_decode_adr :
    decode .adr 0x608628C2 0x0 = .ok (.adrAdd ⟨1, 1, 2⟩ 3 5 6) ∧
    decode .adr 0x610628C2 0x0 = .ok (.adrSub ⟨1, 1, 2⟩ 3 5 6) ∧
    decode .adr 0x618628C2 0x0 = .ok (.adrAnd ⟨1, 1, 2⟩ 3 5 6) ∧
    decode .adr 0x620628C2 0x0 = .ok (.adrOr ⟨1, 1, 2⟩ 3 5 6) ∧
    decode .adr 0x628628C2 0x0 = .ok (.adrXor ⟨1, 1, 2⟩ 3 5 6) ∧
    decode .adr 0x630628C2 0x0 = .ok (.adrShl ⟨1, 1, 2⟩ 3 5 6) ∧
    decode .adr 0x638628C2 0x0 = .ok (.adrShr ⟨1, 1, 2⟩ 3 5 6) ∧
    decode .adr 0x640628C2 0x0 = .ok (.adrSra ⟨1, 1, 2⟩ 3 5 6) ∧
    decode .adr 0x648628C2 0x0 = .ok (.adrMul ⟨1, 1, 2⟩ 3 5 6) ∧
    decode .adr 0x650628D2 0x0 = .ok (.adrMulh ⟨1, 1, 2⟩ 3 5 6 1) ∧
    decode .adr 0x658628D2 0x0 = .ok (.adrMin ⟨1, 1, 2⟩ 3 5 6 1) ∧
    decode .adr 0x660628D2 0x0 = .ok (.adrMax ⟨1, 1, 2⟩ 3 5 6 1) ∧
    decode .adr 0x668628A2 0x0 = .ok (.adrAddi ⟨1, 1, 2⟩ 3 5 10 none) ∧
    decode .adr 0x670600A2 0x0 = .ok (.adrLi ⟨1, 1, 2⟩ 3 10 none) ∧
    decode .adr 0x670608A2 0x0 = .ok (.adrLiHi ⟨1, 1, 2⟩ 3 10 none) ∧
    decode .adr 0x67B630F2 0x0 = .ok (.cmp ⟨1, 1, 2⟩ 3 3 6 7 1) ∧
    decode .adr 0x683630E2 0x0 = .ok (.plog ⟨1, 1, 2⟩ 3 3 6 7) ∧
    decode .adr 0x688628C2 0x0 = .ok (.adrSel ⟨1, 1, 2⟩ 3 5 6) ∧
    decode .adr 0x69062812 0x0 = .ok (.adrClz ⟨1, 1, 2⟩ 3 5 1) ∧
    decode .adr 0x69862812 0x0 = .ok (.popc ⟨1, 1, 2⟩ 3 5 1) ∧
    decode .adr 0x6A10A332 0x0 = .ok (.tadr ⟨1, 1, 2⟩ 2 5 6 3) ∧
    decode .adr 0x6A862A52 0x0 = .ok (.ld ⟨1, 1, 2⟩ 3 5 9 1 none) ∧
    decode .adr 0x6B062A52 0x0 = .ok (.st ⟨1, 1, 2⟩ 3 5 9 1 none) ∧
    decode .adr 0xEB862A52 0x50000040 = .ok (.ldr ⟨1, 1, 2⟩ 3 5 9 1 0x50000040) ∧
    decode .adr 0x6C062A52 0x0 = .ok (.str ⟨1, 1, 2⟩ 3 5 9 1 none) ∧
    decode .adr 0x6C8628B2 0x0 = .ok (.amo ⟨1, 1, 2⟩ 3 5 2 1 none) ∧
    decode .adr 0xED062CB2 0x50000040 = .ok (.amor ⟨1, 1, 2⟩ 3 5 1 2 1 0x50000040) ∧
    decode .adr 0x6D801852 0x0 = .ok (.ownEng ⟨1, 1, 2⟩ 3 5) ∧
    decode .adr 0x6D801C52 0x0 = .ok (.ownThr ⟨1, 1, 2⟩ 3 5) ∧
    decode .adr 0x6E060062 0x0 = .ok (.wpr ⟨1, 1, 2⟩ 3 6) ∧
    decode .adr 0x6E862A72 0x0 = .ok (.ljoin ⟨1, 1, 2⟩ 3 5 9 none) ∧
    decode .adr 0x6E862A62 0x0 = .ok (.ljoinSc ⟨1, 1, 2⟩ 3 5 9 none) ∧
    decode .adr 0x6F062A72 0x0 = .ok (.lstm ⟨1, 1, 2⟩ 3 5 9 none) ∧
    decode .adr 0x6F862A72 0x0 = .ok (.linc ⟨1, 1, 2⟩ 3 5 9 none) ∧
    decode .adr 0xF0062A72 0x500008 = .ok (.lld ⟨1, 1, 2⟩ 3 5 9 0x500008) ∧
    decode .adr 0xF0862A72 0x50500008 = .ok (.lwait ⟨1, 1, 2⟩ 3 5 9 0x50500008) := by
  refine ⟨?_, ?_, ?_, ?_, ?_, ?_, ?_, ?_, ?_, ?_, ?_, ?_, ?_, ?_, ?_, ?_, ?_, ?_, ?_, ?_, ?_, ?_, ?_, ?_, ?_, ?_, ?_, ?_, ?_, ?_, ?_, ?_, ?_, ?_, ?_, ?_⟩ <;> rfl

/-- Words of the VEC slot, written from the fields of spec/opcode_table.json (R59, R60). -/
theorem test_decode_vec :
    decode .vec 0x608628D2 0x0 = .ok (.vadd ⟨1, 1, 2⟩ 3 5 6 1) ∧
    decode .vec 0x610628D2 0x0 = .ok (.vsub ⟨1, 1, 2⟩ 3 5 6 1) ∧
    decode .vec 0x618628D2 0x0 = .ok (.vmul ⟨1, 1, 2⟩ 3 5 6 1) ∧
    decode .vec 0x620628D2 0x0 = .ok (.vfma ⟨1, 1, 2⟩ 3 5 6 1) ∧
    decode .vec 0x628628D2 0x0 = .ok (.vfms ⟨1, 1, 2⟩ 3 5 6 1) ∧
    decode .vec 0x630628C2 0x0 = .ok (.vmin ⟨1, 1, 2⟩ 3 5 6) ∧
    decode .vec 0x638628C2 0x0 = .ok (.vmax ⟨1, 1, 2⟩ 3 5 6) ∧
    decode .vec 0x64062812 0x0 = .ok (.vabs ⟨1, 1, 2⟩ 3 5 1) ∧
    decode .vec 0x64862812 0x0 = .ok (.vneg ⟨1, 1, 2⟩ 3 5 1) ∧
    decode .vec 0x650628C2 0x0 = .ok (.vand ⟨1, 1, 2⟩ 3 5 6) ∧
    decode .vec 0x658628C2 0x0 = .ok (.vor ⟨1, 1, 2⟩ 3 5 6) ∧
    decode .vec 0x660628C2 0x0 = .ok (.vxor ⟨1, 1, 2⟩ 3 5 6) ∧
    decode .vec 0x66862802 0x0 = .ok (.vnot ⟨1, 1, 2⟩ 3 5) ∧
    decode .vec 0x670628D2 0x0 = .ok (.vshl ⟨1, 1, 2⟩ 3 5 6 1) ∧
    decode .vec 0x678628D2 0x0 = .ok (.vshr ⟨1, 1, 2⟩ 3 5 6 1) ∧
    decode .vec 0x680628D2 0x0 = .ok (.vsra ⟨1, 1, 2⟩ 3 5 6 1) ∧
    decode .vec 0x688628C2 0x0 = .ok (.vsel ⟨1, 1, 2⟩ 3 5 6) ∧
    decode .vec 0xE9062802 0x7AC = .ok (.vcvt ⟨1, 1, 2⟩ 3 5 0x7AC) ∧
    decode .vec 0x69862882 0x0 = .ok (.vred ⟨1, 1, 2⟩ 3 5 4) ∧
    decode .vec 0x6A062842 0x0 = .ok (.vscan ⟨1, 1, 2⟩ 3 5 2) ∧
    decode .vec 0x6A8628D2 0x0 = .ok (.vperm ⟨1, 1, 2⟩ 3 5 6 1) ∧
    decode .vec 0x6B062802 0x0 = .ok (.vbcst ⟨1, 1, 2⟩ 3 5) ∧
    decode .vec 0x6B0628D2 0x0 = .ok (.vbcstLane ⟨1, 1, 2⟩ 3 5 6) ∧
    decode .vec 0x6B862812 0x0 = .ok (.viota ⟨1, 1, 2⟩ 3 5 1) ∧
    decode .vec 0x6C062802 0x0 = .ok (.vrcp ⟨1, 1, 2⟩ 3 5) ∧
    decode .vec 0x6C862802 0x0 = .ok (.vrsq ⟨1, 1, 2⟩ 3 5) ∧
    decode .vec 0x6D062802 0x0 = .ok (.vexp2 ⟨1, 1, 2⟩ 3 5) ∧
    decode .vec 0x6D862802 0x0 = .ok (.vlog2 ⟨1, 1, 2⟩ 3 5) ∧
    decode .vec 0x6E062802 0x0 = .ok (.vmov ⟨1, 1, 2⟩ 3 5) ∧
    decode .vec 0x6EB830E2 0x0 = .ok (.mspush ⟨1, 1, 2⟩ 3 1 6 7) ∧
    decode .vec 0x6E801812 0x0 = .ok (.mspushScalar ⟨1, 1, 2⟩ 3) ∧
    decode .vec 0x6F000002 0x0 = .ok (.msinv ⟨1, 1, 2⟩) ∧
    decode .vec 0x6F800002 0x0 = .ok (.mspop ⟨1, 1, 2⟩) ∧
    decode .vec 0x703830E2 0x0 = .ok (.msand ⟨1, 1, 2⟩ 3 1 6 7) ∧
    decode .vec 0x70001812 0x0 = .ok (.msandScalar ⟨1, 1, 2⟩ 3) ∧
    decode .vec 0x70860002 0x0 = .ok (.vpopc ⟨1, 1, 2⟩ 3) ∧
    decode .vec 0x70862812 0x0 = .ok (.vpopcLanes ⟨1, 1, 2⟩ 3 5) ∧
    decode .vec 0x71062822 0x0 = .ok (.vact ⟨1, 1, 2⟩ 3 5 1) := by
  refine ⟨?_, ?_, ?_, ?_, ?_, ?_, ?_, ?_, ?_, ?_, ?_, ?_, ?_, ?_, ?_, ?_, ?_, ?_, ?_, ?_, ?_, ?_, ?_, ?_, ?_, ?_, ?_, ?_, ?_, ?_, ?_, ?_, ?_, ?_, ?_, ?_, ?_, ?_⟩ <;> rfl

/-- Words of the VLS slot, written from the fields of spec/opcode_table.json (R59, R60). -/
theorem test_decode_vls :
    decode .vls 0x60862A52 0x0 = .ok (.vld ⟨1, 1, 2⟩ 3 5 9 1 none) ∧
    decode .vls 0x61062A52 0x0 = .ok (.vst ⟨1, 1, 2⟩ 3 5 9 1 none) ∧
    decode .vls 0xE1862A52 0x400008 = .ok (.vlds ⟨1, 1, 2⟩ 3 5 9 1 0x400008) ∧
    decode .vls 0xE2062A52 0x400008 = .ok (.vsts ⟨1, 1, 2⟩ 3 5 9 1 0x400008) ∧
    decode .vls 0x628628D2 0x0 = .ok (.vgth ⟨1, 1, 2⟩ 3 5 6 1) ∧
    decode .vls 0x630628D2 0x0 = .ok (.vsct ⟨1, 1, 2⟩ 3 5 6 1) ∧
    decode .vls 0xE3862A52 0x50000040 = .ok (.vldr ⟨1, 1, 2⟩ 3 5 9 1 0x50000040) ∧
    decode .vls 0x64062A52 0x0 = .ok (.vstr ⟨1, 1, 2⟩ 3 5 9 1 none) ∧
    decode .vls 0x648628C2 0x0 = .ok (.vxs ⟨1, 1, 2⟩ 3 5 6) ∧
    decode .vls 0x650628C2 0x0 = .ok (.vsx ⟨1, 1, 2⟩ 3 5 6) ∧
    decode .vls 0x65862A52 0x0 = .ok (.vldx ⟨1, 1, 2⟩ 3 5 9 none) ∧
    decode .vls 0x660628D2 0x0 = .ok (.vtrp ⟨1, 1, 2⟩ 3 5 6 1) := by
  refine ⟨?_, ?_, ?_, ?_, ?_, ?_, ?_, ?_, ?_, ?_, ?_, ?_⟩ <;> rfl

/-- Words of the MAT slot, written from the fields of spec/opcode_table.json (R59, R60). -/
theorem test_decode_mat :
    decode .mat 0x60818AE2 0x0 = .ok (.mpush ⟨1, 1, 2⟩ 3 5 1 1 1 none) ∧
    decode .mat 0x61228D62 0x0 = .ok (.mshift ⟨1, 1, 2⟩ 1 5 6 1 0 1 1 none) ∧
    decode .mat 0x61A280C2 0x0 = .ok (.macc ⟨1, 1, 2⟩ 1 5 0 0 1 1 0 none) ∧
    decode .mat 0x622280C2 0x0 = .ok (.macs ⟨1, 1, 2⟩ 1 5 0 0 1 1 0 none) ∧
    decode .mat 0x62A28102 0x0 = .ok (.mdrain ⟨1, 1, 2⟩ 1 5 1 none) ∧
    decode .mat 0x63200002 0x0 = .ok (.mclr ⟨1, 1, 2⟩ 1) ∧
    decode .mat 0x63818102 0x0 = .ok (.mbmap ⟨1, 1, 2⟩ 3 1) ∧
    decode .mat 0x64200002 0x0 = .ok (.mchk ⟨1, 1, 2⟩ 1) ∧
    decode .mat 0x64A28C02 0x0 = .ok (.mfix ⟨1, 1, 2⟩ 1 5 6) ∧
    decode .mat 0x65228402 0x0 = .ok (.mstat ⟨1, 1, 2⟩ 1 5 2) := by
  refine ⟨?_, ?_, ?_, ?_, ?_, ?_, ?_, ?_, ?_, ?_⟩ <;> rfl

/-- Words of the EXP slot, written from the fields of spec/opcode_table.json (R59, R60). -/
theorem test_decode_exp :
    decode .exp 0x608018A2 0x0 = .ok (.xadd ⟨1, 1, 2⟩ 3 10) ∧
    decode .exp 0x61001A52 0x0 = .ok (.xlds ⟨1, 1, 2⟩ 3 9 none) ∧
    decode .exp 0x61800000 0x0 = .ok (.xclr 1 1) := by
  refine ⟨?_, ?_, ?_⟩ <;> rfl

/-- Words of the XFR slot, written from the fields of spec/opcode_table.json (R59, R60). -/
theorem test_decode_xfr :
    decode .xfr 0x6090A332 0x0 = .ok (.cpyi ⟨1, 1, 2⟩ 2 5 6 3 none) ∧
    decode .xfr 0x6110A332 0x0 = .ok (.cpyo ⟨1, 1, 2⟩ 2 5 6 3 none) ∧
    decode .xfr 0x6190A332 0x0 = .ok (.cpys ⟨1, 1, 2⟩ 2 5 6 3 none) ∧
    decode .xfr 0x6210A332 0x0 = .ok (.cpyx ⟨1, 1, 2⟩ 2 5 6 3 none) ∧
    decode .xfr 0x6290A332 0x0 = .ok (.cpyr ⟨1, 1, 2⟩ 2 5 6 3 none) ∧
    decode .xfr 0x6310A332 0x0 = .ok (.cpyl ⟨1, 1, 2⟩ 2 5 6 3 none) ∧
    decode .xfr 0x638062B2 0x0 = .ok (.cpyk ⟨1, 1, 2⟩ 3 5 3) ∧
    decode .xfr 0x6408A332 0x0 = .ok (.rrot ⟨1, 1, 2⟩ 1 5 6 3 none) ∧
    decode .xfr 0x6490A332 0x0 = .ok (.mcst ⟨1, 1, 2⟩ 2 5 6 3 none) ∧
    decode .xfr 0x6510A332 0x0 = .ok (.route ⟨1, 1, 2⟩ 2 5 6 3 none) ∧
    decode .xfr 0x6590A332 0x0 = .ok (.a2av ⟨1, 1, 2⟩ 2 5 6 3 none) ∧
    decode .xfr 0x6610A332 0x0 = .ok (.ared ⟨1, 1, 2⟩ 2 5 6 3 none) ∧
    decode .xfr 0x6690A332 0x0 = .ok (.agth ⟨1, 1, 2⟩ 2 5 6 3 none) ∧
    decode .xfr 0x6710A332 0x0 = .ok (.sendo ⟨1, 1, 2⟩ 2 5 6 3 none) ∧
    decode .xfr 0x67800182 0x0 = .ok (.rngs ⟨1, 1, 2⟩ 3) := by
  refine ⟨?_, ?_, ?_, ?_, ?_, ?_, ?_, ?_, ?_, ?_, ?_, ?_, ?_, ?_, ?_⟩ <;> rfl

/-! ### States that meet the hypotheses of the statements -/

/-- A gang of one seat at its first execution, and its seat with the whole of a tile. -/
def gang1 : Gang := Gang.bare [] (Vector.replicate 8 Standing.nop)
def seat1 : Seat := Seat.bare gang1 [0, 512]

/-- Its open execution at slot n of a seat x, and of a sequencer y. -/
def atSeat (n : Nat) (x : Seat) : State :=
  { State.reset with gangs := [gang1], seats := [x], cursor := some (.seat 0 n x) }
def atSeqr (n : Nat) (y : Gang) (x : Seat := seat1) : State :=
  { State.reset with gangs := [y], seats := [x], cursor := some (.seqr 0 n y) }
/-- Between executions. -/
def idle (x : Seat) (y : Gang := gang1) : State := { State.reset with gangs := [y], seats := [x] }

def checked (x : Seat) : Seat := { x with sys := { x.sys with chk := true } }
def withS (x : Seat) (d : Nat) (v : Word64) : Seat := { x with regs := { x.regs with s := x.regs.s.setIfInBounds d v } }
def level1 : LoopLevel := { index := 3, limit := 5, entry := 0, kind := 1, trips := 9, first := 0, last := 4 }
def gLand : SeqLanding := { due := 9, slot := 1, pc := 2, eff := .gReg 31 7 }
def sLand : Landing := { due := 9, slot := 2, pc := 5, issued := 5, eff := .sReg 31 7 }

/-- SequencerReads: G31 with checking off, on with nothing on its way, on with a result on its way; the sixth loop level. -/
theorem test_witness_sequencer_reads :
    (31 : RField).toNat < 32 ∧ (31 : RField) ≠ 0 ∧ (atSeqr 1 gang1).checker gang1 = false ∧ gang1.landings = [] ∧
    (atSeqr 1 gang1 (checked seat1)).checker { gang1 with landings := [gLand] } = true ∧ gLand.eff = .gReg 31 7 ∧
    (45 : RField).toNat = 40 + 5 ∧ ({ gang1 with loops := [level1] } : Gang).loops.reverse[0]? = some level1 ∧
    gang1.loops.length ≤ 5 := by decide

/-- Statements about a sequencer slot: UniArithmetic, UniImmediatesAndFacts, UniShapes, Vote, Branches, EndTrapAndHandlers. -/
theorem test_witness_sequencer_slot :
    (atSeqr 1 gang1).InSeqr 0 1 gang1 gang1 ∧ (atSeqr 0 gang1).InSeqr 0 0 gang1 gang1 ∧
    ((atSeqr 1 gang1).sctx 1 gang1 gang1).src 31 = .ok 0 ∧ ((atSeqr 1 gang1).sctx 1 gang1 gang1).src 45 = .ok 0 ∧
    ((atSeqr 0 gang1).sctx 0 gang1 gang1).voteVal = .ok 0 ∧ ((atSeqr 1 gang1).sctx 1 gang1 gang1).hsrc 15 = .ok 0 ∧
    gang1.level = false ∧ { gang1 with level := true }.level = true ∧ gang1.landings = [] :=
  ⟨⟨rfl, rfl⟩, ⟨rfl, rfl⟩, rfl, rfl, rfl, rfl, rfl, rfl, rfl⟩

/-- Clauses of UniImmediatesAndFacts, UniShapes and Branches: the immediates, conditions and leading zeros at their ends. -/
theorem test_witness_uni_operands :
    IsImmediate 0 (some 0x80000000) 0xFFFFFFFF80000000 ∧ IsImmediate 64 none 0xFFFFFFFFFFFFFFC0 ∧ IsClz 64 0 64 ∧
    IsClz 64 (2 ^ 63) 0 ∧ IsClz 32 1 31 ∧ CondHolds 2 0x8000000000000000 0 ∧ CondHolds 4 0 0x8000000000000000 ∧ CondHolds 0 5 5 ∧ CondHolds 1 5 6 ∧
    CondHolds 3 0 0 ∧ CondHolds 5 0 0 ∧ IsTarget 64 0x40 none 0 ∧ IsTarget 7 0 (some 0x00FFFFFF) 0xFFFFFF ∧
    IsTarget 0 0x7F none (2 ^ 64 - 1) ∧ IsTarget 2 0x7B none (2 ^ 64 - 3) := by
  simp [IsImmediate, IsClz, CondHolds, IsTarget]

/-- A loop table entry: bundles 1 to 4, C-spatial, nine indices (R101). -/
def loopWord : BitVec 128 := BitVec.ofNat 128 (1 + 4 * 2 ^ 32 + 2 ^ 56 + 9 * 2 ^ 96)

/-- A kernel with parameters, tensors, a descriptor table and a loop entry (R101, R347). -/
def gang2 : Gang := { gang1 with
  params := [5], tensors := [0x10], loops := [level1]
  kernel := { gang1.kernel with loopTab := [0, loopWord], descSlots := 1, descVa := 0x1000, bundles := 8 } }


/-- R101, R103: a C-spatial level of nine indices over one member takes nine rounds; Loops: entry 1 is good, entry 0 is
not, entry 2 is none; a sixth level has room and a seventh has not; LBRK 1 of one level and of none. -/
theorem test_witness_loops : (atSeqr 0 gang2).InSeqr 0 0 gang2 gang2 ∧ 0 < gang2.c ∧ 0 < gang2.d ∧
    gang2.kernel.loopTab[(1 : BitVec 6).toNat]? = some loopWord ∧ (loopEntry loopWord).ok gang2 = true ∧ gang2.loops.length < 6 ∧
    ((atSeqr 0 gang2).sctx 0 gang2 gang2).trips (loopEntry loopWord) = .ok 9 ∧
    gang2.kernel.loopTab[(0 : BitVec 6).toNat]? = some 0 ∧ (loopEntry 0).ok gang2 = false ∧ gang2.kernel.loopTab[2]? = none ∧
    (let g := { gang2 with loops := List.replicate 6 level1 }; (loopEntry loopWord).ok g = true ∧ 6 ≤ g.loops.length) ∧
    gang1.loops.length < (1 : BitVec 3).toNat ∧ gang2.loops[(1 : BitVec 3).toNat - 1]? = some level1 :=
  ⟨⟨rfl, rfl⟩, by decide, by decide, rfl, by decide, by decide, rfl, rfl, by decide, rfl, by decide, by decide, rfl⟩

/-- A device with one die pair in service, the first 2 GiB of its memory mapped, and an open access entry for seat 0. -/
def mapped (s : State) : State := { s with
  diepres := 1, pages := [{ va := 0, pa := 0, size := 3, r := true, w := true, et := false, disc := false, pend := false, lease := 10 }]
  access := (seatMasters 0).map fun m => { target := none, master := m, w := true, r := true } }

/-- UniShapes: a record and none, handle 0 beyond the table, refused, not valid, and valid with generation 0. -/
theorem test_witness_shapes :
    (atSeqr 1 gang2).InSeqr 0 1 gang2 gang2 ∧ gang2.tensors[(0 : BitVec 7).toNat]? = some 0x10 ∧
    gang2.tensors.length ≤ (1 : BitVec 7).toNat ∧ gang2.params[0]? = some 5 ∧ gang2.params.length ≤ 63 ∧ gang1.kernel.descSlots ≤ 0 ∧
    0 < gang2.kernel.descSlots ∧ (atSeqr 1 gang2).readNat 0 0x1000 64 = .error 0x10 ∧
    (mapped (atSeqr 1 gang2)).readNat 0 0x1000 64 = .ok 0 ∧
    (let s := { mapped (atSeqr 1 gang2) with hbm := [(0x103D, 0x10)] }
     s.readNat 0 0x1000 64 = .ok (0x1000 * 2 ^ 240 * 2 ^ 240)) :=
  ⟨⟨rfl, rfl⟩, rfl, by decide, rfl, by decide, by decide, by decide, rfl, rfl, rfl⟩

/-- R116: SequencerResultsLand, DelayBundles, IterationEnds: nothing on its way; a branch leaves two delay bundles. -/
theorem test_witness_sequencer_time :
    gang1.landings = [] ∧ (gang1.item.last = true) ∧ level1.last = 4 ∧ level1.index + 1 < level1.limit ∧
    (let d : Delay := { remain := 2, taken := true, target := 7, branch := 0, reth := false }
     d.reth = false ∧ ({ gang1 with flow := .branch d } : Gang).flow = .branch d ∧ d.remain = 2 ∧ { d with remain := 1 }.remain = 1) ∧
    ({ gang1 with flow := .goto 5 false } : Gang).flow = .goto 5 false := by
  refine ⟨rfl, rfl, rfl, by decide, ⟨rfl, rfl, rfl, rfl⟩, rfl⟩

def item1 : Item := gang1.item

/-- Vote: a pending vote, and a member at the blocking bundle. -/
theorem test_witness_vote : ({ gang1 with votePend := some (3, 5, 2) } : Gang).votePend = some (3, (5 : RField), 2) ∧
    (∀ x ∈ (atSeqr 1 gang1).seats, x.gang = gang1.id → ∃ i q, x.queue = .exec i :: q) := by
  refine ⟨rfl, ?_⟩
  intro x hx _
  rw [List.mem_singleton.mp hx]
  exact ⟨item1, [], rfl⟩

/-- TileReads: S31 with nothing on its way, and with a result on its way under CHKCTL; G7's mirror; the sixth loop level;
DIEID and COREID; P7. -/
theorem test_witness_tile_reads :
    (31 : RField).toNat < 32 ∧ seat1.sys.chk = false ∧ seat1.landings = [] ∧ (checked seat1).sys.chk = true ∧
    ({ checked seat1 with landings := [sLand] } : Seat).landings = [sLand] ∧ sLand.eff = .sReg 31 7 ∧
    (39 : RField).toNat = 32 + 7 ∧ seat1.cur = some item1 ∧
    ({ item1 with pendG := [(7, 2)] } : Item).pendG = [(7, 2)] ∧ (45 : RField).toNat = 40 + 5 ∧
    ({ seat1 with cur := some { item1 with loops := [level1] } } : Seat).levels.reverse[0]? = some level1 ∧ seat1.levels.length ≤ 5 ∧
    (46 : RField).toNat = 46 ∧ (47 : RField).toNat = 47 ∧ (15 : BitVec 4).toNat % 8 ≠ 0 :=
  ⟨by decide, rfl, rfl, rfl, rfl, rfl, rfl, rfl, rfl, rfl, rfl, by decide, rfl, rfl, by decide⟩

/-- Statements about an operation that takes effect at a seat: slots 0 and 2 to 7 stand open, with and without an arrival. -/
theorem test_witness_seat_slot : (∀ n, (atSeat n seat1).InSeat 0 n seat1 seat1) ∧
    (∀ n, n < 8 → (atSeat n seat1).Runs 0 n seat1 seat1 tagA) ∧ (atSeat 7 seat1).Runs 0 7 seat1 seat1 { tagA with r := 1 } ∧
    seat1.suppressed = false ∧ seat1.src 31 = .ok 0 ∧ seat1.src 47 = .ok 0 ∧ seat1.vsrc 31 = .ok 0 ∧ seat1.hsrc 15 = .ok 0 ∧
    seat1.pred 7 = .ok false ∧ seat1.PadsWf ∧ seat1.Quiet ∧ seat1.id = 0 :=
  ⟨fun _ => ⟨rfl, rfl⟩, fun _ _ => ⟨⟨rfl, rfl⟩, rfl, rfl, by simp [tagA]⟩, ⟨⟨rfl, rfl⟩, rfl, rfl, fun _ => by decide⟩,
    rfl, rfl, rfl, rfl, rfl, rfl, rfl, .inl rfl, rfl⟩

/-- A record of R138: element code, PACK, rows and columns of a block, grid and mapping. -/
def record (code block grid : Nat) : HReg := BitVec.ofNat 512 (code * 2 ^ 64 + block * 2 ^ 160 * 2 ^ 160 + grid * 2 ^ 176 * 2 ^ 176)
def withH (x : Seat) (h : HReg) : Seat := { x with cur := some { item1 with h := Vector.replicate 16 h } }

/-- BlockPlacement: a reserved element code; no rows; local; cyclic on the gang's one die pair. -/
theorem test_witness_block_placement :
    (∀ h, (atSeat 2 (withH seat1 h)).Runs 0 2 (withH seat1 h) (withH seat1 h) tagA ∧ (withH seat1 h).src 31 = .ok 0) ∧
    (∀ h, (withH seat1 h).hsrc (2 : BitVec 4).toNat = .ok h) ∧
    (hField (record 0xF 0 0) 2).toNat % 16 = 0xF ∧ (hField (record 0xA 0x10000 0) 10).toNat % 2 ^ 16 = 0 ∧
    (hField (record 0xA 0x10001 0) 11).toNat / 2 ^ 16 % 2 ^ 8 = 0 ∧
    (hField (record 0xA 0x10001 0x10000) 11).toNat / 2 ^ 16 % 2 ^ 8 = 1 ∧ seat1.cfg.d = 1 ∧ seat1.cfg.dieMask.getLsbD 0 = true := by
  refine ⟨fun h => ⟨⟨⟨rfl, rfl⟩, rfl, rfl, by simp [tagA]⟩, rfl⟩, fun h => rfl, ?_⟩
  decide +kernel

/-- SuppressedAndPredicated: a skipping seat, a barrier the seat does not have, a false predicate, one on its way. -/
theorem test_witness_predicated :
    (Instr.tag (.adrAdd tagA 1 2 3) = some tagA ∧ (Instr.adrAdd tagA 1 2 3).holdsBeat = false) ∧
    ({ seat1 with skipLevel := 1 } : Seat).suppressed = true ∧
    (let x := { seat1 with sync := { seat1.sync with bars := [] } }
     x.suppressed = false ∧ x.sync.bars.length ≤ (x.slotBar 2).toNat) ∧
    seat1.predField 8 = .ok false ∧
    (let x : Seat := { checked seat1 with landings := [{ sLand with eff := .pReg 7 true }] }
     x.predField 7 = .error { cause := 0x05, addr := 0, ppc := 5, pslot := 2 }) :=
  ⟨⟨rfl, rfl⟩, rfl, ⟨rfl, by decide⟩, rfl, rfl⟩

/-- SeatControl, SystemRegisterReads, SystemRegisterWrites: depths 0, 7 and 8; FMTW of a good and of a reserved value; the
ranges of the identity registers, and an armed flip of bit 71 of bank 3. -/
theorem test_witness_seat_control :
    (atSeat 0 seat1).InSeat 0 0 seat1 seat1 ∧ seat1.suppressed = false ∧ seat1.skipDepth < 8 ∧
    8 ≤ ({ seat1 with skipDepth := 8 } : Seat).skipDepth ∧ 0 < ({ seat1 with skipDepth := 1 } : Seat).skipDepth ∧
    (withS seat1 6 0xC0AAC).src 6 = .ok 0xC0AAC ∧ (withS seat1 6 0xF).src 6 = .ok 0xF ∧ seat1.prio < 8 ∧
    seat1.cfg.seqDie < 8 ∧ seat1.cfg.d ≤ 8 ∧ seat1.e < 8 ∧ seat1.cfg.c ≤ 64 ∧ seat1.m < 64 ∧ seat1.cfg.seqNum < 32 ∧
    seat1.sync.wheelCnt < 2 ^ 10 ∧ seat1.sync.wheelStride < 2 ^ 10 ∧ seat1.sync.wheelFirst < 2 ^ 9 ∧
    (let v : Word64 := 0x1C0FC47
     v.getLsbD 24 = true ∧ v.toNat % 2 ^ 7 < 72 ∧ v.toNat / 2 ^ 22 % 4 < seat1.mat.banks.length) ∧
    (0x1000048 : Word64).getLsbD 24 = true ∧ 72 ≤ (0x1000048 : Word64).toNat % 2 ^ 7 ∧ 0x14 ≤ (0x14 : BitVec 6).toNat :=
  ⟨⟨rfl, rfl⟩, rfl, by decide, by decide, by decide, rfl, rfl, by decide, by decide, by decide, by decide, by decide, by decide,
    by decide, by decide, by decide, by decide, by decide, by decide, by decide, by decide⟩

/-- FaultsLeaveNoEffect, ResultsLand. -/
theorem test_witness_fault : seat1.cur = some item1 ∧ (0x0A : Nat) ≠ 0 ∧ seat1.landings = [] := ⟨rfl, by decide, rfl⟩

def uniWord : Word32 := 0x008628C0

/-- StandingOperations: a word that stands, a NOP word, no word; with and without CLR; a one-shot operation. -/
theorem test_witness_standing :
    wordAt [(1, uniWord, 0)] 1 = some (uniWord, 0) ∧ uniWord.extractLsb' 23 6 ≠ 0 ∧ wordAt [(1, 0, 0)] 1 = some (0, 0) ∧
    wordAt [] 1 = none ∧ (0x400 : Word32).getLsbD 10 = true ∧ (0 : Word32).getLsbD 10 = false := by decide

/-- A gang before bundle 0 of a program that is one bundle without slots, and one past its program's end. -/
def gang3 : Gang := { gang1 with reps := 0, kernel := { gang1.kernel with mapVa := 0x100, codeWords := 1, bundles := 1 } }

/-- StreamGoesOn: the bundle is fetched and sent; past the end of the program the fetch fails; a waiting gang. -/
theorem test_witness_stream : let s := mapped (idle { seat1 with queue := [] } gang3)
    s.gang? 0 = some gang3 ∧ s.cursor = none ∧ gang3.sends = true ∧ gang3.settle.reps = 0 ∧
    s.fetch gang3.settle = .ok (0, [], 1) ∧ gang3.settle.rep < 1 ∧
    s.room gang3.settle.arrived ((1 - gang3.settle.rep) * Header.cycles 0) = true ∧
    (let y := { gang3 with pc := 1 }; y.sends = true ∧ y.settle.reps = 0 ∧ s.fetch y.settle = .error (trapAt 0x1B 0, 0)) ∧
    (let y := { gang1 with waiting := true }
     let x := { seat1 with queue := [.exec { item1 with blocking := true }] }
     y.waiting = true ∧ y.seqTrap = none ∧ (∀ z ∈ (idle x y).seats, z.gang = 0 → z.waitsDone y.serial = true)) := by
  refine ⟨rfl, rfl, rfl, rfl, rfl, by decide, by decide, ⟨rfl, rfl, rfl⟩, rfl, rfl, ?_⟩
  intro z hz _
  rw [List.mem_singleton.mp hz]
  decide

/-- ExecutionsBegin: a bundle on its way to a seat, and a ready seat with an execution at its queue's head. -/
theorem test_witness_execution : let x := { seat1 with prepared := false, transit := [.exec item1] }
    let s := idle x
    s.seat? 0 = some x ∧ x.id = 0 ∧ x.transit = [.exec item1] ∧ s.cursor = none ∧ x.run = .run ∧ x.started = true ∧
    x.queue = [.exec item1] ∧ item1.first = true ∧ item1.blocking = false ∧ s.heldBack x item1 = false ∧ s.maySlot x = true ∧
    x.prepared = false ∧ item1.decodeFault = none ∧ x.sys.fiLatch.getLsbD 31 = false ∧
    (let z := ({ x.catchUp with cur := some item1, sync := { x.catchUp.sync with acq := false } } : Seat).prepare item1
     z.dead = false ∧ z.voteFault = none ∧ z.scWanted = 0) := by
  refine ⟨rfl, rfl, rfl, rfl, rfl, rfl, rfl, rfl, rfl, by decide, by decide, rfl, rfl, rfl, by decide, by decide, by decide⟩

/-- Replays: the commit of an execution, and one whose VADD under a float VT the skinks check. -/
theorem test_witness_replay :
    (atSeat 8 seat1).cursor = some (.seat 0 8 seat1) ∧ seat1.id = 0 ∧ seat1.replayed = false ∧
    (let x := { seat1 with standing := seat1.standing.set 3 { word := 0x00800000, lit := 0, bar := 0, acc := 0 } }
     x.skinks = true ∧ x.skinked = false ∧ { x with skinked := true }.skinks = true) := by
  refine ⟨rfl, rfl, rfl, by decide, rfl, by decide⟩

/-- TimedEffects: each kind of landing due, a due FMT write, room in the generator's queue, a flip due at its cycle. -/
theorem test_witness_timed :
    (let x := { seat1 with landings := [{ sLand with due := 0 }] }
     (idle x).seat? 0 = some x ∧ (idle x).cursor = none ∧ x.landings = [{ sLand with due := 0 }] ∧ 0 ≤ x.cycle ∧
     x.frozen = false ∧ x.sys.fiPend = none) ∧
    seat1.sync.bars[15]? = some { x := 0, n := 0, b := 0 } ∧
    (let x := { seat1 with prepared := false, regs := { seat1.regs with fmtPend := [(0xC0AAC, 0)] } }
     x.prepared = false ∧ x.regs.fmtPend = [(0xC0AAC, 0)] ++ []) ∧
    seat1.regs.rbq.length < 16 ∧
    (let x := { seat1 with sys := { seat1.sys with fiPend := some (0x1C0FC47, 0) } }
     x.sys.fiPend = some (0x1C0FC47, 0) ∧ 0 ≤ x.cycle ∧ (∀ l ∈ x.landings, 0 < l.due) ∧ x.mat.banks.length = 4) := by
  refine ⟨⟨rfl, rfl, rfl, by decide, rfl, rfl⟩, rfl, ⟨rfl, rfl⟩, by decide, rfl, by decide, by decide, rfl⟩

/-! ### Scratchpad, vector unit, matrix array, lattice -/

def withFmt (x : Seat) (f : Word64) : Seat := { x with regs := { x.regs with fmt := f } }
def poisoned (x : Seat) : Seat := { x with pads := { x.pads with poison := [0] } }
def engineOwned (x : Seat) : Seat := { x with pads := { x.pads with owner := List.replicate 128 .engine } }

/-- ScratchScalar, ScratchAtomics: the last and one byte beyond the pads, misaligned, poisoned, not the thread's; CAS. -/
theorem test_witness_scratch : (atSeat 2 seat1).Runs 0 2 seat1 seat1 tagA ∧ (withS seat1 6 0x7FFF8).src 6 = .ok 0x7FFF8 ∧
    seat1.PadsWf ∧ 0x7FFF8 + 8 ≤ 2 ^ 19 ∧ (0x7FFF8 + 8 - 1) / 4096 < seat1.pads.count ∧ ¬(0x7FFFC + 8 ≤ 2 ^ 19) ∧ 0x7FFF9 % 2 ≠ 0 ∧
    0 / 64 ∈ (poisoned seat1).pads.poison ∧ (engineOwned seat1).pads.owner.getD 127 .thread ≠ .thread ∧
    seat1.pads.owner.getD 127 .thread = .thread ∧ seat1.src (6 + 1) = .ok 0 ∧ (9 : BitVec 4).toNat < 10 :=
  ⟨⟨⟨rfl, rfl⟩, rfl, rfl, by simp [tagA]⟩, rfl, rfl, by decide +kernel, by decide +kernel, by decide +kernel, by decide +kernel, by decide +kernel, by decide +kernel, by decide +kernel, rfl,
    by decide +kernel⟩

/-- PadOwners: the last pad, one pad beyond it, an address inside a pad; channel 7. -/
theorem test_witness_owners : (atSeat 2 seat1).Runs 0 2 seat1 seat1 tagA ∧ 0x7F000 < 2 ^ 19 ∧ 0x7F000 / 4096 + 1 ≤ seat1.pads.count ∧
    ¬(0x7F000 / 4096 + 2 ≤ seat1.pads.count) ∧ 0x7F001 % 4096 ≠ 0 ∧ (7 : BitVec 7).toNat < 8 ∧
    seat1.pads.owner[127]? = some .thread :=
  ⟨⟨⟨rfl, rfl⟩, rfl, rfl, by simp [tagA]⟩, by decide +kernel, by decide +kernel, by decide +kernel, by decide +kernel, by decide +kernel, by decide +kernel⟩

/-- RemoteAccesses: slot 0 of the cluster is the seat itself, slot 1 no member; a wrong offset; a full landing buffer; no
active lane; the SC form with and without wheel positions. -/
theorem test_witness_remote : let s := atSeat 2 seat1
    s.Runs 0 2 seat1 seat1 tagA ∧ s.clusterSeat seat1 0 = some seat1 ∧ s.clusterSeat seat1 1 = none ∧ seat1.Inside 0x7FFF8 8 ∧
    seat1.Inside 0x7FFC0 64 ∧ seat1.AddrFault 0x7FFFC 8 8 0x0A ∧ seat1.AddrFault 1 8 8 0x0B ∧ (s.ctx 2 seat1 seat1).landingUse + 4 ≤ 64 ∧
    (let x := { seat1 with remotes := [{ id := 0, cost := 64, dst := .sReg 1 0, arrived := false, sc := false }] }
     64 < ((atSeat 2 x).ctx 2 x x).landingUse + 1) ∧
    seat1.releasePending = false ∧ seat1.sync.wheelCnt ≠ 0 ∧
    ({ seat1 with sync := { seat1.sync with wheelCnt := 0 } } : Seat).sync.wheelCnt = 0 ∧
    ((List.range 16).filter fun i => seat1.mt.getLsbD i) ≠ [] ∧
    (let x := { seat1 with regs := { seat1.regs with mask := Vector.replicate 8 0 } }
     ((List.range 64).filter fun i => x.mt.getLsbD i) = []) := by
  refine ⟨⟨⟨rfl, rfl⟩, rfl, rfl, by simp [tagA]⟩, rfl, rfl, ⟨by decide +kernel, by decide +kernel⟩, ⟨by decide +kernel, by decide +kernel⟩, .inl ⟨?_, rfl⟩,
    .inr ⟨⟨by decide +kernel, by decide +kernel⟩, by decide +kernel, rfl⟩, by decide +kernel, by decide +kernel, rfl, by decide +kernel, rfl, by decide +kernel, by decide +kernel⟩
  exact fun h => absurd h.1 (by decide +kernel)

theorem clean_seat1 (a n : Nat) : seat1.Clean a n := fun _ h => absurd h List.not_mem_nil
theorem still_seat1 (a n : Nat) : seat1.Still a n :=
  ⟨fun h => h.2.elim (fun ⟨_, hu, _⟩ => absurd hu List.not_mem_nil) fun ⟨_, ho, _⟩ => absurd ho List.not_mem_nil,
    fun _ h => absurd h List.not_mem_nil⟩
theorem inside_seat1 (a n : Nat) (h : a + n ≤ 2 ^ 19) (_ : 0 < n) : seat1.Inside a n :=
  ⟨h, by show (a + n - 1) / 4096 < 128; omega⟩

theorem thread127 : seat1.pads.owner.getD 127 .thread = .thread := by decide +kernel

/-- ScratchVectors: whole granules at the end of the pads, a range beyond them, poison under an active lane, an engine's pad,
elements and rows that may be read and written; the 2:4 rows of VLDX. -/
theorem test_witness_scratch_vectors : (atSeat 4 seat1).Runs 0 4 seat1 seat1 tagA ∧ seat1.vsrc 31 = .ok 0 ∧ seat1.Quiet ∧ seat1.PadsWf ∧
    (2 : BitVec 2).toNat < 3 ∧ seat1.mt.getLsbD 63 = true ∧ seat1.Writable 0x7FF00 256 256 ∧ seat1.AddrFault 0x7FF40 256 256 0x0A ∧
    (poisoned seat1).Inside 0 64 ∧ ¬(poisoned seat1).Clean (0 + 4 * 0) 4 ∧ (engineOwned seat1).pads.owner.getD 0 .thread ≠ .thread ∧
    (∀ j, j < 64 → seat1.Writable (0x7F000 + 4 * j) 4 4) ∧ seat1.AddrFault 1 2 2 0x0B ∧ seat1.AddrFault 64 128 128 0x0B ∧
    seat1.Readable 0 128 128 ∧ seat1.Readable 128 16 16 := by
  refine ⟨⟨⟨rfl, rfl⟩, rfl, rfl, by simp [tagA]⟩, rfl, .inl rfl, rfl, by decide +kernel, by decide +kernel,
    ⟨⟨inside_seat1 _ _ (by decide +kernel) (by decide +kernel), by decide +kernel, clean_seat1 _ _, still_seat1 _ _⟩, by decide +kernel, by decide +kernel⟩, .inl ⟨?_, rfl⟩,
    ⟨by decide +kernel, by decide +kernel⟩, ?_, by decide +kernel, ?_, .inr ⟨inside_seat1 _ _ (by decide +kernel) (by decide +kernel), by decide +kernel, rfl⟩,
    .inr ⟨inside_seat1 _ _ (by decide +kernel) (by decide +kernel), by decide +kernel, rfl⟩,
    ⟨inside_seat1 _ _ (by decide +kernel) (by decide +kernel), by decide +kernel, clean_seat1 _ _, still_seat1 _ _⟩,
    ⟨inside_seat1 _ _ (by decide +kernel) (by decide +kernel), by decide +kernel, clean_seat1 _ _, still_seat1 _ _⟩⟩
  · exact fun h => absurd h.1 (by decide +kernel)
  · exact fun h => by rcases h 0 (List.mem_singleton.mpr rfl) with h | h <;> omega
  · intro j hj
    refine ⟨⟨inside_seat1 _ _ (by omega) (by decide +kernel), by omega, clean_seat1 _ _, still_seat1 _ _⟩, ?_, ?_⟩
    · have h : (0x7F000 + 4 * j) / 4096 = 127 := by omega
      rw [h]; exact thread127
    · have h : (0x7F000 + 4 * j + 4 - 1) / 4096 = 127 := by omega
      rw [h]; exact thread127

/-- VectorArithmetic, VectorBits, VectorFunctions: an integer, a float and a wrong VT (R180); SR with and without a word. -/
theorem test_witness_vector : (∀ f, (atSeat 3 (withFmt seat1 f)).Runs 0 3 (withFmt seat1 f) (withFmt seat1 f) tagA) ∧
    seat1.vsrc 31 = .ok 0 ∧ seat1.src 31 = .ok 0 ∧ (0x2, 32, true) ∈ intTypes ∧ (0x5, 16, false) ∈ intTypes ∧
    (seat1.regs.fmt.toNat % 16, binary32) ∈ floatTypes ∧ (0xA, bfloat16) ∈ floatTypes ∧ 0x8 ∉ vectorCodes ∧
    (withFmt seat1 0x408).regs.fmt.toNat % 16 = 0x8 ∧ RMode.ofCode 4 = .sr ∧ seat1.regs.rbq = [] ∧
    ({ seat1.regs with rbq := [1] } : Regs).rbq = 1 :: [] ∧ (2 : BitVec 6).toNat < 3 := by
  refine ⟨fun f => ⟨⟨rfl, rfl⟩, rfl, rfl, by simp [tagA]⟩, rfl, rfl, ?_⟩
  decide +kernel

/-- MaskStack: depths 1, 7 and 8; the condition words of equal registers, under integers of 32 and floats of 16 bits. -/
theorem test_witness_masks : (atSeat 3 seat1).Runs 0 3 seat1 seat1 tagA ∧ seat1.regs.depth = 1 ∧
    ({ seat1.regs with depth := 8 } : Regs).depth = 8 ∧ 2 ≤ ({ seat1.regs with depth := 8 } : Regs).depth ∧
    (∀ i, i < 64 → ((BitVec.allOnes 64).getLsbD i = true ↔ IntCond 0 32 (vElem 32 0 i) (vElem 32 0 i))) ∧
    (∀ i, i < 64 → ((0 : Word64).getLsbD i = true ↔ FloatCond 1 (.fin false 1 0) (.fin false 1 0))) ∧ 0xC ∈ [0x2, 0x6, 0xC] :=
  ⟨⟨⟨rfl, rfl⟩, rfl, rfl, by simp [tagA]⟩, rfl, rfl, by decide +kernel, by intro i h; rw [BitVec.getLsbD_allOnes]; simp [IntCond, h], fun i _ => by
    simp [FloatCond]; decide, by decide +kernel⟩

/-- The second conjunct of VectorFunctions: a nonzero magnitude. -/
theorem test_witness_functions : (1 : Nat) ≠ 0 ∧ 2 ^ 15 - 1 < 2 ^ 15 := by decide +kernel

def bank1 : Bank := seat1.mat.banks.headD Bank.fresh

/-- Beats: bfloat16 under float mode with held edges; a wrong combination; a bank fixed to another mode; 2:4; a dead position; a
scalar new row, and an edge streamed from the pads and from a V register. -/
theorem test_witness_beats : (atSeat 5 seat1).Runs 0 5 seat1 seat1 tagA ∧ seat1.Quiet ∧ seat1.mat.banks[(3 : BitVec 2).toNat]? = some bank1 ∧
    BeatTypes 0xA 0xA 0 64 1 .float ∧ ¬(∃ r k m, BeatTypes 0xF 0xA 0 r k m) ∧ seat1.dead = false ∧
    ((atSeat 5 seat1).ctx 5 seat1 seat1).queueUse + 1 ≤ 32 ∧ bank1.issMode = .unset ∧
    ¬(({ bank1 with issMode := .int, issRw := 64 } : Bank).issMode = .unset) ∧ Fmt.spm 0x40C0AAC = 1 ∧ Fmt.spm 0xC0AAC = 0 ∧
    (let x := { withFmt seat1 0x80C0AAC with
       mat := { seat1.mat with bitmap := 0 }, standing := seat1.standing.set 5 { word := 0x01800000, lit := 0, bar := 0, acc := 0 } }
     x.dead = true) ∧
    seat1.Scales 1 64 .float 0 ∧ seat1.Feeds 5 0 1 0 0 128 1024 seat1.mat.a seat1.mat.a ∧
    seat1.Feeds 5 31 0 1 0 128 1024 seat1.mat.a 0 ∧ seat1.Feeds 5 0 0 0 0 128 1024 0 0 := by
  refine ⟨⟨⟨rfl, rfl⟩, rfl, rfl, by simp [tagA]⟩, .inl rfl, rfl, .inl ⟨rfl, rfl, .inl ⟨rfl, .inl rfl, rfl, rfl⟩⟩, ?_, by decide +kernel,
    by decide +kernel, rfl, by decide +kernel, by decide +kernel, by decide +kernel, by decide +kernel, .inl ⟨by decide +kernel, rfl⟩, .inl ⟨rfl, rfl⟩,
    .inr (.inl ⟨rfl, rfl, 0, rfl, by simp⟩), .inr (.inr ⟨rfl, rfl, 0, rfl, ?_, ?_⟩)⟩
  · rintro ⟨r, k, m, h⟩
    simp [BeatTypes] at h
  · exact ⟨⟨inside_seat1 _ _ (by decide +kernel) (by decide +kernel), by decide +kernel, clean_seat1 _ _, still_seat1 _ _⟩, rfl⟩
  · decide +kernel

/-- EdgesAndScales: kinds of MPUSH, a queue with room and one without; XLDS with none and with four held; XADD at its ends. -/
theorem test_witness_edges : let s := atSeat 5 seat1
    s.Runs 0 5 seat1 seat1 tagA ∧ s.clusterSeat seat1 0 = some seat1 ∧ seat1.Inside 0x7FF80 128 ∧
    (s.ctx 5 seat1 seat1).queueUse + 2 ≤ 32 ∧
    (let x := { seat1 with landings := List.replicate 31 { sLand with eff := .remote 0 }
                           remotes := [{ id := 0, cost := 0, dst := .aEdge 0, arrived := false, sc := false }] }
     32 < (({ s with seats := [x] } : State).ctx 5 x x).queueUse + 2) ∧
    seat1.Streams 0x7FF80 128 ∧ 4 ≤ ({ seat1.mat with scales := List.replicate 4 (0, 0) } : Mat).scales.length ∧
    Fmt.scm 0x10C0AAC = 1 ∧ Fmt.scm 0xC0AAC ≠ 1 ∧ (-1024 : Int) ≤ -1024 ∧ (1023 : Int) ≤ 1023 :=
  ⟨⟨⟨rfl, rfl⟩, rfl, rfl, by simp [tagA]⟩, rfl, ⟨by decide +kernel, by decide +kernel⟩, by decide +kernel, by decide +kernel,
    ⟨⟨inside_seat1 _ _ (by decide +kernel) (by decide +kernel), by decide +kernel, clean_seat1 _ _, still_seat1 _ _⟩, rfl⟩, by decide +kernel, by decide +kernel, by decide +kernel, by decide +kernel, by decide +kernel⟩

/-- BankOperations: a bank held and one not; a drain to V and to the pads; SR on an empty and a full queue; a corrupt class
with CKT; one failing row and column. -/
theorem test_witness_banks : (atSeat 5 seat1).Runs 0 5 seat1 seat1 tagA ∧ seat1.mat.banks[(0 : BitVec 2).toNat]? = some bank1 ∧
    ({ seat1.mat with banks := [] } : Mat).banks.length ≤ (0 : BitVec 2).toNat ∧ bank1.mode = .unset ∧
    seat1.regs.fmt.toNat / 2 ^ 16 % 16 = 0xC ∧ 64 * elemSize 0xC ≤ 256 ∧ 256 < 64 * elemSize 0xD ∧
    RMode.ofCode (0x4C0AAC / 2 ^ 20 % 8) = .sr ∧ seat1.Writable 0 256 256 ∧ seat1.needRange true (0, 256) = .ok () ∧
    ({ bank1 with cls := 2, rows := 1, cols := 1 } : Bank).cls = 2 ∧
    (((List.range 64).countP fun i => (1 : Word64).getLsbD i) = 1) ∧ (0x20C0AAC : Word64).getLsbD 29 = false ∧
    (0x200C0AAC : Word64).getLsbD 29 = true ∧ bank1.frow < 64 ∧ bank1.fcol < 64 ∧ seat1.Streams 0x7FFC0 64 ∧
    seat1.AddrFault 0x20 64 64 0x0B :=
  ⟨⟨⟨rfl, rfl⟩, rfl, rfl, by simp [tagA]⟩, rfl, by decide +kernel, rfl, by decide +kernel, by decide +kernel, by decide +kernel, by decide +kernel,
    ⟨⟨inside_seat1 _ _ (by decide +kernel) (by decide +kernel), by decide +kernel, clean_seat1 _ _, still_seat1 _ _⟩, by decide +kernel, by decide +kernel⟩, rfl, rfl, by decide +kernel, by decide +kernel,
    by decide +kernel, by decide +kernel, by decide +kernel, ⟨⟨inside_seat1 _ _ (by decide +kernel) (by decide +kernel), by decide +kernel, clean_seat1 _ _, still_seat1 _ _⟩, rfl⟩,
    .inr ⟨inside_seat1 _ _ (by decide +kernel) (by decide +kernel), by decide +kernel, rfl⟩⟩

def beat1 : Beat :=
  { bank := 0, sparse := false, atype := 0xA, btype := 0xA, mode := .float, h := 0, a := 0, b := 0, scaled := false, scales := 0, xadd := 0
    cke := true, word := 0 }

/-- BeatArithmetic: entries that rise, a beat of bfloat16 with CKE, one of FP8, one of 2:4. -/
theorem test_witness_beat : (([(0, 1), (4095, 1)] : List (Nat × Acc72)).map (·.1)).Pairwise (· < ·) ∧ beat1.cke = true ∧ beat1.mode = .float ∧
    beat1.sparse = false ∧ beat1.atype.toNat = 0xA ∧ ({ beat1 with sparse := true } : Beat).sparse = true := by decide +kernel

/-- A lattice region of 64-bit unsigned maxima, one of slots, and one of binary64 minima, each with its extent. -/
def region (type : Nat) : Region := { num := 1, name := 0, type := type, cells := 16, base := 0x10000, graph := 0, inst := 0, owner := none }
def latSeat : Seat := { seat1 with extents := [latticeExtent 10 (region 0)] }
def latState (n type : Nat) : State := { atSeat n latSeat with regions := [region type], access := [{ target := some (.lattice 0), master := 0, w := true, r := true }] }

/-- LatticeOperations: a cell's address, one that is misaligned, and one in no lattice extent; the posted limit; a quota of
none; a semaphore; the deposit at the end of the pads and beyond it; a NaN. -/
theorem test_witness_lattice : (latState 2 0).Runs 0 2 latSeat latSeat tagA ∧ latSeat.src 31 = .ok 0 ∧
    (∃ e i j, latSeat.extent 0x10000 = some e ∧ e.kind = 2 ∧ (latState 2 0).cellAt latSeat 0x10000 = some (region 0, i, j)) ∧
    (∃ e i j, latSeat.extent 0x10040 = some e ∧ e.kind = 2 ∧ (latState 2 6).cellAt latSeat 0x10040 = some (region 6, i, j)) ∧
    0x10004 % 8 ≠ 0 ∧ (∀ e, latSeat.extent 0 = some e → e.kind ≠ 2) ∧ ((latState 2 0).ctx 2 latSeat latSeat).posted < 16 ∧
    latSeat.releasePending = false ∧ latSeat.sync.wheelCnt ≠ 0 ∧ decodeFloat binary64 0x7FF8000000000000 = .nan ∧
    latSeat.copy.quota ≠ 0 ∧ ({ latSeat.copy with quota := 0 } : Copy).quota = 0 ∧ 63 < latSeat.sync.sems.length ∧
    latSeat.Inside 0x7FFF0 16 ∧ ¬latSeat.Inside 0x7FFF8 16 ∧ latSeat.entriesUsed + 1 ≤ latSeat.copy.quota := by
  refine ⟨⟨⟨rfl, rfl⟩, rfl, rfl, by simp [tagA]⟩, rfl, ⟨_, _, _, rfl, rfl, rfl⟩, ⟨_, _, _, rfl, rfl, rfl⟩, by decide +kernel, ?_, by decide +kernel, rfl,
    by decide +kernel, by decide +kernel, by decide +kernel, rfl, by decide +kernel, ⟨by decide +kernel, by decide +kernel⟩, fun h => absurd h.1 (by decide +kernel), by decide +kernel⟩
  intro e h
  rw [show latSeat.extent 0 = none from rfl] at h
  cases h

def latMsg (body : MsgBody) : Msg := { serial := 1, src := 0, dst := 0, pc := 0, slot := 2, ea := 0x10000, arr := none, stamp := none, body := body }
def wait1 : Wait :=
  { id := 0, slot := 2, pc := 0, cycle := 0, va := 0x10000, pad := 0, sem := 0, lld := true, thr := 0, deadline := 5, lto := false, size := 16
    arr := none, watching := true, deposit := none }

/-- Two die pairs, the first of which is due in round 0. -/
def due2 : State :=
  { State.reset with
    diepres := 3, chorus := 2000, access := [{ target := some (.lattice 1), master := 0x4800, w := true, r := true }]
    lxRound := State.reset.lxRound.set 1 (lxRoundReset.set 0 0x3E867452301) }

/-- LatticeUnit: an operation that has arrived and may pass, a rise, a watch with a deadline, a deposit the pads can take,
a pair of die pairs in a round that is due, a cell received. -/
theorem test_witness_lattice_unit :
    (let s := { latState 0 0 with msgs := [latMsg (.lattice 0x1E 0x10000 7)], cursor := none }
     s.msgs[0]? = some (latMsg (.lattice 0x1E 0x10000 7)) ∧ s.seat? 0 = some latSeat ∧ (∀ c ∈ s.cells, c.region < 64 ∧ c.idx < 2 ^ 16) ∧
     s.cellAt latSeat 0x10000 = some (region 0, 0, 0) ∧ s.allows (some (.lattice latSeat.die)) latSeat.id true false = true ∧
     (latSeat.die, 1, 0) ∉ s.cellPoison ∧ leq64 0 (cellLane (s.cell 0 (region 0) 0) 0) 7 = true) ∧
    (let x := { latSeat with copy := { latSeat.copy with waits := [wait1] } }
     let s := { latState 0 0 with seats := [x], cursor := none, chorus := 5 }
     s.waits[0]? = some (0, wait1) ∧ s.seat? 0 = some x ∧ x.PadsWf ∧ s.cellAt x wait1.va = some (region 0, 0, 0) ∧ wait1.watching = true ∧
     wait1.deadline ≠ 0 ∧ wait1.deadline ≤ s.chorus ∧ (engineOwned x).engineOwned 0 16 = true ∧ x.engineOwned 0 16 = false ∧
     (engineOwned x).depositClear wait1 16 = true) ∧
    (let s := due2
     s.mapNibble 0 0 0 = 1 ∧ s.mapNibble 1 0 1 = 0 ∧ 0 < s.rounds 0 ∧ s.meshUp 0 1 = true ∧
     s.allows (some (.lattice 1)) (0x4800 + 0) true false = true ∧
     s.roundDue 0 0 = true ∧ (∀ f, f < 8 → f ≠ 0 → s.diepres.getLsbD f = true → s.roundDue f 0 = false)) ∧
    (let s := { latState 0 0 with exchange := [{ src := 1, dst := 0, region := 1, idx := 15, val := 3 }], diepres := 1 }
     s.regions.find? (·.num == 1) = some (region 0) ∧ s.diepres.getLsbD 0 = true ∧ (0, 1, 15) ∉ s.cellPoison) := by
  refine ⟨⟨rfl, rfl, ?_, rfl, rfl, ?_, ?_⟩, ⟨rfl, rfl, rfl, rfl, rfl, ?_, ?_, ?_, ?_, ?_⟩, ⟨rfl, rfl, ?_, rfl, rfl, ?_, ?_⟩, rfl, rfl, ?_⟩
  all_goals decide +kernel

/-! ### Counters, copies, engines -/

/-- Synchronisation: the last semaphore and barrier; counts at and beyond 2^32 - 1; a member named and one that is none. -/
theorem test_witness_sync : (atSeat 0 seat1).InSeat 0 0 seat1 seat1 ∧ seat1.suppressed = false ∧ seat1.src 31 = .ok 0 ∧
    seat1.sync.bars[15]? = some { x := 0, n := 0, b := 0 } ∧ seat1.sync.sems[63]? = some 0 ∧ seat1.sync.bars.length = 16 ∧
    (0xFFFFFFFE : Word32).toNat + (1 : Word32).toNat < 2 ^ 32 ∧ 2 ^ 32 ≤ (0xFFFFFFFF : Word32).toNat + (1 : Word32).toNat ∧
    0 < seat1.cfg.d ∧ 0 < seat1.cfg.c ∧ seat1.cfg.d ≤ 1 ∧ seat1.releasePending = false ∧
    (atSeat 0 seat1).seats.find? (fun y => y.gang == seat1.gang && y.e == 0 && y.m == 0) = some seat1 ∧ seat1.sync.wheelCnt ≠ 0 ∧
    ({ seat1.sync with wheelCnt := 0 } : Sync).wheelCnt = 0 ∧ (0x0B602000 : Word32).getLsbD 27 = true ∧
    (0x0B602000 : Word32).getLsbD 13 = true :=
  ⟨⟨rfl, rfl⟩, rfl, rfl, rfl, rfl, rfl, by decide +kernel, by decide +kernel, by decide +kernel, by decide +kernel, by decide +kernel, rfl, rfl,
    by decide +kernel, rfl, by decide +kernel, by decide +kernel⟩

/-- A shape of n elements of a code in one row (R138), with PACK and field 13. -/
def shape (code n : Nat) (pack : Nat := 0) (f13 : Nat := 0) : HReg :=
  BitVec.ofNat 512 ((code + 16 * pack) * 2 ^ 64 + n * 2 ^ 96 + 2 ^ 128 + 2 ^ 160 + 2 ^ 192 + f13 * 2 ^ 208 * 2 ^ 208)

/-- Copies: each check of R238 met and missed: quota, length, format, control word, pad side, memory side, charge, entries. -/
theorem test_witness_copies :
    (∀ h, (atSeat 7 (withH seat1 h)).Runs 0 7 (withH seat1 h) (withH seat1 h) tagA ∧ (withH seat1 h).hsrc 0 = .ok h) ∧
    seat1.copy.quota ≠ 0 ∧ ({ seat1.copy with quota := 0 } : Copy).quota = 0 ∧ elemCount (shape 0x8 64) = 64 ∧
    (hField (shape 0xC (2 ^ 30)) 3).toNat * 4 = 2 ^ 32 ∧ (hField (shape 0x8 64 1) 2).toNat / 16 % 16 = 1 ∧
    (hField (shape 0xF 64) 2).toNat % 16 = 0xF ∧ ((controlWord 0x80000000).sig = true → (controlWord 0x80000000).sem < 64) ∧
    ({ seat1.sync with sems := [] } : Sync).sems.length ≤ (controlWord 0x80000000).sem ∧ (controlWord 0x2000).bc = true ∧
    2 ^ 32 ≤ (0xFFFFFFFF : Word32).toNat + 1 ∧ seat1.Inside 0x7FFC0 64 ∧ ¬seat1.Inside 0x7FFC1 64 ∧ 1 % 4 ≠ 0 ∧
    seat1.entriesUsed + 1 ≤ seat1.copy.quota ∧ seat1.needSnapshot 0 = .ok () ∧ (atSeat 7 seat1).draining seat1 = false ∧
    (atSeat 7 seat1).clusterSeat seat1 0 = some seat1 ∧ (atSeat 7 seat1).clusterSeat seat1 7 = none := by
  refine ⟨fun h => ⟨⟨⟨rfl, rfl⟩, rfl, rfl, by simp [tagA]⟩, rfl⟩, ?_, rfl, ?_, ?_, ?_, ?_, ?_, ?_, ?_, ?_, ⟨?_, ?_⟩,
    fun h => absurd h.1 (by decide +kernel), ?_, ?_, rfl, rfl, rfl, rfl⟩
  all_goals decide +kernel

def cmd1 (op : CmdOp) (snap : HReg := shape 0x8 64) : Cmd :=
  { serial := 0, op := op, ch := 0, start := 0, len := 64, done := 0, ctl := 0, snap := snap, g := 0, p := 0, pc := 0, started := false
    owed := 0, fault := none, lost := 0, reads := [], writes := [], rank := 0, ranks := [], counts := [], heard := [], got := [], buf := [], pos := 0
    sub := 0, phase := 0, dead := [], ready := [], nth := 0, stamp := none, sent := none, cut := false, entry := true, vals := [], idxs := [] }
def withCmd (x : Seat) (m : Cmd) : Seat := { x with copy := { x.copy with cmds := [m] } }

/-- Engines: ROUTE's choices, a quota below two, ranks at their ends, MCST's targets, SENDO's place, CPYK's command. -/
theorem test_witness_engines : 2 ≤ seat1.copy.quota ∧ ({ seat1.copy with quota := 1 } : Copy).quota < 2 ∧ (hField (shape 0 2) 3).toNat = 2 ∧
    1 ≤ (hField (shape 0 256) 3).toNat ∧ (hField (shape 0 256) 3).toNat ≤ 256 ∧ 256 < (hField (shape 0 257) 3).toNat ∧
    (hField (shape 0 2 0 4) 13).toNat * (hField (shape 0 2 0 4) 3).toNat = 8 ∧
    (0x0100000000000000 : Word64).getLsbD (56 + 0) = true ∧ (0x0100000000000000 : Word64).extractLsb' 19 37 = 0 ∧
    (0x0000000100000040 : Word64).extractLsb' 32 16 = 1 ∧ (0x0000000100000040 : Word64).extractLsb' 19 13 = 0 ∧
    (0x0000000100000040 : Word64).toNat % 64 = 0 ∧ seat1.copy.cmds = [] ∧ (withCmd seat1 (cmd1 .cpyi)).copy.cmds = [cmd1 .cpyi] ∧
    (cmd1 .cpyi).op.isCopy = true ∧ seat1.entriesUsed + 2 ≤ seat1.copy.quota ∧ seat1.Inside 0x7F000 4096 := by
  refine ⟨?_, ?_, ?_, ?_, ?_, ?_, ?_, ?_, ?_, ?_, ?_, ?_, rfl, rfl, rfl, ?_, ⟨?_, ?_⟩⟩
  all_goals decide +kernel

/-! ### Messages and channels -/

def msg1 (body : MsgBody) : Msg := { serial := 1, src := 0, dst := 0, pc := 0, slot := 2, ea := 0, arr := none, stamp := none, body := body }
def portRow : AccessRow := { target := some (.port 0 0), master := 0, w := true, r := true }
def remote1 (d : Land) : Seat := { seat1 with remotes := [{ id := 4, cost := 1, dst := d, arrived := false, sc := false }] }
def withMsg (x : Seat) (m : Msg) : State := { idle x with msgs := [m], access := [portRow] }

/-- Messages: a store, a load, an atomic, an edge and a signal that have arrived at a target that allows them; a refused
table, an engine's pad, poison; a multicast group of one; data and reports on their way back; a word to rebuild. -/
theorem test_witness_messages :
    (let m := msg1 (.store 0x7FFFF [(0x7FFFF, 9)])
     let s := withMsg seat1 m
     s.msgs[0]? = some m ∧ m.stamp = none ∧ s.seat? m.src = some seat1 ∧ s.seat? m.dst = some seat1 ∧ seat1.PadsWf ∧
     s.allows (some (.port seat1.die seat1.tile)) m.src true true = true ∧ (idle seat1).allows (some (.port 0 0)) 0 true false = false ∧
     seat1.pads.owner.getD (0x7FFFF / 4096) .thread = .thread) ∧
    (engineOwned seat1).pads.owner.getD 0 .thread ≠ .thread ∧ 0 ∈ (poisoned seat1).pads.poison ∧
    ((remote1 (.sReg 3 0)).remotes.find? (·.id == 4)).map (·.dst) = some (.sReg 3 0) ∧
    (let m := msg1 (.edge 0 4 true)
     let s := withMsg (remote1 (.bEdge 0)) m
     s.msgs.Pairwise (fun k q => k.src / 4 ≠ q.src / 4) ∧ (s.msgs.map (·.serial)).Nodup ∧ s.replies = [] ∧
     (∀ k ∈ s.msgs, s.allows (some (.port 0 0)) k.src false true = true)) ∧
    (let r : Reply := { seat := 0, entry := 4, dst := .sReg 3 7 }
     ({ idle (remote1 (.sReg 3 0)) with replies := [r] } : State).replies[0]? = some r) ∧
    (let r : Report := { seat := 0, overflow := false, cause := 0x11, addr := 0, pc := 0, slot := 2, entry := some 4 }
     ({ idle (remote1 (.sReg 3 0)) with reports := [r] } : State).reports[0]? = some r) ∧
    (1 : BitVec 64) ≠ 0 ∧ 0x7FFF8 % 8 = 0 ∧ 0x7FFF8 + 8 ≤ 4096 * seat1.pads.count := by
  refine ⟨⟨rfl, rfl, rfl, rfl, rfl, ?_, ?_, ?_⟩, ?_, ?_, rfl, ⟨?_, ?_, rfl, ?_⟩, rfl, rfl, ?_, ?_, ?_⟩
  all_goals decide +kernel

def ext1 : Extent := { base := 0, len := 0x10000, kind := 0, r := true, w := true, et := false, pbase := 0, lease := 10 }
def running (m : Cmd) : Cmd := { m with started := true }

/-- ChannelEvents: a command that may start, one in the way of its owner and of a release; a sector translated, not
translated and refused; CPYS; a command at its end; ROUTE; a parked sector that may replay; a hold that cannot end. -/
theorem test_witness_channels :
    (let x := withCmd seat1 (cmd1 .cpyi)
     let s := idle x
     s.seat? 0 = some x ∧ x.front 0 = some (cmd1 .cpyi) ∧ s.remoteServe x (cmd1 .cpyi) = true ∧ x.scoreClear (cmd1 .cpyi) = true ∧
     s.portRefusal x (cmd1 .cpyi) = none) ∧
    Owner.serves .thread 0 = false ∧
    (let m := running (cmd1 .cpyo)
     let x := { withCmd seat1 m with extents := [ext1] }
     let s := mapped (idle x)
     s.Moves 0 0 x m ∧ m.OneSector 64 ∧ x.PadsWf ∧ s.MemoryWf ∧ s.translate x true false 0 = .pa 0 false false ∧
     s.translate { x with extents := [] } true false 0 = .fault 0x0F ∧ ({ s with chorus := 10 } : State).translate x true false 0 = .untranslated ∧
     (s.tile 0).sideLog = [] ∧ s.allows (s.homeOf 0) 0x800 true false = true) ∧
    (let m := { running (cmd1 .cpys) with p := 0x1000 }
     let x := withCmd seat1 m
     (idle x).Moves 0 0 x m ∧ (idle x).clusterSeat x (m.g / 2 ^ 19) = some x ∧ (idle x).clusterSeat x (m.p / 2 ^ 19) = some x) ∧
    (let m := { running (cmd1 .cpyi) with done := 64 }
     (withCmd seat1 m).copy.cmds = [m] ∧ m.op.isCopy = true ∧ m.done = m.len ∧ (controlWord m.ctl).rm = false) ∧
    (let m := { running (cmd1 .route (shape 0 2 0 4)) with len := 8 * 8 + 8 * 1 + 8 * 1, p := 0x1000 }
     m.op = .route ∧ m.len = 8 * ((hField m.snap 13).toNat * (hField m.snap 3).toNat) + 8 * (hField m.snap 4).toNat +
       8 * (((hField m.snap 4).toNat + 63) / 64)) ∧
    (let p : Parked := { seat := 0, cmd := 0, va := 0, bytes := [(0, 5)], poison := false, combine := none, raised := false, master := 0x800 }
     let x := { withCmd seat1 (running (cmd1 .cpyo)) with extents := [ext1] }
     let s := (mapped (idle x)).putTile { Tile.fresh 0 with sideLog := [p] }
     (s.tile 0).sideLog = [p] ∧ s.seat? 0 = some x ∧ (p.bytes.map (·.1)).Nodup ∧ (∀ b ∈ p.bytes, b.1 / 64 = p.va / 64)) ∧
    (let m := { cmd1 .cpyi with writes := [(0, 64)] }
     let x := { withCmd seat1 m with held := some (7, 1) }
     x.held = some (7, 1) ∧ x.copy.waits = [] ∧ x.padsServe m = false) ∧
    (let x := withCmd seat1 (cmd1 .cpyl)
     (withMsg x (msg1 (.lattice 0x1D 0 1))).unitBusy x { cmd1 .cpyl with serial := 1 } = true ∧ (idle x).unitBusy x (cmd1 .cpyl) = false) := by
  refine ⟨⟨rfl, rfl, rfl, rfl, rfl⟩, rfl, ⟨⟨rfl, rfl, rfl, rfl, ?_, rfl, rfl, ?_⟩, ?_, rfl, ⟨rfl, rfl⟩, rfl, rfl, rfl, rfl, rfl⟩,
    ⟨⟨rfl, rfl, rfl, rfl, ?_, rfl, rfl, ?_⟩, rfl, rfl⟩, ⟨rfl, rfl, rfl, rfl⟩, ⟨rfl, ?_⟩, ⟨rfl, rfl, ?_, ?_⟩, ⟨rfl, rfl, ?_⟩, rfl, rfl⟩
  · decide +kernel
  · intro q hq _; exact List.mem_singleton.mp hq
  · exact ⟨by decide, by decide, by decide +kernel, by decide +kernel, .inl (by decide +kernel)⟩
  · decide +kernel
  · intro q hq _; exact List.mem_singleton.mp hq
  all_goals decide +kernel

/-- CPYL, routeOutput, CollectivesAndOrder: a cell under a lattice extent; a rank table that names the seat; a count, a
segment and a part that are due; the ring; a message released; a port in use; a watermark that stands. -/
theorem test_witness_collectives :
    (let m := { running (cmd1 .cpyl (shape 0x7 8)) with g := 0x10000 }
     let x := withCmd latSeat m
     let s := { latState 0 0 with seats := [x], cursor := none }
     s.translate x true true 0x10000 = .cell (latticeExtent 10 (region 0)) ∧ s.cellAt x 0x10000 = some (region 0, 0, 0) ∧ m.done < m.len) ∧
    (let m := { running (cmd1 .a2av (shape 0 2)) with ranks := [0x0001000000000000, 0xFFFF000000000000] }
     let x := withCmd seat1 m
     x.front 0 = some m ∧ m.phase = 0 ∧ 0 < m.ranksN ∧ m.ranksN = 2 ∧ 0 ∉ m.heard ∧ (idle x).here (m.ranks.getD 0 0) = false ∧
     m.heard.length + 1 ≠ m.ranksN ∧ { m with heard := [1] }.heard.length + 1 = m.ranksN ∧ 64 < ([65, 0] : List Nat).foldl (· + ·) 0) ∧
    (let m := { running (cmd1 .ared (shape 0x8 2)) with ranks := [0, 0] }
     m.part = elemSize 0x8 * (hField m.snap 4).toNat) ∧
    (let m : OrdMsg := { stamp := 5, dev := 0, seq := 0, dest := 0, seat := 0, addr := 0, data := List.replicate 64 0, poison := false
                         sig := none, src := none, master := 0x800 }
     let s := { idle { seat1 with sync := { seat1.sync with scStamps := [] } } with
       inputs := State.reset.inputs.set 0 { SwitchInput.reset with queue := [m] }, chorus := 6 }
     m.data.length = 64 ∧ s.localMsgs = [m] ∧ s.released m = true ∧ seat1.engineOwned 0 64 = false ∧
     (engineOwned seat1).engineOwned 0 64 = true) ∧
    (let s := { State.reset with podid := 0x1000, rmap := State.reset.rmap.set 0 2, chorus := 25000 }
     s.podid.getLsbD 12 = true ∧ (s.input 1).up = true ∧ s.portUsed 0 = true ∧ s.portSent.getD 0 0 + 100 ≤ s.chorus ∧ s.portTo 1 = some 0 ∧
     s.feeds 1 = true ∧ s.lastAdvance 1 + 25000 ≤ s.chorus) := by
  refine ⟨⟨rfl, rfl, ?_⟩, ⟨rfl, rfl, ?_, ?_, ?_, ?_, ?_, ?_, ?_⟩, ?_, ⟨rfl, ?_, ?_, ?_, ?_⟩, ?_, ?_, ?_, ?_, ?_, ?_, ?_⟩
  all_goals decide +kernel

/-- ReleasesAndSc: a release at the head of its queue, alone and behind a store; a pod release with traffic; an SC operation
whose release stands, at the wheel position 512; one that is 64 ns old; a heartbeat's time. -/
theorem test_witness_releases :
    (let r : Release := { scope := 3, below := 2, cycle := 0 }
     let x := { seat1 with sync := { seat1.sync with relq := [.release r] } }
     (idle x).seat? 0 = some x ∧ x.sync.relq = .release r :: [] ∧ (∀ m ∈ (idle x).msgs, m.src ≠ 0) ∧ x.copy.cmds = [] ∧
     (∀ p ∈ ((idle x).tile 0).sideLog, p.seat ≠ 0) ∧ ({ x with unacked := 1 } : Seat).unacked ≠ 0 ∧ (∀ p, .release p 0 ∉ (idle x).peerOut)) ∧
    (let x := { seat1 with sync := { seat1.sync with scReady := some 5, scNeed := 1, scStamps := [] } }
     x.sync.scReady = some 5 ∧ x.sync.scStamps.length < x.sync.scNeed ∧ max (max 5 State.reset.floor) 0 < 512 ∧
     (x.sync.wheelFirst + 0 * x.sync.wheelStride) % 512 = 512 % 512) ∧
    (let m := { msg1 (.amo 0 4 0 1 0 4 true) with stamp := some 512 }
     let s := { withMsg (remote1 (.sReg 3 0)) m with chorus := 576 }
     s.msgs.find? (fun m => m.src == 0 && m.stamp.isSome) = some m ∧ 512 + 64 ≤ s.chorus ∧
     s.allows (some (.port 0 0)) 0 true true = true) ∧ State.reset.chorus % 512 = 0 := by
  refine ⟨⟨rfl, rfl, ?_, rfl, ?_, ?_, fun p h => by cases h⟩, ⟨rfl, ?_, ?_, ?_⟩, ⟨rfl, ?_, rfl⟩, rfl⟩
  all_goals decide +kernel

/-! ### Translation, host, scheduler -/

def page1 : Mapping := { va := 0, pa := 0, size := 3, r := true, w := true, et := false, disc := false, pend := false, lease := 10 }
def flit1 (kind len : Nat) : Flit :=
  { kind := BitVec.ofNat 8 kind, zero := 0, tag := 7, status := 0, space := 0, len := BitVec.ofNat 16 len, addr := 0x40
    data := List.replicate (if kind = 3 then 0 else len) 1, pad := List.replicate (if kind = 3 then 240 else 240 - len) 0 }

/-- TranslationAndHost: eager, lazy and lattice extents, a cached page; a page that may be installed and one that is not there;
a lease half over; an unmap that waits and one that is performed; a discarded page; the flits of a doorbell, a write and a
read, and bad ones. -/
theorem test_witness_translation :
    (let x := { seat1 with extents := [ext1, { ext1 with base := 0x10000, kind := 1 }] }
     let s := { mapped (idle x) with caches := State.reset.caches.set 0 [{ page1 with lease := 10 }] }
     s.translate x true false 0xFFFF = .pa 0xFFFF false false ∧ s.translate x true false 0x10000 = .pa 0x10000 false false ∧
     s.cached 0 0x10000 = some page1 ∧ s.translate x true true 0 = .fault 0x0F ∧
     ({ s with chorus := 10 } : State).translate x true false 0 = .untranslated) ∧
    (let s := { State.reset with diepres := 1 }
     ({ page1 with size := 0, lease := 0 } : Mapping).valid = true ∧ s.backed 0 (pageBytes 0) = true ∧ (∀ q ∈ s.pages, q.meets page1 = false) ∧ page1.covers 0xFFFF = true ∧
     s.page 0 = none) ∧
    (let s := { mapped (idle { seat1 with extents := [{ ext1 with lease := 500000 }] }) with chorus := 1 }
     (∀ p ∈ s.pages, p.pend = false) ∧ s.page 0 = some page1) ∧
    ({ page1 with pend := true } : Mapping).pend = true ∧ ({ page1 with disc := true } : Mapping).disc = true ∧
    page1.pa + pageBytes page1.size ≤ 2 ^ 47 ∧
    (flit1 1 8).data.length + (flit1 1 8).pad.length = 240 ∧ (flit1 2 24).data.length = min 24 240 ∧ flitBad (flit1 1 8) = false ∧
    flitBad (flit1 2 24) = false ∧ flitBad (flit1 3 24) = false ∧ flitBad (flit1 1 9) = true ∧ flitBad (flit1 9 8) = true ∧
    (let s := mapped (idle seat1)
     s.page 0x40 = some page1 ∧ s.allows (s.homeOf 0x40) 0x4810 true false = false ∧
     ({ s with access := [{ target := none, master := 0x4810, w := true, r := true }] } : State).allows (s.homeOf 0x40) 0x4810 true true = true) := by
  refine ⟨⟨rfl, rfl, rfl, rfl, rfl⟩, ⟨?_, ?_, ?_, ?_, rfl⟩, ⟨?_, rfl⟩, rfl, rfl, ?_⟩
  · decide +kernel
  · decide +kernel
  · decide +kernel
  · decide +kernel
  · decide +kernel
  · refine ⟨?_, ?_, ?_, ?_, ?_, ?_, ?_, ?_, rfl, ?_, ?_⟩
    all_goals decide +kernel

/-- A graph of one node and one kernel of one bundle at 0x1000, and a launch of it in a ring at 0x3000 (R339, R343 to
R345). -/
def graphBytes : List Host.Cell :=
  ([(0x1000, 4, 0x31424750), (0x1004, 2, 1), (0x1006, 2, 1), (0x1010, 8, 64), (0x1018, 8, 80), (0x1020, 8, 96), (0x1028, 8, 80),
    (0x1030, 8, 80), (0x1044, 4, 1), (0x1060, 8, 0x800), (0x1068, 8, 0x900), (0x1070, 8, 0xA00), (0x1078, 8, 0xB00), (0x1080, 8, 0xC00),
    (0x1088, 4, 1), (0x108C, 4, 1), (0x10A0, 8, 1 + 2 ^ 8 + 2 ^ 12 + 2 ^ 20 + 2 ^ 23 + 2 ^ 28 + 2 ^ 35), (0x3028, 8, 0x1000),
    (0x3038, 8, 0xC00C1E)] : List (Nat × Nat × Nat)).foldl (fun m p => Mem.putAll m p.1 (leBytes p.2.1 p.2.2)) []

def queue1 : Queue := { Queue.fresh 0 with cfg := 0x400301, ring := 0x3000, comp := 0x4000, seq := 1, tail := 1, kicked := true }
def launch1 : Launch :=
  { num := 0, q := 0, entry := 0, cookie := 0xC00C1E, patch := 0, graph := 0x1000, inst := 0, node := 0, aff := 0, at' := .waiting, tag := 0
    restartable := true }
def loaded : State := { mapped State.reset with hbm := graphBytes, schedUp := true, booted := true, queues := [queue1] }

/-- R339, R341, R343 to R348: the doorbell admits the launch that stands in the ring. -/
theorem test_admission : (loaded.readDoorbell 0).launches.map (fun l => (l.cookie, l.graph, l.node)) = [(0xC00C1E, 0x1000, 0)] := by
  decide +kernel

/-- R352, R353, R394: the launch runs on die pair 0 as one seat with its declared share, at bundle 0. -/
theorem test_dispatch :
    (match ({ loaded with launches := [launch1] } : State).verdict launch1 with
      | .runs t => t.gangs.map (fun g => (g.pc, g.c, g.d, g.dies)) == [(0, 1, 1, [0])] && t.seats.map (·.share) ==
          [{ pads := 1, banks := 1, bars := 1, sems := 1, quota := 1 }]
      | _ => false) = true := by decide +kernel

/-- Scheduling: a doorbell's admission, a stale one, a disabled queue, one asked for too much; a cluster's start; a chorus
port. -/
theorem test_witness_doorbells : loaded.schedUp = true ∧ (loaded.queueOf 0).kicked = true ∧ (loaded.queueOf 0).en = true ∧
    ((loaded.queueOf 0).tail - (loaded.queueOf 0).adm).toNat = 1 ∧ (loaded.outstanding 0).length < (loaded.queueOf 0).size ∧
    (loaded.launchEntry (loaded.queueOf 0) 0).isSome = true ∧ ({ queue1 with seq := 0 } : Queue).seq - queue1.lseq = 0 ∧
    ({ queue1 with cfg := 0 } : Queue).en = false ∧ ({ queue1 with tail := 17 } : Queue).size < 17 + 0 ∧ loaded.sinceCheckpoint < 4096 ∧
    (let x := { seat1 with started := false }
     gang1.stop = .run ∧ x.gang = 0 ∧ x.id / 32 = 0 ∧ x.started = false) ∧
    (let s := { State.reset with podid := 0x1000, chparent := 0 }
     s.podid.getLsbD 12 = true ∧ s.root = false ∧ s.parentPort < 12 ∧ (s.input (s.parentPort + 1)).up = true) := by decide +kernel

/-- Scheduling: a launch whose turn it is, one with a token. -/
theorem test_witness_turn :
    (let s := { loaded with launches := [launch1] }
     s.turn = [0] ∧ s.workOf 0 = .launch launch1 ∧ s.cancelled 0 = none) ∧
    (let s := { loaded with launches := [launch1], tokens := [(0x1000, 0, 0)] }
     s.cancelled 0 = some launch1) := by decide +kernel

/-- Scheduling: a launch that is blocked, with a victim; one whose graph cannot be read; one with no die pair. -/
theorem test_witness_verdicts :
    (let s := { loaded with launches := [launch1], gangs := (List.range 32).map fun i => { gang1 with id := 1 + i, seqNum := i } }
     (match s.verdict launch1 with | .blocked => true | _ => false) = true ∧ (s.victim 3).isSome = true ∧
     (s.request 1 .preempt).isSome = true) ∧
    (let s := { loaded with launches := [launch1], pages := [] }
     (match s.verdict launch1 with | .ends 2 0x1B 0 => true | _ => false) = true) ∧
    (let s := { loaded with queues := [{ queue1 with cfg := 0x200400301 }], launches := [launch1] }
     s.maskOf launch1 0 = [] ∧ (match s.verdict launch1 with | .ends 5 0 0 => true | _ => false) = true) := by
  decide +kernel

/-! ### Stops, margins, power -/

def trapFrame : Frame := { cause := 0x1D, f0 := 0, f1 := 0, f2 := 0, f3 := 0 }
def failed1 : Gang := { gang1 with stop := .trapSent none false, seqTrap := some trapFrame, edge := true }
def marked : Seat := { seat1 with run := .marked, queue := [] }

/-- Stops: a running gang at and off a boundary, a request that is out for 79 and for 80 ns, a monitor's limit, a seat at the
marker, a latched cause, a trap with and without a handler, a halted gang that may be saved, an ended one, a saved one. -/
theorem test_witness_stops :
    (idle seat1).gang? 0 = some gang1 ∧ gang1.stop = .run ∧ gang1.edge = true ∧ (idle seat1).begun gang1 = true ∧
    ({ gang1 with edge := false } : Gang).edge = false ∧ ¬(80 < 0 + 80) ∧ 79 < 0 + 80 ∧
    (let x := { seat1 with sys := { seat1.sys with monCount := 100000000 } }
     x.sys.monlimit.toNat ≠ 0 ∧ 1000 * x.sys.monlimit.toNat ≤ x.sys.monCount ∧ ((idle x).request 0 .monitor).isSome = true) ∧
    ({ seat1 with queue := [.haltMark] } : Seat).queue = .haltMark :: [] ∧
    (let x := { seat1 with sys := { seat1.sys with latched := [trapFrame] } }
     x.nextCause = some trapFrame ∧ (idle x).mayReport x item1 = true) ∧
    (idle marked failed1).leader failed1 = some (none, trapFrame) ∧ (idle marked failed1).allStopped 0 = true ∧
    (∀ h ∈ failed1.handlers, h.1 ≠ 0x1D) ∧ ({ failed1 with handlers := [(0x1D, 7)] } : Gang).handlers.find? (·.1 == 0x1D) = some (0x1D, 7) ∧
    (let s := { idle marked { gang1 with stop := .haltSent .preempt } with launches := [{ launch1 with at' := .running 0 }], schedUp := true }
     s.launches.find? (·.num == gang1.launch) = some { launch1 with at' := .running 0 } ∧ s.allStopped 0 = true ∧
     (∀ y ∈ s.seats, y.gang = 0 → s.saveable y = true) ∧ (∀ y ∈ s.seats, y.gang = 0 → y.run = .marked ∧ y.sys.latched = [] ∧
       y.copy.cmds = [] ∧ s.quiet y = true)) ∧
    (let x := { seat1 with mat := { seat1.mat with banks := [] }, pads := { seat1.pads with count := 1, owner := [.thread] }, slab := 0x10000
                           sync := { seat1.sync with wheelCnt := 0 } }
     let v : SavedGang := { q := 0, gang := { gang1 with saveCount := 1 }, seats := [x], failed := false }
     let s := { loaded with
       launches := [{ launch1 with at' := .saved 0 }], saved := [v], hbm := Mem.putAll graphBytes (0x10000 + x.commitAt) (leBytes 8 (commitWord 1)) }
     s.turn = [0] ∧ s.workOf 0 = .resume v ∧ s.allCommitted v = true ∧ (s.replace v launch1).isSome = true) := by
  decide +kernel

/-- R384: the rows of the table in their order, at their limits. -/
theorem test_margin_rows :
    (let t := { Tile.fresh 0 with trim := 40, freq := 2300 }
     t.margin 40 26 = ({ t with freq := 2200 }, false) ∧ ({ t with freq := 2200 } : Tile).margin 40 26 = ({ t with freq := 2200, win := 1 }, false) ∧
     ({ t with freq := 2200, win := 2 } : Tile).margin 40 21 = ({ t with freq := 2200, win := 3 }, true) ∧ t.margin 45 21 = ({ t with trim := 45 }, false) ∧
     ({ t with win := 2 } : Tile).margin 40 20 = (t, false) ∧ t.margin 40 4 = ({ t with trim := 35 }, false) ∧
     ({ t with trim := -150 } : Tile).margin 40 4 = ({ t with trim := -150, freq := 2400 }, false) ∧ (t.margin 40 2001).2 = true) := by
  decide +kernel

/-- Margin: windows of each row, a record that is due, a tile that is lost, a stack's spares, links. -/
theorem test_witness_margin :
    (let t := { Tile.fresh 0 with window := 1000000, late := 21, trim := 0, execs := 1000000000 }
     let s := { State.reset with tiles := [t], diepres := 1 }
     s.tile 0 = t ∧ 1000000 ≤ t.window ∧ t.fencing = false ∧ 20 < t.late ∧ (s.physical t).ceil ≤ t.trim ∧ 2200 < t.freq ∧
     1000000000 ≤ t.execs ∧ s.diepres.getLsbD (0 / 64) = true ∧ s.eftTaken 0 = false) ∧
    (let s := { idle seat1 with launches := [launch1], diepres := 1 }
     s.launches.find? (·.num == gang1.launch) = some launch1 ∧ gang1.kernel.restartable = false ∧
     ({ gang1.kernel with restartable := true } : Kernel).restartable = true ∧ (∀ z ∈ s.seats, z.gang = 0 → z.tied = false)) ∧
    (let s := { State.reset with diepres := 0x80, spares := [{ stack := 15, chan := 29, switched := false }] }
     s.diepres.getLsbD (15 / 2) = true ∧ (s.spares.filter (·.stack == 15)).length < 2 ∧
     2 ≤ (({ stack := 15, chan := 3, switched := true } :: s.spares).filter (·.stack == 15)).length) ∧
    linkExists (.mesh 0 1) = true ∧ linkExists (.peer 11) = true ∧ linkExists (.peer 12) = false ∧
    (State.reset.linkState (.mesh 0 1)).retraining = false ∧ (State.reset.linkState (.mesh 0 1)).half = false ∧
    (State.reset.linkState (.mesh 0 1)).spared < spareLanes ∧ (State.reset.linkState (.peer 11)).down = false := by decide +kernel

/-- PowerAndReset: a rise and a fall of the level at their limits, a notice with and without a handler, the three
temperatures, a sample that is due, and one whose pad is not the engines'. -/
theorem test_witness_power :
    3600000 < 3600001 ∧ 3399999 < 3400000 ∧ (10 : Nat) < (11 : Int).natAbs ∧ (9 : Int).natAbs < 10 ∧
    (let x := { seat1 with sys := { seat1.sys with thrstat := 1 } }
     (idle x).seat? 0 = some x ∧ (idle x).gang? x.gang = some gang1 ∧ x.queue = .exec item1 :: [] ∧ x.sys.thrstat.getLsbD 0 = true ∧
     item1.handler = false ∧ x.sys.latched = [] ∧ (idle x).mayReport x item1 = true ∧ (∀ h ∈ gang1.handlers, h.1 ≠ 0x1F) ∧
     (∃ h ∈ ({ gang1 with handlers := [(0x1F, 0)] } : Gang).handlers, h.1 = 0x1F)) ∧
    (∃ d ∈ ({ Power.reset with celsius := (Vector.replicate 10 0).set 8 105 } : Power).celsius.toList, 105 ≤ d) ∧
    (∀ d ∈ Power.reset.celsius.toList, d < 95) ∧ Power.reset.hot = false ∧ State.reset.powered = true ∧
    (let x := { engineOwned seat1 with sys := { seat1.sys with ensample := 0x7F015 } }
     let s := { idle x with tiles := [{ Tile.fresh 0 with holder := some 0 }] }
     x.sys.ensample.getLsbD 0 = true ∧ x.run = .run ∧ s.holder 0 = some 0 ∧ s.chorus % 2 ^ (x.sys.ensample.extractLsb' 1 5).toNat = 0 ∧
     x.sys.sampled ≠ some s.chorus ∧ (x.sys.ensample.extractLsb' 12 7).toNat = 127 ∧ 127 < x.pads.count ∧
     x.pads.owner.getD 127 .thread = .engine ∧ seat1.pads.owner.getD 127 .thread ≠ .engine) := by decide +kernel

/-! ### The machine as a whole -/

/-- DecodeEncode, MemoryInvariant, StepRuns, Frames: a well-formed operation with and without a literal; a state of
canonical memory that steps; a slot whose word decodes, one whose word does not, the end of an execution, an event, a module
without power; operations of a seat and a sequencer that answer a next state. -/
theorem test_witness_machine :
    (Instr.uniAddi 0 1 2 0 (some 7)).slot = some .uni ∧ (Instr.uniAddi 0 1 2 0 (some 7)).wf = true ∧
    (Instr.uniAddi 0 1 2 0 (some 7)).literal = some 7 ∧ (Instr.halt).literal = none ∧ State.reset.MemoryWf ∧
    (let s := State.reset.withFetchWord 32 0x45800000
     ∃ c, s.cursor = some c ∧ c.done = false ∧ c.word = (.ctl, 0x45800000, 0) ∧ decode .ctl 0x45800000 0 = .ok .halt) ∧
    decode .uni 0x0E000000 0 = .error .illegalOp ∧ (Cursor.seat 0 8 seat1).done = true ∧
    ({ State.reset with agenda := [(5, .heartbeat)] } : State).agenda = (5, .heartbeat) :: [] ∧ State.reset.moduleOn = true ∧
    ({ State.reset with moduleOn := false } : State).moduleOn = false ∧ decodeAnySlot 0x008628C0 0 ≠ none ∧
    (Instr.adrAdd tagA 1 2 3).slot = some .adr ∧ (Instr.adrAdd tagA 1 2 3).landsOnly = true ∧ (Instr.st tagA 1 2 0 0 none).storesPads = true := by
  refine ⟨rfl, rfl, rfl, rfl, ⟨rfl, rfl⟩, ⟨_, rfl, ?_, ?_, rfl⟩, ?_⟩
  all_goals decide +kernel

/-! ### Boundary values of single clauses -/

/-- An odd upset of the word at 0x100. -/
def upsetSeat : Seat := { seat1 with pads := { seat1.pads with upset := [(0x100, 1)] } }
def ownSeat (write : Bool) : Seat :=
  { seat1 with sync := { seat1.sync with own := [{ addr := 0x100, len := 8, write := write, edge := false, cycle := 0 }] } }

/-- ScratchScalar, ScratchAtomics, ScratchVectors: a word that waits for its rebuild, a write and a read to the own slot on their
way, bytes that a drain has yet to write under CHKCTL. -/
theorem test_witness_waits : upsetSeat.Waits 0x107 1 ∧ (ownSeat true).Waits 0x107 1 ∧ ¬(ownSeat false).Still 0x107 1 ∧
    (∃ o ∈ (ownSeat false).sync.own, 0 < o.len ∧ o.addr < 0x107 + 1 ∧ 0x107 < o.addr + o.len) ∧
    (let l : Landing := { sLand with eff := .pad 0x100 [1] }
     let x := { checked seat1 with landings := [l] }
     x.sys.chk = true ∧ x.landings = [l] ∧ l.eff = .pad 0x100 [1] ∧ 0x100 < 0x100 + 8 ∧ 0x100 < 0x100 + ([1] : List Byte).length) := by
  refine ⟨⟨by decide, .inl ⟨(0x100, 1), List.mem_singleton.mpr rfl, by decide +kernel, by decide, by decide⟩⟩,
    ⟨by decide, .inr ⟨_, List.mem_singleton.mpr rfl, by decide, by decide⟩⟩, fun h => ?_,
    ⟨_, List.mem_singleton.mpr rfl, by decide, by decide, by decide⟩, rfl, rfl, rfl, by decide, by decide⟩
  rcases h.2 _ (List.mem_singleton.mpr rfl) with h | h <;> revert h <;> decide

/-- RemoteAccesses, MpUSH of EdgesAndScales: a target granule that is poisoned, and one that VSTR would write in part. -/
theorem test_witness_remote_poison : ¬(poisoned seat1).Clean 0x38 8 ∧ seat1.Clean 0x38 8 ∧
    (∃ g ∈ (poisoned seat1).pads.poison, (∃ i ∈ [0], (0 + 4 * i) / 64 = g) ∧ ∃ i, i < 16 ∧ i ∉ [0] ∧ (0 + 4 * i) / 64 = g) :=
  ⟨fun h => by rcases h 0 (List.mem_singleton.mpr rfl) with h | h <;> omega, clean_seat1 _ _,
    ⟨0, List.mem_singleton.mpr rfl, ⟨0, by decide, by decide⟩, 1, by decide, by decide, by decide⟩⟩

/-- Loops, ExecutionsBegin, Replays: a level too few; a blocking bundle whose condition holds; results that disagree in
their sign, in being NaN and in their keys, and results that agree. -/
theorem test_witness_sequence : ({ gang1 with flow := .depth } : Gang).flow = .depth ∧
    (let it := { item1 with blocking := true }
     let x := { seat1 with go := true, queue := [.exec it] }
     x.go = true ∧ x.passesWait it = true) ∧
    skinkDisagrees 0xC 0 0x80000000 = true ∧ skinkDisagrees 0xC 0x7FC00000 0x7F800000 = true ∧ skinkDisagrees 9 0x10 0x12 = true ∧
    skinkDisagrees 9 0x10 0x11 = false ∧ skinkDisagrees 0x2 0 0xFFFFFFFF = false := by decide +kernel

/-- ScratchVectors, BankOperations: a row of VTRP and an entry of MFIX below address zero; Beats: a bank the seat lacks. -/
theorem test_witness_exact_sums : (0 : Word64).toInt + (7 : Int) * (-1 : Word64).toInt + (0 * 4 : Nat) < 0 ∧
    (-8 : Word64).toInt + 1 * (0 : Word64).toInt + 0 * 4 < 0 ∧ ({ seat1.mat with banks := [] } : Mat).banks[(3 : BitVec 2).toNat]? = none := by
  decide +kernel

/-- BeatArithmetic: a product that a shift of 2^60 carries beyond 72 bits (R34). -/
theorem test_witness_shifted_product :
    (let b := { beat1 with mode := .intScaled, atype := 0xE, btype := 0, a := 0x20, b := 0x7F, scaled := true
                           scales := 187 + 127 * 2 ^ 512 }
     b.mode ≠ .float ∧ ∃ v ∈ b.intShifted 0 0, v < -2 ^ 71 ∨ 2 ^ 71 - 1 < v) := by
  refine ⟨by decide, ?_⟩
  decide +kernel

/-- LatticeUnit, Copies, ChannelEvents: a CPYL whose joins come first; a granule that a deposit and an engine write in part; a refused
exchange; an element that starts an engine command whose source fails its parity; a sector parked ahead; a discarded page. -/
theorem test_witness_units :
    (let x := withCmd latSeat { cmd1 .cpyl with started := true }
     x.joinsFirst 1 = true ∧ x.joinsFirst 0 = false) ∧
    (poisoned seat1).partialPoison (cellsAt 0 [1]) = true ∧ seat1.partialPoison (cellsAt 0 [1]) = false ∧
    (poisoned seat1).enginePartial 0 8 0 8 = true ∧ (poisoned seat1).enginePartial 0 64 0 8 = false ∧
    (let s := { due2 with access := [] }
     s.allows (some (.lattice 1)) (0x4800 + 0) true false = false ∧ s.roundDue 0 0 = true) ∧
    (let m := { cmd1 .cpyo with reads := [(0x100, 8)] }
     (idle upsetSeat).sourceFails upsetSeat m = true ∧ (idle seat1).sourceFails seat1 m = false) ∧
    (let p : Parked := { seat := 0, cmd := 0, va := 0, bytes := [(0, 5)], poison := false, combine := none, raised := false, master := 0x800 }
     let x := withCmd seat1 (cmd1 .cpyi)
     ((idle x).putTile { Tile.fresh 0 with sideLog := [p] }).parkedAhead x 0 0x3F = true ∧ lineMate p [p] = none) ∧
    (let x := { withCmd seat1 (running (cmd1 .cpyo)) with extents := [ext1] }
     let s := { mapped (idle x) with pages := [{ page1 with disc := true }] }
     s.translate x true false 0 = .pa 0 false true ∧ (s.tile 0).sideLog.length < 256) := by decide +kernel

/-- Messages: a word to upset, one that fails alone, two in one column, an even one beside it; data that waits for its rebuild; a path
without a fault; a cell that is lost. -/
theorem test_witness_parity :
    (idle seat1).takeMsg (msg1 (.load 0x100 8 4)) = idle seat1 ∧ (idle seat1).pathUp 0 0 = true ∧
    (MsgBody.load 0x100 8 4).waitsParity upsetSeat = true ∧ (MsgBody.load 0x108 8 4).waitsParity upsetSeat = false ∧
    (MsgBody.load 0x100 8 4).span.isSome = true ∧ popcBits 64 (1 : Word64).toNat % 2 = 1 ∧ popcBits 64 (3 : Word64).toNat % 2 ≠ 1 ∧
    0x100 / 8 % 8 = 0x140 / 8 % 8 ∧ 0x100 / 8 % 8 ≠ 0x108 / 8 % 8 ∧ 0x108 + 8 ≤ 4096 * seat1.pads.count ∧
    (idle upsetSeat).failingGroups 0 ≠ [] ∧ (idle seat1).failingGroups 0 = [] ∧ ((idle seat1).tile 0).parErr = [] := by decide +kernel

/-- CollectivesAndOrder: a rank of a peer device and one of this device, a part of a rank that is due, a sender and its receiver, a
refused port. -/
theorem test_witness_parts :
    (let m := { running (cmd1 .a2av (shape 0 2)) with ranks := [0xFFFF000000000000, 0x0001000000000000], phase := 1, counts := [64, 64], got := [0, 0], p := 0x1000 }
     let x := withCmd seat1 m
     x.front 0 = some m ∧ (idle x).here (m.ranks.getD 1 0) = false ∧ (idle x).here (m.ranks.getD 0 0) = true ∧ m.got.getD 1 0 + 64 ≤ m.counts.getD 1 0 ∧
     (idle x).allows (some (.port 0 0)) (0x4820 + 0) true false = false) ∧
    (let s := { State.reset with access := [{ target := some (.port 0 0), master := 0x4820, w := true, r := true }] }
     s.allows (some (.port 0 0)) 0x4820 true false = true) := by decide +kernel

/-- ReleasesAndSc: an FSC with bulk traffic out; a seat whose next stamp lies ahead, one that has stamped; a store of the seat in core
scope. -/
theorem test_witness_stamps :
    (let x := { seat1 with unacked := 1, sync := { seat1.sync with scReady := some 5, scNeed := 1, scStamps := [] } }
     (idle x).drainedHere x = true ∧ x.unacked ≠ 0 ∧ x.sync.relq = [] ∧ x.nextStamp 0 = some 512 ∧ 512 ≤ 512) ∧
    (let x := { seat1 with sync := { seat1.sync with scStamps := [512] } }
     512 ∈ x.sync.scStamps) ∧
    (let m := msg1 (.store 0 [(0, 1)])
     (m.dst / 4 = m.src / 4) ∧ (idle seat1).blocked 0 m = false) := by decide +kernel

/-- TranslationAndHost: a page's bits against the access, an address no stack backs; contents on their way to a new place; a
sequencer that waits for a page; an unmap that the host's lease holds; a task that wrote a discarded page; a register write
under its table and without it. -/
theorem test_witness_pages :
    (let x := { seat1 with extents := [ext1] }
     let s := mapped (idle x)
     ({ s with pages := [{ page1 with w := false }] } : State).translate x true false 0 = .fault 0x11 ∧
     ({ s with diepres := 0 } : State).translate x true false 0 = .fault 0x10 ∧ s.translate x true false 0 = .pa 0 false false) ∧
    (let w : Away := { va := 0, len := pageBytes 0, bytes := [(5, 1)], poison := [] }
     w.len = pageBytes 0 ∧ (w.bytes.map (·.1)).Nodup ∧ (∀ c ∈ w.bytes, 0 ≤ c.1 ∧ c.1 < 0 + w.len)) ∧
    ({ gang1 with held := some (0x100, trapFrame) } : Gang).held = some (0x100, trapFrame) ∧
    (let s := { State.reset with hostMaps := [page1] }
     ∃ h ∈ s.hostMaps, s.chorus < h.lease ∧ h.meets page1 = true) ∧
    (let p : Parked := { seat := 0, cmd := 0, va := 0, bytes := [(0, 5)], poison := false, combine := none, raised := true, master := 0x800 }
     let s := (mapped (idle seat1)).putTile { Tile.fresh 0 with sideLog := [p] }
     s.parkedGangs page1 = [0] ∧ s.gang? 0 = some gang1) ∧
    State.reset.allows (some (.block 0x7F0800000000)) 0x4830 true false = true ∧
    ({ State.reset with access := [{ target := some (.block 0x7F0800000000), master := 0x4830, w := false, r := false }] } : State).allows
      (some (.block 0x7F0800000000)) 0x4830 true false = false ∧ State.reset.hubReach 0 0 = true := by decide +kernel

/-- Scheduling: a completion to be written; a doorbell half scanned; 4,096 records; a launch that is allotted; a scheduler that is
down with an allotted launch. -/
theorem test_witness_scheduler :
    (let c : Completion := { q := 0, entry := 0, cookie := 0, time := 0, cause := 0, forced := false, status := 0 }
     ({ loaded with unwritten := [c] } : State).unwritten = c :: []) ∧ loaded.unwritten = [] ∧
    (let s := { loaded with queues := [{ queue1 with reading := true, kicked := false }] }
     (s.queueOf 0).reading = true ∧ (s.queueOf 0).thaw = false ∧ (s.queueOf 0).en = true) ∧
    4096 ≤ ({ loaded with jseq := 4096 } : State).sinceCheckpoint ∧ loaded.sinceCheckpoint < 4096 ∧
    (let l := { launch1 with at' := .dispatched 0 }
     let s := { loaded with launches := [l], gangs := [{ gang1 with stop := .allotted none }] }
     s.unstarted = some (l, 0) ∧ s.gang? 0 = some { gang1 with stop := .allotted none }) ∧ loaded.booted = true ∧
    loaded.queues.Pairwise (fun a b => a.q < b.q) := by decide +kernel

/-- Stops: the sequencer in the middle of a repeating bundle; a gang halted by the monitor, by a kill, for heat behind another one. -/
theorem test_witness_saves :
    (let g := { gang1 with reps := 4, rep := 2 }
     g.seqTrap = none ∧ g.sends = true ∧ g.reps ≠ 0 ∧ g.rep ≠ 0) ∧
    (let s := { idle marked { gang1 with stop := .haltSent .monitor } with launches := [{ launch1 with at' := .running 0 }], schedUp := false }
     s.launches.find? (·.num == gang1.launch) = some { launch1 with at' := .running 0 } ∧ s.allStopped 0 = true ∧ s.held.length < 256 ∧
     (∀ y ∈ s.seats, y.gang = 0 → s.saveable y = true)) ∧
    (let x := { gang1 with stop := .haltSent .thermal }
     ({ x with prio := 1, order := 1 } : Gang).savedBefore { x with prio := 0, order := 0 } = true ∧ x.savedBefore x = false) ∧
    (idle marked).quiet marked = true ∧ State.reset.unstarted = none := by decide +kernel

/-- Margin, PowerAndReset: hub 0's links; a sector of channel 29 of stack 15; a tile lost on a die pair that is harvested; a hub at 105
and at 115 degrees; a notice that is delivered when the seat issues; a gang that a save for heat takes over; a task that had
completed when it lost power. -/
theorem test_witness_hubs :
    linkExists (.hub 0 4) = true ∧ linkExists (.hub 1 7) = true ∧ linkExists (.hub 0 1) = false ∧
    ({ State.reset with diepres := 0xFF } : State).homeOf (64 * (2 * (29 * 16 + Nat.xor 15 (29 % 16)))) = some (.home 7 1 29) ∧
    (let s := { idle seat1 with diepres := 0 }
     s.diepres.getLsbD (0 / 64) = false ∧ ∃ y ∈ s.seats, y.id / 4 = 0) ∧
    (let p := { Power.reset with celsius := (Vector.replicate 10 0).set 8 115 }
     115 ≤ p.celsius.getD 8 0 ∧ ∃ d ∈ p.celsius.toList, 105 ≤ d) ∧
    (let x := { seat1 with sys := { seat1.sys with thrstat := 1 } }
     (idle x).maySlot x = true ∧ x.sync.scNeed = 0 ∧ item1.blocking = false) ∧
    ({ gang1 with stop := .asked .preempt 0 } : Gang).exposed = true ∧ ({ gang1 with stop := .asked .thermal 0 } : Gang).exposed = false ∧
    (idle seat1).outcome gang1 = none ∧ (idle seat1).outcome { gang1 with stop := .done 2 7 } = none ∧ (idle marked).outcome { gang1 with stop := .done 2 7 } = some (2, 7) ∧
    ({ State.reset with powered := false } : State).powered = false := by decide +kernel

/-! ### Witnesses of further clauses -/

def delay1 (remain : Nat) (taken : Bool) : Delay := { remain := remain, taken := taken, target := 7, branch := 0, reth := false }
/-- A loop table entry like loopWord whose trip count is in G31. -/
def loopWordG : BitVec 128 := BitVec.ofNat 128 (1 + 4 * 2 ^ 32 + 2 ^ 56 + 2 ^ 58 + 31 * 2 ^ 96)

/-- SequencerResultsLand, DelayBundles, Loops: the last H register; bundles behind a taken and an untaken branch, not the last and
the last of a level; a trip count whose register is read too early. -/
theorem test_witness_sequence_ends :
    (15 : Nat) < 16 ∧
    (let z := { gang1 with delay := some (delay1 2 true), loops := [level1] }
     z.delay = some (delay1 2 true) ∧ (delay1 2 true).remain = 2 ∧ (delay1 1 true).remain = 1 ∧ (delay1 1 false).taken = false ∧
     z.loops = level1 :: [] ∧ level1.last = 4 ∧ level1.last ≠ 3) ∧
    (let g := { gang2 with loops := [level1], landings := [gLand], kernel := { gang2.kernel with loopTab := [0, loopWordG] } }
     let s := atSeqr 0 g (checked seat1)
     g.kernel.loopTab[(1 : BitVec 6).toNat]? = some loopWordG ∧ (loopEntry loopWordG).ok g = true ∧
     (match (s.sctx 0 g g).trips (loopEntry loopWordG) with | .error e => e.cause == 5 | .ok _ => false) = true ∧
     ({ g with loops := List.replicate 6 level1 } : Gang).loops.length = 6) := by decide +kernel

/-- FaultsLeaveNoEffect: a seat that traps with its tile's issue slot, and one beside it that is ready. -/
theorem test_witness_slot_passes :
    (let y := { seat1 with id := 1 }
     let s := { idle seat1 with seats := [seat1, y], tiles := [{ Tile.fresh 0 with holder := some 0 }] }
     s.holder 0 = some 0 ∧ y.ready = true ∧ y.id / 4 = 0 ∧ (idle seat1).holder 0 ≠ some 0) := by decide +kernel

/-- StreamGoesOn: a bundle whose second execution follows; fetches that fail behind a branch, at a branch target, and for a page
that is not mapped; a bundle of no execution, alone, as the last of a level, and behind a taken branch; the mesh to a member. -/
theorem test_witness_stream_fails : let s := mapped (idle { seat1 with queue := [] } gang3)
    (let y := { gang1 with reps := 2, rep := 1 }
     y.sends = true ∧ y.settle.reps ≠ 0 ∧ y.blocks = false ∧ y.held = none ∧ y.uni.issues 1 = false ∧ y.OpensAt 2) ∧
    (let y := { gang3 with pc := 1 }
     (∀ d, some d = some (delay1 1 true) → d.remain ≠ 0) ∧ (delay1 0 true).remain = 0 ∧
     s.fetch { y with delay := some (delay1 1 true) }.settle = .error (trapAt 0x1B 0, 0) ∧
     s.fetch { y with delay := some (delay1 0 true) }.settle = .error (trapAt 0x1B 0, 0)) ∧
    (let t := { s with pages := [] }
     (match t.fetch gang3.settle with | .error (e, _) => e.cause == 0 | .ok _ => false) = true) ∧
    (let z := { gang3 with rep := 1 }
     z.sends = true ∧ z.settle.reps = 0 ∧ s.fetch z.settle = .ok (0, [], 1) ∧ 1 ≤ z.settle.rep ∧ z.stop = .run ∧ z.delay = none ∧
     ({ level1 with last := 0 } : LoopLevel).last = z.pc ∧ (delay1 2 true).taken = true ∧ (delay1 2 true).reth = false) ∧
    s.meshUp seat1.die gang1.seqDie = true ∧ s.meshUp seat1.cfg.seqDie seat1.die = true := by
  refine ⟨⟨rfl, by decide, rfl, rfl, rfl, ?_⟩, ⟨?_, rfl, rfl, rfl⟩, ?_, ⟨rfl, rfl, rfl, by decide, rfl, rfl, rfl, rfl, rfl⟩, rfl, rfl⟩
  · refine ⟨fun h => absurd h.1 (by decide), fun _ h => absurd h.1 (by decide), fun _ _ => rfl⟩
  · intro d h; cases h; decide
  · decide +kernel

/-- RemoteAccesses, EdgesAndScales: a poisoned granule that the seat's own VSTR on its way writes whole, and one that it does not. -/
theorem test_witness_seen :
    (let m : Msg := { serial := 0, src := 0, dst := 0, pc := 0, slot := 4, ea := 0, arr := none, stamp := none
                      body := .store 0 ((List.range 64).map fun i => (i, 1)) }
     m.body.fillsGranule 0 = true ∧ ({ idle (poisoned seat1) with msgs := [m] } : State).seenBy seat1 (poisoned seat1) = seat1 ∧
     ((idle seat1).seenBy seat1 (poisoned seat1)).pads.poison = [0]) := by decide +kernel

/-- Beats: a queue that has no room for another edge; a K span that crosses a block, one whose edge is missing, is on its way under
CHKCTL, and holds a scale that an integer beat cannot take; a false predicate. -/
theorem test_witness_scales :
    (let x := { seat1 with landings := List.replicate 32 { sLand with eff := .remote 0 }
                           remotes := [{ id := 0, cost := 0, dst := .aEdge 0, arrived := false, sc := false }] }
     ¬((({ atSeat 5 x with seats := [x] } : State).ctx 5 x x).queueUse + 1 ≤ 32)) ∧
    (31 + 2 - 1) / 32 ≠ 31 / 32 ∧ (30 + 2 - 1) / 32 = 30 / 32 ∧ seat1.mat.scales = [] ∧
    (let l : Landing := { sLand with eff := .scale 0 5 }
     let x := { checked seat1 with landings := [l] }
     x.sys.chk = true ∧ x.landings = [l] ∧ l.eff = .scale 0 5) ∧
    ({ seat1.mat with scales := [(0, 126)] } : Mat).scales.find? (fun e => e.1 == 0) = some (0, 126) ∧
    (∃ j, j < 64 ∧ ∃ o ∈ [0, 512], ((126 : BitVec 1024).extractLsb' (o + 8 * j) 8).toNat < 127) ∧
    ((255 : BitVec 1024).extractLsb' 0 8).toNat = 255 ∧ Fmt.scm 0x20C0AAC = 2 ∧ seat1.predField 8 = .ok false ∧
    BeatTypes 0 0 1 64 2 .int := by
  refine ⟨?_, ?_, ?_, rfl, ?_, ?_, ⟨0, by decide, 0, by decide, by decide +kernel⟩, ?_, ?_, rfl, .inr ⟨rfl, rfl, rfl, .inl ⟨rfl, .inl rfl, .inl rfl⟩⟩⟩
  all_goals decide +kernel

/-- BankOperations: a result of MCHK of each reason, and a sound bank of one row; a drain that is torn, onto a pad of the engines and over
bytes on their way. -/
theorem test_witness_bank_classes :
    (let b := bank1
     ({ b with mode := .int } : Bank).mode = .int ∧ b.mode = .unset ∧ ({ b with unck := true } : Bank).unck = true ∧ b.unck = false ∧
     ({ b with ovr := true } : Bank).ovr = true ∧ b.ovr = false ∧ b.ndrn < 64 ∧ ({ b with nonFinite := true } : Bank).nonFinite = true ∧
     (let v := { b with ndrn := 16, mode := .float, rw := 16 }
      v.rw ≤ v.ndrn ∧ v.rw ≤ 64 ∧ v.nonFinite = false ∧
      ([v.cc, v.rc, v.mc, v.mr, v.dr, v.dc].all fun u => (List.range 64).all fun i => (val32 (u.getD i 0)).isFinite) = true) ∧
     (val32 (0x7F800000 : Word32)).isFinite = false) ∧
    (let x := poisoned seat1
     ∃ g ∈ x.pads.poison, 64 * g < 32 + 64 ∧ 32 < 64 * g + 64 ∧ (64 * g < 32 ∨ 32 + 64 < 64 * g + 64)) ∧
    (engineOwned seat1).pads.owner.getD 0 .thread ≠ .thread ∧
    (let l : Landing := { sLand with eff := .pad 0x100 [1] }
     let x := { checked seat1 with landings := [l] }
     x.Inside 0x100 256 ∧ (match x.needRange true (0x100, 256) with | .error _ => true | .ok _ => false) = true) := by
  refine ⟨⟨rfl, rfl, rfl, rfl, rfl, rfl, by decide +kernel, rfl, ⟨by decide +kernel, by decide +kernel, rfl, ?_⟩, ?_⟩, ?_, by decide +kernel, ⟨?_, ?_⟩, ?_⟩
  all_goals decide +kernel

/-- BeatArithmetic: beats of INT8, UINT8, DSW8, binary32, binary64, bfloat16 by DSW8 and sparse FP8, and operands of 8 bits. -/
theorem test_witness_beat_types :
    (∀ t ∈ ([(0, 4), (0xE, 0), (0xC, 0xC), (0xD, 0xD), (0xA, 0xE), (0xE, 0xA), (8, 9)] : List (BitVec 4 × BitVec 4)),
      ({ beat1 with atype := t.1, btype := t.2 } : Beat).atype = t.1 ∧ ({ beat1 with atype := t.1, btype := t.2 } : Beat).sparse = false) ∧
    (let b := { beat1 with atype := 0, btype := 4, mode := .int, a := 0x80FF, b := 0x80FF }
     (∀ c ∈ [b.atype, b.btype], c ∈ [0, 4, 0xE]) ∧ (∀ p ∈ b.pairs 0 0, p.1 < 2 ^ 8 ∧ p.2 < 2 ^ 8) ∧ b.pairs 0 0 ≠ []) ∧
    (let b := { beat1 with sparse := true, atype := 8, btype := 9 }
     b.sparse = true ∧ b.atype = 8 ∧ b.btype = 9) := by decide +kernel

/-- LatticeUnit: an open watch that a rise passes and one that it does not; a deposit that waits for earlier ones; an exchange that the
table refuses over a mark; deposits of slots and of a lane. -/
theorem test_witness_watches :
    (let w := { wait1 with lld := false, thr := 5 }
     let y := { latSeat with copy := { latSeat.copy with waits := [w] } }
     let s := { latState 0 0 with seats := [y], msgs := [latMsg (.lattice 0x1E 0x10000 7)], cursor := none }
     s.seat? y.id = some y ∧ w.watching = true ∧ s.cellAt y w.va = some (region 0, 0, 0) ∧ passes 0 w.thr 7 = true ∧
     passes 0 8 7 = false ∧ (7 : BitVec 512) ≠ s.cell 0 (region 0) 0) ∧
    (let w := { wait1 with deposit := some (depositBytes 0 0 7), watching := false }
     let x := engineOwned { latSeat with copy := { latSeat.copy with waits := [w] } }
     let s := { latState 0 0 with seats := [x], cursor := none }
     s.waits[0]? = some (0, w) ∧ x.engineOwned w.pad 16 = true ∧ x.depositClear w 16 = true ∧
     s.allows (some (.port x.die x.tile)) (0x4800 + x.die) true false = false ∧
     ({ s with access := [{ target := some (.port 0 0), master := 0x4800, w := true, r := false }] } : State).allows
       (some (.port x.die x.tile)) (0x4800 + x.die) true false = true ∧
     x.partialPoison (cellsAt w.pad (depositBytes 0 0 7)) = false ∧ (poisoned x).partialPoison (cellsAt w.pad (depositBytes 0 0 7)) = true ∧
     ({ x with landings := [{ sLand with eff := .pad 0 [1] }] } : Seat).depositClear { w with cycle := 9 } 16 = false) ∧
    (let s := { due2 with access := [], marks := [(0, 0, 1, 3)] }
     s.cellPoison = [] ∧ (∃ m ∈ s.marks, m.1 = 0 ∧ m.2.1 = 0) ∧ .refused 0 1 s.chorus ∉ s.notices) ∧
    (∀ m ∈ due2.marks, ¬(m.1 = 0 ∧ m.2.1 = 0)) ∧ isNan64 0 = false := by decide +kernel

/-- Messages: pad 127 of a tile that no seat holds, its word beside that of a seat in one column, and a cell that is watched as it is
lost. -/
theorem test_witness_stray :
    (let x := { seat1 with pads := { seat1.pads with count := 1, owner := [.thread], phys := [0], upset := [(0x100, 1)] } }
     let s := idle x
     (s.seats.map (·.id)).Nodup ∧ (s.tile 0).parErr = [] ∧ (s.tile 0).stray = [] ∧ (∀ z ∈ s.seats, z.id / 4 = 0 → 31 ∉ z.pads.phys) ∧
     x.pads.upset = [(0x100, 1)] ∧ 0x100 + 8 ≤ 4096 * x.pads.count ∧
     (x.pads.phys.getD (0x100 / 4096) 0 / 32 = 31 / 32 ∧ 0x100 / 64 % 32 = 0x900 / 64 % 32 ∧ 0x100 / 8 % 8 = 0x900 / 8 % 8) ∧
     ((s.putTile { Tile.fresh 0 with stray := [((31, 0x900), 1)] }).tile 0).stray = [((31, 0x900), 1)]) ∧
    (let y := { latSeat with copy := { latSeat.copy with waits := [{ wait1 with lld := false }] } }
     let s := { latState 0 0 with seats := [y], cursor := none }
     region 0 ∈ s.regions ∧ s.failingGroups 0 = [] ∧ (0, 1, 0) ∉ s.cellPoison ∧ s.seat? y.id = some y ∧ y.die = 0 / 64 ∧
     s.cellAt y wait1.va = some (region 0, 0, 0)) := by decide +kernel

/-- ChannelEvents: a halted seat; a home whose hub is cut off; the first command of its channel; bytes that wait for their unit. -/
theorem test_witness_halted_channels :
    (let x := { withCmd marked (running (cmd1 .cpyi)) with run := .marked }
     let g := { gang1 with stop := .haltSent .preempt }
     (idle x g).seat? 0 = some x ∧ (idle x g).gang? x.gang = some g ∧ x.sync.relq = [] ∧ (idle x g).halted x = true ∧
     x.front 0 = some (running (cmd1 .cpyi)) ∧ (idle x).halted x = false) ∧
    (let s := { State.reset with diepres := 3, links := [{ link := .mesh 0 1, down := false, spared := 1, half := false, retraining := true, back := 9 }] }
     s.meshUp 0 1 = false ∧ State.reset.meshUp 0 1 = true ∧ ((List.range 64).any fun i => s.homeUp 0 (64 * i) == false) = true) ∧
    (let m := { running (cmd1 .cpyi) with buf := [1, 2] }
     (withCmd seat1 m).copy.cmds.find? (fun q => q.ch == 0 && q.done < q.len) = some m ∧ m.readAt = 2 ∧ m.buf ≠ [] ∧
     (poisoned seat1).pads.poison = [0] ∧ 0 / 64 ≤ 0 ∧ 0 ≤ (0 + 8 - 1) / 64 ∧ ¬(8 ≤ 64 * 0 ∧ 64 * 0 + 64 ≤ 8 + 64)) := by decide +kernel

/-- A device in a pod of two, its peer behind port 0. -/
def pod2 (s : State) : State := { s with podid := 0x1000, rmap := State.reset.rmap.set 0 2 }

/-- CollectivesAndOrder: a port open and shut; a sender's words that are sound and that fail; a refused SENDO of this device and of a
peer; a combination that waits; a command that waits for a peer's word; a smaller stamp that is still to be sent. -/
theorem test_witness_peer_parts :
    (0 < 12 ∧ (pod2 State.reset).podid.getLsbD 12 = true ∧ ((pod2 State.reset).input (0 + 1)).up = true ∧ (pod2 State.reset).portTo 1 = some 0 ∧
     State.reset.podid.getLsbD 12 = false ∧ (pod2 State.reset).portTo 2 = none) ∧
    seat1.parityFails 0x100 8 = false ∧ upsetSeat.parityFails 0x100 8 = true ∧ (idle seat1).pathUp 0 0 = true ∧
    (let m : OrdMsg := { stamp := 5, dev := 1, seq := 0, dest := 0, seat := 0, addr := 0, data := List.replicate 64 0, poison := false
                         sig := none, src := none, master := 0x4820 }
     let q := { running (cmd1 .sendo) with sent := some 0 }
     let own := { m with dev := 0, src := some (0, 0), master := 0x800 }
     let s := { idle (engineOwned (withCmd { seat1 with sync := { seat1.sync with scStamps := [] } } q)) with inputs := State.reset.inputs.set 0 { SwitchInput.reset with queue := [own] }, chorus := 6 }
     let t := { pod2 (idle (engineOwned { seat1 with sync := { seat1.sync with scStamps := [] } })) with
       inputs := (State.reset.inputs.set 1 { SwitchInput.reset with queue := [m], mark := 6 }), chorus := 6 }
     s.localMsgs = [own] ∧ s.released own = true ∧ s.hubReach 1 0 = true ∧ s.allows (some (.port 0 0)) own.master true false = false ∧
     (withCmd seat1 q).copy.cmds.find? (·.serial == 0) = some q ∧ q.op = .sendo ∧ t.localMsgs = [m] ∧ t.released m = true ∧
     t.inputOf m = 1 ∧ q.sent.isSome = true ∧ q.done < q.len ∧ { q with heard := [0] }.heard ≠ []) ∧
    (let x := { seat1 with sync := { seat1.sync with scStamps := [7] } }
     7 ∈ (idle x).unsent ∧ (∀ m ∈ ((idle x).input 0).queue, 7 < m.stamp)) := by decide +kernel

/-- ReleasesAndSc: ports to ask and none, a request that is out, a peer that asks while its message is queued and after; an SC SENDO
without a stamp; a seat that is later. -/
theorem test_witness_peer_asks :
    (((List.range 12).filter fun p => (pod2 State.reset).portUsed p && ((pod2 State.reset).input (p + 1)).up) = [0]) ∧
    (((List.range 12).filter fun p => State.reset.portUsed p && (State.reset.input (p + 1)).up) = []) ∧
    (let s := { pod2 (idle { seat1 with unacked := 1 }) with peerOut := [.release 0 0] }
     .release 0 0 ∈ s.peerOut ∧ s.portIn 0 = true ∧ State.reset.portIn 0 = false) ∧
    (let m : OrdMsg := { stamp := 5, dev := 1, seq := 0, dest := 0, seat := 0, addr := 0, data := [], poison := false, sig := none, src := none, master := 0x4820 }
     let s := { pod2 State.reset with inputs := State.reset.inputs.set 1 { SwitchInput.reset with queue := [m] } }
     (∃ i ∈ s.inputs.toList, ∃ m ∈ i.queue, m.src = none ∧ m.dev = 1) ∧
     ¬(∃ i ∈ (pod2 State.reset).inputs.toList, ∃ m ∈ i.queue, m.src = none ∧ m.dev = 1)) ∧
    (let m := { cmd1 .sendo with p := 2 ^ 63 }
     m.op = .sendo ∧ m.p.testBit 63 = true ∧ m.stamp = none ∧ m.sent = none ∧ m.fault = none ∧ m.isSc = true) ∧
    seat1.nextStamp 0 = none ∧ ({ seat1 with copy := { seat1.copy with cmds := [] } } : Seat).copy.cmds = [] := by decide +kernel

/-- TranslationAndHost: pages that end at the reserved area and that meet it; a seat's block that the scheduler may and may not write; a
read whose data goes on beyond its length; a bus error that stands. -/
theorem test_witness_reserved :
    (let area := 90 * 2 ^ 30 - 4097 * 2 ^ 20
     let p := { page1 with pa := 0, size := 0 }
     p.pa + pageBytes p.size ≤ area ∧ area < area + pageBytes 0 ∧ area < 90 * 2 ^ 30) ∧
    (let block := 0x7F0000000000 + 0 / 256 * 2 ^ 32 + 0 / 4 % 64 * 2 ^ 20 + 0 % 4 * 2 ^ 16
     (idle seat1).allows (some (.block block)) 0x4830 true false = true ∧
     ({ idle seat1 with access := [{ target := some (.block block), master := 0x4830, w := false, r := false }] } : State).allows
       (some (.block block)) 0x4830 true false = false) ∧
    flitBad { flit1 3 8 with data := List.replicate 8 0 ++ [1], pad := List.replicate 231 0 } = true ∧
    .busError 0x4831 0x100 ∈ ({ State.reset with notices := [.busError 0x4831 0x100] } : State).notices ∧ page1.size ≤ 3 := by decide +kernel

/-- Scheduling, Stops: a request of a gang that is allotted, with and without one before it; a pre-emption in a take-over; a seat
that waits for its SC operation; a halted seat beside one that runs; an ended gang whose seats run and stand; slabs that the table refuses. -/
theorem test_witness_allotted :
    (let x := { gang1 with stop := .allotted (some .preempt) }
     x.stop = .allotted (some .preempt) ∧ x.edge = true ∧ x.level = false ∧ x.serial = 0 ∧ x.waiting = false ∧
     ({ gang1 with stop := .allotted none } : Gang).stop ≠ .allotted (some .preempt) ∧ stopRank .preempt < stopRank .kill) ∧
    State.reset.schedUp = false ∧
    (let m := { msg1 (.amo 0 4 0 1 0 4 true) with stamp := some 512 }
     (withMsg seat1 m).scBusy seat1 = true ∧ (idle marked).scBusy marked = false) ∧
    (∃ y ∈ (idle seat1).seats, y.gang = 0 ∧ y.run ≠ .marked) ∧ (∀ y ∈ (idle marked).seats, y.gang = 0 → y.run = .marked ∧ y.run ≠ .run) ∧
    (let x := { gang1 with stop := .done 4 0 }
     x.stop = .done 4 0 ∧ ∃ y ∈ (idle seat1 x).seats, y.gang = 0 ∧ y.run = .run) ∧
    (let v : SavedGang := { q := 0, gang := gang1, seats := [{ seat1 with slab := 0x10000 }], failed := false }
     let s := mapped State.reset
     s.refusedSlab v = none ∧
     ({ s with access := [{ target := none, master := 0x4830, w := false, r := false }] } : State).refusedSlab v = some 0x10000) := by decide +kernel

/-- Margin, PowerAndReset: gangs held that a loss adds to; a task with and without a collective; a notice that waits for a halt; tiles
that fail their test, in a cluster that has its spare and in one that has not; a reset with what its journal holds. -/
theorem test_witness_losses :
    State.reset.held.length + State.reset.gangs.length ≤ 256 ∧
    (∀ q ∈ (withCmd seat1 (cmd1 .cpyi)).copy.cmds, q.op.collective = false) ∧ (cmd1 .a2av).op.collective = true ∧
    (let x := withCmd seat1 (cmd1 .a2av (shape 0 2))
     ({ mapped (idle x) with hbm := [(6, 1)], access := [{ target := none, master := 0x800, w := true, r := true }] } : State).namesPeer x (fun _ => true) = true) ∧
    ({ gang1 with stop := .haltSent .preempt } : Gang).stop = .haltSent .preempt ∧ gang1.stop = .run ∧
    seat1.sys.thrstat.getLsbD 0 = false ∧ seat1.die < 8 ∧ (State.reset.power.level.getD 0 0) < 7 ∧
    (State.reset.record (recordNo 0)).fenced = false ∧
    (let s := State.reset.selfTest [0]
     (s.record (recordNo 0)).fenced = true) := by decide +kernel

/-- DecodeEncode, MemoryInvariant, StepRuns: what a word stands for, an opcode beyond the slot's last, a word that stands for nothing; a
state with each form; a seat that runs an execution. -/
theorem test_witness_stands :
    (Instr.halt).StandsAs .ctl 0x45800000 0 ∧ Slot.ctl.lastOp < ((0x5F800000 : Word32).extractLsb' 23 6).toNat ∧
    ((0x090A2001 : Word32).extractLsb' 23 6).toNat ≤ Slot.uni.lastOp ∧
    State.reset.MemoryWf ∧ State.reset.CellsWf ∧ (idle seat1).SeatsApart ∧ (∀ v ∈ (idle seat1).saved, v.Apart) ∧
    (match step { State.reset with agenda := [(5, .heartbeat)] } with | .next _ => true | _ => false) = true ∧ seat1.cur ≠ none := by
  refine ⟨⟨.inl rfl, rfl, rfl, by simp [Instr.literal]⟩, by decide, by decide, ⟨rfl, rfl⟩, ⟨?_, ?_, ?_, ?_⟩, List.nodup_singleton 0, ?_, ?_, ?_⟩
  all_goals first | (intro v h; cases h) | decide +kernel

/-- CollectivesAndOrder: a member that a message names, and a rank table in memory that names the seat once, with a rank of another
device beside it. -/
theorem test_witness_rank_table :
    (let m := { cmd1 .sendo (shape 0 2 + 0x200) with p := 2 ^ 63, stamp := some 3 }
     let x := { withCmd (engineOwned seat1) m with extents := [ext1] }
     let s := { mapped (idle x) with
       launches := [{ launch1 with at' := .running 0 }], hbm := [(0x206, 255), (0x207, 255), (0x20E, 1)], chorus := 5
       access := [{ target := none, master := 0x800, w := true, r := true }] }
     (s.participant 0).map (·.id) = some 0 ∧ s.mayStart x m = true ∧ s.portRefusal x m = none ∧
     (match s.readParts x m.ch (virtualSectors (shapeBase m.snap) (8 * m.ranksN)) with
       | .ok (some (bs, _)) => rankEntries bs m.ranksN == [0xFFFF000000000000, 0x0001000000000000]
       | _ => false) = true ∧
     ((List.range 2).filter fun i => s.here ([0xFFFF000000000000, 0x0001000000000000].getD i 0) &&
       s.isNamed (participantOf ([0xFFFF000000000000, 0x0001000000000000].getD i 0)) x) = [0]) := by decide +kernel

/-! ### Single steps against values of the spec -/

/-- R133, R116: 5 + 7 in G3 one issue cycle on, through the decoder and the step. -/
theorem test_step_uni_add :
    (match step (atSeqr 1 { gang1 with g := gang1.g.setIfInBounds 5 5 |>.setIfInBounds 6 7, standing := gang1.standing.set 1 { word := uniWord, lit := 0, bar := 0, acc := 0 } }) with
      | .next t => t.gangs.map (·.landings) == [[{ due := 1, slot := 1, pc := 0, eff := .gReg 3 12 }]]
      | _ => false) = true := by decide +kernel

/-- R145, R147: ADDI of -1 to 0 wraps; SRA of the most negative number keeps the sign. -/
theorem test_adr_wraps :
    (match exec (.adrAddi tagA 3 0 0x7F none) (atSeat 2 seat1), exec (.adrSra tagA 3 6 7) (atSeat 2 (withS (withS seat1 6 0x8000000000000000) 7 63)) with
      | .next t, .next u => t.seats.map (·.landings.map (·.eff)) == [[.sReg 3 0xFFFFFFFFFFFFFFFF]] &&
          u.seats.map (·.landings.map (·.eff)) == [[.sReg 3 0xFFFFFFFFFFFFFFFF]]
      | _, _ => false) = true := by decide +kernel

/-- R155, R157: a load of eight bytes that ends beyond the pads raises SCRATCH_RANGE, one at an odd address ALIGN. -/
theorem test_load_traps :
    (match exec (.ld tagA 3 6 0 3 none) (atSeat 2 (withS seat1 6 0x7FFFC)), exec (.ld tagA 3 6 0 3 none) (atSeat 2 (withS seat1 6 1)) with
      | .next t, .next u => t.seats.map (fun x => (x.run, x.sys.frame.cause, x.sys.frame.f1)) == [(.trapped, 0x20A, 0x7FFFC)] &&
          u.seats.map (fun x => (x.run, x.sys.frame.cause, x.sys.frame.f1)) == [(.trapped, 0x20B, 1)]
      | _, _ => false) = true := by decide +kernel

/-- R3, R169: ST of a halfword stores its low byte first and changes nothing beside it. -/
theorem test_store_bytes :
    (match exec (.st tagA 7 6 0 1 none) (atSeat 2 (withS (withS seat1 6 0x100) 7 0x11223344)) with
      | .next t => t.seats.map (·.pads.bytes) == [[(0x100, 0x44), (0x101, 0x33)]]
      | _ => false) = true := by decide +kernel

/-- R103, R104: five indices over a gang of two members are three rounds; in round 2 member 1 has none and discards. -/
theorem test_loop_rounds :
    loopLimit { gang1 with c := 2 } 1 5 = 3 ∧
    (let l : LoopLevel := { index := 2, limit := 3, entry := 0, kind := 1, trips := 5, first := 0, last := 0 }
     let x (m : Nat) : Seat := { seat1 with m := m, cfg := { seat1.cfg with c := 2 }, cur := some { item1 with loops := [l] } }
     (x 0).loopIndex 0 = 4 ∧ (x 0).discarding = false ∧ (x 1).loopIndex 0 = 5 ∧ (x 1).discarding = true) := by decide +kernel

/-- R258: the worked example of ROUTE: three tokens of two choices, three experts of capacity two. -/
theorem test_route_example :
    (let out := routeOutput 2 3 2 [0x3F400001, 0x3E800000, 0x3F000001, 0x3F000002, 0x3F200001, 0x3EC00000, 0x3F000002, 0x3F000002]
     let word (i n : Nat) : Nat := leNat ((out.drop i).take n)
     word 0 8 = 0x000100003E800000 ∧ word 48 8 = 0x010000023F200001 ∧ word 56 8 = 0x010100033F000002 ∧ word 64 4 = 2 ∧ word 68 4 = 2 ∧
     word 72 4 = 2 ∧ word 76 4 = 0 ∧ word 80 4 = 2 ∧ word 84 4 = 4 ∧ word 88 8 = 6) := by decide +kernel

/-- R34, R202: one product of bfloat16, 1.5 times 2, is the exact 3. -/
theorem test_beat_product :
    (let b := { beat1 with a := 0x3FC0, b := 0x4000 }
     roundFloat acc72 .rne 0 false (exactSum (Ext.zero false) (b.products 0 0)) = roundFloat acc72 .rne 0 false (.fin false 3 0)) := by decide +kernel

/-- R363, R130: RETH outside handler level raises ILLEGAL_FIELD at the sequencer with SEQ and LEAD. -/
theorem test_reth_outside :
    (match exec .reth (atSeqr 0 gang1) with
      | .next t => t.gangs.map (fun g => g.seqTrap.map (·.cause)) == [some 0x6002]
      | _ => false) = true := by decide +kernel

/-- R406: a write of 24 bytes to an unmapped page is acknowledged with STATUS 2; a bad flit with 3. -/
theorem test_host_port :
    (match exec (.hostWrite (flit1 2 24)) { idle seat1 with portOpen := true }, exec (.hostWrite (flit1 9 8)) { idle seat1 with portOpen := true } with
      | .next t, .next u => t.hostOut.map (fun f => (f.kind, f.status)) == [(6, 2)] && u.hostOut.map (fun f => (f.kind, f.status)) == [(6, 3)]
      | _, _ => false) = true := by decide +kernel
end

section
/-! SUPPORT. Branches of the sequencer (R85, R118, R119): their conditions and targets, what each of the five operations
leaves, and the words that no condition stands for. -/

namespace Sys2Proof

/-- R79: a word whose candidate lies outside the limits of its fields raises ILLEGAL_FIELD. -/
theorem decode_of_not_wf {sl : Slot} {w l : Word32} {i : Instr}
    (hr : readSlot sl { w := w, lit := if w.getLsbD 31 then some l else none } = some i) (hw : i.wf = false) :
    decode sl w l = .error .illegalField := by
  simp only [decode, hr]
  simp [hw]

/-- R85: seven codes name a condition, so a BR whose field cc is beyond them is outside its limits. -/
theorem Instr.br_not_wf {cc : BitVec 4} (h : 7 ≤ cc.toNat) (ga gb : RField) (disp : BitVec 7) (lit : Option Word32) :
    (Instr.br cc ga gb disp lit).wf = false := by
  have hcc : ¬cc.toNat ≤ 6 := by omega
  simp [Instr.wf, hcc]

/-- As for a BR (R118). -/
theorem Instr.brv_not_wf {cc : BitVec 4} (h : 7 ≤ cc.toNat) (gb : RField) (disp : BitVec 7) (lit : Option Word32) :
    (Instr.brv cc gb disp lit).wf = false := by
  have hcc : ¬cc.toNat ≤ 6 := by omega
  simp [Instr.wf, hcc]

/-- R85: opcodes 0x01 and 0x02 of the CTL slot with a cc of 7 to 15. -/
theorem decode_ctl_reserved_cc {w : Word32} (l : Word32) (hop : w.extractLsb' 23 6 = 0x01 ∨ w.extractLsb' 23 6 = 0x02)
    (hcc : 7 ≤ (w.extractLsb' 19 4).toNat) : decode .ctl w l = .error .illegalField := by
  rcases hop with hop | hop
  · exact decode_of_not_wf (by simp only [readSlot, readCtl, Fields.op, hop]; rfl) (Instr.br_not_wf hcc ..)
  · exact decode_of_not_wf (by simp only [readSlot, readCtl, Fields.op, hop]; rfl) (Instr.brv_not_wf hcc ..)

namespace Machine

/-! ### Conditions and targets -/

/-- The condition the sequencer computes is the one of R85. -/
theorem cond_iff_condHolds (cc : Nat) (x y : Word64) : cond cc x y = true ↔ CondHolds cc x y := by
  match cc with
  | 0 => simp [cond, CondHolds]
  | 1 => simp [cond, CondHolds]
  | 2 => simp [cond, CondHolds, BitVec.slt_iff_toInt_lt]
  | 3 => simp [cond, CondHolds, BitVec.slt_eq_decide]
  | 4 => simp [cond, CondHolds, BitVec.ult_iff_toNat_lt]
  | 5 => simp [cond, CondHolds, BitVec.ult_eq_decide]
  | _ + 6 => simp [cond, CondHolds]

/-- A bundle number from zero on is held as it is. -/
theorem targetNat_natCast (n : Nat) : targetNat n = n := by
  simp [targetNat]

/-- A bundle number below zero is held modulo 2^64 (R120). -/
theorem targetNat_of_neg {t : Int} (hlo : -2 ^ 64 ≤ t) (hneg : t < 0) : (targetNat t : Int) = 2 ^ 64 + t := by
  have hn : ¬0 ≤ t := by omega
  simp only [targetNat, if_neg hn, BitVec.toNat_ofInt]
  omega

/-- The target that a branch with a label computes is the one of R119. -/
theorem isTarget_targetNat (pc : Nat) (disp : BitVec 7) (lit : Option Word32) :
    IsTarget pc disp lit (targetNat (branchTarget pc disp lit)) := by
  cases lit with
  | some l => exact targetNat_natCast _
  | none =>
    have hd := BitVec.le_toInt disp
    by_cases h : 0 ≤ (pc : Int) + disp.toInt
    · simp [IsTarget, branchTarget, targetNat, h]
    · simpa only [IsTarget, branchTarget, if_neg h] using targetNat_of_neg (by omega) (by omega)

/-! ### The five branches -/

/-- A decision on two reads: ALWAYS reads neither, and answers alike for all values (R85). -/
theorem decision_of_reads {cc : BitVec 4} {rx ry : Except TrapInfo Word64} {x y : Word64} (f : Bool → Gang)
    (hx : cc ≠ 6 → rx = .ok x) (hy : cc ≠ 6 → ry = .ok y) :
    (do
      let x ← if cc = 6 then pure 0 else rx
      let y ← if cc = 6 then pure 0 else ry
      return f (cond cc.toNat x y)) = .ok (f (cond cc.toNat x y)) := by
  by_cases h : cc = 6
  · subst h; rfl
  · simp only [if_neg h, hx h, hy h]; rfl

section
variable {s : State} {g slot : Nat} {base live : Gang}

/-- BR decides on two G sources (R118). -/
theorem exec_br {cc : BitVec 4} {ga gb : RField} {x y : Word64} (h : s.InSeqr g slot base live)
    (hx : cc ≠ 6 → (s.sctx slot base live).src ga = .ok x) (hy : cc ≠ 6 → (s.sctx slot base live).src gb = .ok y)
    (disp : BitVec 7) (lit : Option Word32) :
    exec (.br cc ga gb disp lit) s =
      s.seqDone (live.branching base.pc (targetNat (branchTarget base.pc disp lit)) (cond cc.toNat x y)) := by
  show execBr cc ga gb disp lit s = .next _
  exact seqOp_ok h (decision_of_reads (live.branching base.pc (targetNat (branchTarget base.pc disp lit))) hx hy)

/-- BRV decides on the vote register and a G source (R118). -/
theorem exec_brv {cc : BitVec 4} {gb : RField} {x y : Word64} (h : s.InSeqr g slot base live)
    (hx : cc ≠ 6 → (s.sctx slot base live).voteVal = .ok x) (hy : cc ≠ 6 → (s.sctx slot base live).src gb = .ok y)
    (disp : BitVec 7) (lit : Option Word32) :
    exec (.brv cc gb disp lit) s =
      s.seqDone (live.branching base.pc (targetNat (branchTarget base.pc disp lit)) (cond cc.toNat x y)) := by
  show execBrv cc gb disp lit s = .next _
  exact seqOp_ok h (decision_of_reads (live.branching base.pc (targetNat (branchTarget base.pc disp lit))) hx hy)

theorem exec_jmp (h : s.InSeqr g slot base live) (disp : BitVec 7) (lit : Option Word32) :
    exec (.jmp disp lit) s = s.seqDone (live.branching base.pc (targetNat (branchTarget base.pc disp lit)) true) := by
  show execJmp disp lit s = .next _
  exact seqOp_ok h rfl

/-- CALL branches and leaves its link (R116, R119). -/
theorem exec_call (h : s.InSeqr g slot base live) (disp : BitVec 7) (lit : Option Word32) :
    exec (.call disp lit) s =
      s.seqDone ((live.link slot base.pc).branching base.pc (targetNat (branchTarget base.pc disp lit)) true) := by
  show execCall disp lit s = .next _
  exact seqOp_ok h rfl

/-- The register forms take the source, unsigned, as their target (R119). -/
theorem exec_jmpReg {ga : RField} {x : Word64} (h : s.InSeqr g slot base live)
    (hx : (s.sctx slot base live).src ga = .ok x) :
    exec (.jmpReg ga) s = s.seqDone (live.branching base.pc x.toNat true) := by
  show execJmpReg ga s = .next _
  exact seqOp_ok h (by simp only [hx]; rfl)

theorem exec_callReg {ga : RField} {x : Word64} (h : s.InSeqr g slot base live)
    (hx : (s.sctx slot base live).src ga = .ok x) :
    exec (.callReg ga) s = s.seqDone ((live.link slot base.pc).branching base.pc x.toNat true) := by
  show execCallReg ga s = .next _
  exact seqOp_ok h (by simp only [hx]; rfl)

theorem exec_ret {x : Word64} (h : s.InSeqr g slot base live) (hx : (s.sctx slot base live).src 31 = .ok x) :
    exec .ret s = s.seqDone (live.branching base.pc x.toNat true) := by
  show execRet s = .next _
  exact seqOp_ok h (by simp only [hx]; rfl)

end

/-- Settles O6: what each branch leaves, its condition and target in the terms of R85 and R119. -/
theorem branches : Obligations.Branches := by
  unfold Obligations.Branches
  intro s g base live cc ga gb disp lit taken h
  have htgt := isTarget_targetNat base.pc disp lit
  have htaken : ∀ {x y}, (taken = true ↔ CondHolds cc.toNat x y) → cond cc.toNat x y = taken := fun ht =>
    Bool.eq_iff_iff.mpr ((cond_iff_condHolds ..).trans ht.symm)
  refine ⟨?br, ?brv, ?always, ⟨_, htgt, exec_jmp h disp lit, exec_call h disp lit⟩, ?register,
    fun x hx => exec_ret h hx, fun w l hop hcc => decode_ctl_reserved_cc l hop hcc⟩
  case br =>
    intro x y hx hy ht
    exact ⟨_, htgt, htaken ht ▸ exec_br h (fun _ => hx) (fun _ => hy) disp lit⟩
  case brv =>
    intro x y hx hy ht
    exact ⟨_, htgt, htaken ht ▸ exec_brv h (fun _ => hx) (fun _ => hy) disp lit⟩
  case always =>
    rintro rfl
    exact ⟨_, htgt, exec_br (x := 0) (y := 0) h (absurd rfl) (absurd rfl) disp lit,
      exec_brv (x := 0) (y := 0) h (absurd rfl) (absurd rfl) disp lit⟩
  case register =>
    intro x hx
    exact ⟨exec_jmpReg h hx, exec_callReg h hx⟩

end Machine
end Sys2Proof
end

section
/-! SUPPORT. VOTE at the sequencer (R106, R137): the reductions as facts about the list of values, whose values are reduced, and
what a BRV on the vote register reads. -/

namespace Sys2Proof
namespace Machine

/-! ### Folds of a selection: an operation that answers one of its two operands -/

section
variable {α : Type} {f : α → α → α} {b : α}

/-- A fold by a selection answers its start or one of the elements. -/
theorem foldl_selection_mem (hf : ∀ x y, f x y = x ∨ f x y = y) (b : α) (vs : List α) : vs.foldl f b ∈ b :: vs := by
  refine List.foldlRecOn vs f List.mem_cons_self fun x hx v hv => ?_
  rcases hf x v with h | h <;> rw [h]
  · exact hx
  · exact List.mem_cons_of_mem b hv

/-- A fold by a selection that prefers every element to its start answers one of them, where there is one. -/
theorem foldl_selection_mem_of_ne_nil (hf : ∀ x y, f x y = x ∨ f x y = y) (hb : ∀ v, f b v = v) {vs : List α}
    (hvs : vs ≠ []) : vs.foldl f b ∈ vs := by
  cases vs with
  | nil => exact absurd rfl hvs
  | cons v vs =>
    rw [List.foldl_cons, hb]
    exact foldl_selection_mem hf v vs

/-- A fold by an operation that lies below both its operands in the order of a key lies below every element. -/
theorem foldl_key_le {β : Type} [Preorder β] {key : α → β} (hl : ∀ x y, key (f x y) ≤ key x)
    (hr : ∀ x y, key (f x y) ≤ key y) (b : α) (vs : List α) : ∀ v ∈ b :: vs, key (vs.foldl f b) ≤ key v := by
  induction vs generalizing b with
  | nil => intro v hv; rw [List.mem_singleton.mp hv]; exact le_rfl
  | cons w vs ih =>
    obtain ⟨hstart, hrest⟩ := List.forall_mem_cons.mp (ih (f b w))
    exact List.forall_mem_cons.mpr ⟨hstart.trans (hl b w), List.forall_mem_cons.mpr ⟨hstart.trans (hr b w), hrest⟩⟩

end

/-! ### MIN and MAX of two words (R133) -/

theorem minSigned_eq_or (x y : Word64) : minSigned x y = x ∨ minSigned x y = y := ite_eq_or_eq ..

theorem maxSigned_eq_or (x y : Word64) : maxSigned x y = x ∨ maxSigned x y = y := (ite_eq_or_eq ..).symm

theorem toInt_minSigned (x y : Word64) : (minSigned x y).toInt = min x.toInt y.toInt := by
  simp only [minSigned, BitVec.sle_iff_toInt_le, min_def, apply_ite BitVec.toInt]

theorem toInt_maxSigned (x y : Word64) : (maxSigned x y).toInt = max x.toInt y.toInt := by
  simp only [maxSigned, BitVec.sle_iff_toInt_le, max_def, apply_ite BitVec.toInt]

theorem minSigned_largest (v : Word64) : minSigned 0x7FFFFFFFFFFFFFFF v = v := by
  rw [← BitVec.toInt_inj, toInt_minSigned]
  exact min_eq_right v.toInt_le

theorem maxSigned_smallest (v : Word64) : maxSigned 0x8000000000000000 v = v := by
  rw [← BitVec.toInt_inj, toInt_maxSigned]
  exact max_eq_right v.le_toInt

/-! ### The five reductions (R106) -/

theorem voteResult_any (vs : List Word64) : voteResult 0 vs = if ∃ v ∈ vs, v ≠ 0 then 1 else 0 := by
  simp [voteResult]

theorem voteResult_all (vs : List Word64) : voteResult 1 vs = if ∀ v ∈ vs, v ≠ 0 then 1 else 0 := by
  simp [voteResult]

theorem toNat_foldl_add (b : Word64) (vs : List Word64) :
    (vs.foldl (· + ·) b).toNat = (b.toNat + (vs.map BitVec.toNat).sum) % 2 ^ 64 := by
  induction vs generalizing b with
  | nil => exact (Nat.mod_eq_of_lt b.isLt).symm
  | cons v vs ih => rw [List.foldl_cons, ih, BitVec.toNat_add, Nat.mod_add_mod, List.map_cons, List.sum_cons, Nat.add_assoc]

theorem voteResult_sum (vs : List Word64) : (voteResult 2 vs).toNat = (vs.map BitVec.toNat).sum % 2 ^ 64 :=
  (toNat_foldl_add 0 vs).trans (congrArg (· % 2 ^ 64) (Nat.zero_add _))

theorem voteResult_min_le {vs : List Word64} {v : Word64} (hv : v ∈ vs) : (voteResult 3 vs).toInt ≤ v.toInt :=
  foldl_key_le (key := BitVec.toInt) (fun x y => by simp [toInt_minSigned]) (fun x y => by simp [toInt_minSigned])
    _ vs v (List.mem_cons_of_mem _ hv)

theorem le_voteResult_max {vs : List Word64} {v : Word64} (hv : v ∈ vs) : v.toInt ≤ (voteResult 4 vs).toInt :=
  neg_le_neg_iff.mp (foldl_key_le (key := fun v => -v.toInt) (fun x y => by simp [toInt_maxSigned])
    (fun x y => by simp [toInt_maxSigned]) _ vs v (List.mem_cons_of_mem _ hv))

theorem voteResult_min_mem {vs : List Word64} (hvs : vs ≠ []) : voteResult 3 vs ∈ vs :=
  foldl_selection_mem_of_ne_nil minSigned_eq_or minSigned_largest hvs

theorem voteResult_max_mem {vs : List Word64} (hvs : vs ≠ []) : voteResult 4 vs ∈ vs :=
  foldl_selection_mem_of_ne_nil maxSigned_eq_or maxSigned_smallest hvs

/-! ### Whose values are reduced (R100, R137) -/

/-- A member as it votes: at the blocking bundle that heads its queue. -/
def Seat.voter (x : Seat) : Seat :=
  match x.queue with
  | .exec i :: _ => x.atHead i
  | _ => x

theorem Seat.voter_of_queue {x : Seat} {i : Item} {q : List QItem} (h : x.queue = .exec i :: q) : x.voter = x.atHead i := by
  simp only [Seat.voter, h]

/-- A read that is checked and fails is among the values too: the member votes with the previous value (log entry
32). -/
theorem votesOf_eq_map_voter {s : State} {y : Gang} (a : RField)
    (hq : ∀ x ∈ s.seats, x.gang = y.id → ∃ i q, x.queue = .exec i :: q) :
    s.votesOf y a =
      (s.seats.filter fun x => x.gang == y.id && !x.voter.suppressed).map fun x => x.voter.srcVal a := by
  rw [← List.filterMap_eq_map, List.filterMap_filter, State.votesOf, List.filterMap_filter]
  refine List.filterMap_congr fun x hx => ?_
  by_cases hg : x.gang = y.id
  · obtain ⟨i, q, hi⟩ := hq x hx hg
    cases hs : (x.atHead i).suppressed <;> simp [hg, hi, Seat.voter_of_queue hi, hs]
  · simp [hg]

/-! ### The operation, its end, and the branch on the vote register -/

section
variable {s : State} {g slot : Nat} {base live : Gang}

/-- VOTE leaves what is to be reduced at the completion of its bundle (R137). -/
theorem exec_vote (h : s.InSeqr g slot base live) (o : BitVec 1) (d a f : RField) :
    exec (.vote o d a f) s = s.seqDone { live with votePend := some (d.toNat, a, f.toNat) } := by
  show execVote o d a f s = .next _
  exact seqOp_ok h rfl

theorem takeVote_of_votePend {y : Gang} {d op : Nat} {a : RField} (h : y.votePend = some (d, a, op)) :
    s.takeVote y = (y.land 1 1 (.vote (voteResult op (s.votesOf y a)))).landG 1 1 d (voteResult op (s.votesOf y a)) := by
  simp only [State.takeVote, h]

/-- With no result on its way a checked read at the sequencer is never held up (R116). -/
theorem checkLanded_of_no_landings (h : base.landings = []) (hit : SeqLand → Bool) :
    (s.sctx slot base live).checkLanded hit = .ok () := by
  simp [SCtx.checkLanded, State.sctx, h]

theorem voteVal_of_no_landings (h : base.landings = []) : (s.sctx slot base live).voteVal = .ok base.vote := by
  simp only [SCtx.voteVal, checkLanded_of_no_landings h]; rfl

end

/-- Settles O11: what VOTE leaves, what the end of its bundle makes of it by R106's reductions over the members that take part, and
a BRV on the register. -/
theorem vote : Obligations.Vote := by
  unfold Obligations.Vote
  refine ⟨fun s g base live o d a f h => exec_vote h o d a f, fun s y d a op h => takeVote_of_votePend h, ?reductions,
    fun s y a hq => votesOf_eq_map_voter a hq, ?branch⟩
  case reductions =>
    intro vs
    exact ⟨voteResult_any vs, voteResult_all vs, voteResult_sum vs, fun v hv => ⟨voteResult_min_le hv, le_voteResult_max hv⟩,
      fun hvs => ⟨voteResult_min_mem hvs, voteResult_max_mem hvs⟩, rfl, rfl⟩
  case branch =>
    intro s g base live disp lit h hl
    exact ⟨_, isTarget_targetNat base.pc disp lit,
      exec_brv h (fun _ => voteVal_of_no_landings hl) (y := 0) (fun _ => rfl) disp lit⟩

end Machine
end Sys2Proof
end
